-- ==== Sys2Proof/Word.lean ====
section
/-! DEFINITION. Words, bytes and lane sets: the plain bit types of the machine (R3, R45, R129). -/
namespace Sys2Proof

/-- A 64-bit word: an instruction word (R45), an address, or the value of one lane of a record (R104). -/
abbrev Word := BitVec 64

/-- A byte of memory (R3). -/
abbrev Byte := BitVec 8

/-- A lane set of a core, held as 32 mask words of 32 bits: bit i is lane i (R129). -/
abbrev LaneSet := BitVec 1024

end Sys2Proof
end

