-- ==== Sys2Proof/Syntax.lean ====
section
/-! DEFINITION. The abstract syntax: operand forms (R46-R54) and the one inductive of the machine's steps,
a constructor for each row of the opcode table: the 203 instructions of R55 and the 86 events. -/
namespace Sys2Proof

/-- The sixteen types of the type field (R53). -/
inductive Ty where
  | i8 | n8 | i16 | n16 | i32 | n32 | i64 | n64 | f16 | bf16 | f32 | f64 | e4m3 | e5m2 | e2m1 | e8m0
  deriving DecidableEq, Repr

/-- Rounding modes (R114). -/
inductive RMode where
  | rne | rtz | rdn | rup
  deriving DecidableEq, Repr

/-- Scopes (R204), coded as in R250. -/
inductive Scope where
  | core | quad | die | pkg | pod | sys
  deriving DecidableEq, Repr

/-- Semantics of an atomic (R205, R250). -/
inductive Sem where
  | relaxed | acq | rel | ar
  deriving DecidableEq, Repr

/-- Route-tag levels (R261). -/
inductive Level where
  | core | quad | die | pkg | pod
  deriving DecidableEq, Repr

/-- Integer comparison conditions (R78). -/
inductive Cond where
  | eq | ne | lt | le | gt | ge
  deriving DecidableEq, Repr

/-- Floating-point comparison conditions (R161). -/
inductive FCond where
  | eq | ne | lt | le | gt | ge | ord | uno
  deriving DecidableEq, Repr

/-- Combining operations of `scan`, `reduce`, `red` and `coll` (R172, R252, R320). -/
inductive Comb where
  | add | min | max
  deriving DecidableEq, Repr

/-- A counted name: a vector name or a scalar name (R20). -/
inductive Name where
  | vec (n : Fin 128)
  | scl (n : Fin 64)
  deriving DecidableEq, Repr

/-- A source operand (R50). -/
inductive Src where
  | vec (n : Fin 128)
  | scl (n : Fin 64)
  | walker (n : Fin 8)
  | special (n : Fin 16)
  | const (c : BitVec 7)
  deriving DecidableEq, Repr

/-- A record-creating destination: the sink, or a name with its count field, 1 to 15 (R22, R26, R51). -/
inductive Dest where
  | sink
  | vec (n : Fin 128) (cnt : BitVec 4)
  | scl (n : Fin 64) (cnt : BitVec 4)
  deriving DecidableEq, Repr

/-- A scalar name or an integer inline constant (R174, R266, R303). -/
inductive SC where
  | scl (n : Fin 64)
  | const (c : BitVec 7)
  deriving DecidableEq, Repr

/-- An address field of an engine command or a streaming operation: a scalar name, or a constant 0 to 63 (R164, R300). -/
inductive AField where
  | scl (n : Fin 64)
  | const (k : BitVec 6)
  deriving DecidableEq, Repr

/-- Operands of a register instruction with one source. -/
structure Op1 where
  mask : Fin 16
  ty : Ty
  d : Dest
  a : Src
  deriving DecidableEq, Repr

/-- Operands of a register instruction with two sources. -/
structure Op2 where
  mask : Fin 16
  ty : Ty
  d : Dest
  a : Src
  b : Src
  deriving DecidableEq, Repr

/-- Operands of a register instruction with three sources. -/
structure Op3 where
  mask : Fin 16
  ty : Ty
  d : Dest
  a : Src
  b : Src
  c : Src
  deriving DecidableEq, Repr

/-- Format I: one source and an 18-bit immediate (R48). -/
structure OpI where
  mask : Fin 16
  ty : Ty
  d : Dest
  a : Src
  imm : BitVec 18
  deriving DecidableEq, Repr

/-- `cmp` (R78): `uns` is the flag that makes an i-type comparison unsigned. -/
structure CmpOp where
  mask : Fin 16
  ty : Ty
  uns : Bool
  md : Fin 16
  a : Src
  b : Src
  deriving DecidableEq, Repr

/-- `cmpi` (R78). -/
structure CmpIOp where
  mask : Fin 16
  ty : Ty
  uns : Bool
  md : Fin 16
  a : Src
  imm : BitVec 18
  deriving DecidableEq, Repr

/-- `movi` (R81). -/
structure MoviOp where
  mask : Fin 16
  ty : Ty
  d : Dest
  imm : BitVec 27
  deriving DecidableEq, Repr

/-- The source of `mmov` (R81): a mask operand, or a counted source compared with zero. -/
inductive MSrc where
  | mask (m : Fin 16)
  | value (ty : Ty) (a : Src)
  deriving DecidableEq, Repr

/-- `msel` (R81). -/
structure MselOp where
  mask : Fin 16
  ty : Ty
  d : Dest
  a : Src
  b : Src
  mc : Fin 16
  deriving DecidableEq, Repr

/-- `movl` (R85). -/
structure MovlOp where
  mask : Fin 16
  ty : Ty
  d : Dest
  imm : Word
  deriving DecidableEq, Repr

/-- `wset` (R92). -/
structure WsetOp where
  w : Fin 8
  base : SC
  c2 : BitVec 12
  t2 : BitVec 20
  c1 : BitVec 12
  t1 : BitVec 20
  c0 : BitVec 12
  t0 : BitVec 20
  deriving DecidableEq, Repr

/-- A function of major 0x11 with one source (R155). -/
structure Fn1 where
  la : Fin 16
  mask : Fin 16
  ty : Ty
  d : Dest
  a : Src
  deriving DecidableEq, Repr

/-- `fdiv` (R155). -/
structure Fn2 where
  la : Fin 16
  mask : Fin 16
  ty : Ty
  d : Dest
  a : Src
  b : Src
  deriving DecidableEq, Repr

/-- `cvt` (R157, R158). -/
structure CvtOp where
  mask : Fin 16
  dty : Ty
  sty : Ty
  mode : RMode
  sat : Bool
  d : Dest
  a : Src
  deriving DecidableEq, Repr

/-- `cvtsc` and `cvtpk` (R159, R160). -/
structure Cvt2Op where
  mask : Fin 16
  dty : Ty
  sty : Ty
  mode : RMode
  sat : Bool
  d : Dest
  a : Src
  b : Src
  deriving DecidableEq, Repr

/-- `fcmp` (R161). -/
structure FcmpOp where
  mask : Fin 16
  ty : Ty
  md : Fin 16
  a : Src
  b : Src
  e : BitVec 2
  cc : FCond
  deriving DecidableEq, Repr

/-- `fclass` (R162); `e = none` is the absent element field. -/
structure FclassOp where
  mask : Fin 16
  ty : Ty
  d : Dest
  a : Src
  e : Option (BitVec 3)
  deriving DecidableEq, Repr

/-- `fisnan` (R162). -/
structure FisnanOp where
  mask : Fin 16
  ty : Ty
  md : Fin 16
  a : Src
  e : Option (BitVec 3)
  deriving DecidableEq, Repr

/-- A streaming operation with two sources: `sx.add`, `sx.mul`, `sx.fma`, `sx.max`, `sx.min` (R164, R165). -/
structure SxOp where
  la : Fin 16
  ty : Ty
  n : BitVec 12
  d : AField
  a : AField
  b : AField
  sd : BitVec 16
  sa : BitVec 16
  sb : BitVec 16
  deriving DecidableEq, Repr

/-- `sx.exp2` (R165). -/
structure SxUnOp where
  la : Fin 16
  ty : Ty
  n : BitVec 12
  d : AField
  a : AField
  sd : BitVec 16
  sa : BitVec 16
  deriving DecidableEq, Repr

/-- `sx.cvt` (R165). -/
structure SxCvtOp where
  la : Fin 16
  dty : Ty
  sty : Ty
  mode : RMode
  sat : Bool
  n : BitVec 12
  d : AField
  a : AField
  sd : BitVec 16
  sa : BitVec 16
  deriving DecidableEq, Repr

/-- `sx.sum` (R165). -/
structure SxSumOp where
  la : Fin 16
  ty : Ty
  n : BitVec 12
  d : AField
  a : AField
  sa : BitVec 16
  deriving DecidableEq, Repr

/-- The shuffles and `bcast` (R169): `mo` is the out-of-range mask, 0 for none. -/
structure ShflOp where
  mask : Fin 16
  ty : Ty
  d : Dest
  a : Fin 128
  b : Src
  mo : Fin 16
  deriving DecidableEq, Repr

/-- `match` (R170): `cnt` is the flag, `ml` the leader mask. -/
structure MatchOp where
  mask : Fin 16
  ty : Ty
  cnt : Bool
  d : Dest
  a : Fin 128
  ml : Fin 16
  deriving DecidableEq, Repr

/-- `mrank` (R170). -/
structure MrankOp where
  mask : Fin 16
  ty : Ty
  d : Dest
  a : Fin 128
  deriving DecidableEq, Repr

/-- `scan` (R172). -/
structure ScanOp where
  mask : Fin 16
  ty : Ty
  d : Dest
  a : Fin 128
  op : Comb
  excl : Bool
  deriving DecidableEq, Repr

/-- `reduce` (R172). -/
structure ReduceOp where
  mask : Fin 16
  ty : Ty
  d : Dest
  a : Fin 128
  op : Comb
  deriving DecidableEq, Repr

/-- A format M load (R49, R240). -/
structure LoadOp where
  la : Fin 16
  mask : Fin 16
  ty : Ty
  scaled : Bool
  d : Dest
  base : Src
  index : Src
  k : Fin 16
  disp : BitVec 5
  deriving DecidableEq, Repr

/-- A format M store or reduction (R49, R240, R252). -/
structure StoreOp where
  la : Fin 16
  mask : Fin 16
  ty : Ty
  scaled : Bool
  data : Name
  base : Src
  index : Src
  k : Fin 16
  disp : BitVec 5
  deriving DecidableEq, Repr

/-- An atomic (R250). -/
structure AtomOp where
  la : Fin 16
  mask : Fin 16
  ty : Ty
  d : Dest
  base : Src
  b : Src
  k : Fin 16
  sem : Sem
  scope : Scope
  deriving DecidableEq, Repr

/-- `pf.g` (R255). -/
structure PfOp where
  la : Fin 16
  mask : Fin 16
  ty : Ty
  scaled : Bool
  base : Src
  index : Src
  disp : BitVec 5
  deriving DecidableEq, Repr

/-- `bar` and `bararr` (R261). -/
structure BarOp where
  level : Level
  tag : Fin 8
  n : Option SC
  deriving DecidableEq, Repr

/-- `barv` (R261). -/
structure BarvOp where
  level : Level
  tag : Fin 8
  ms : Fin 16
  d : Dest
  n : Option SC
  deriving DecidableEq, Repr

/-- The two forms of `abarrive` (R266). -/
inductive AbarriveOp where
  | arrive (a : SC) (c : Option SC)
  | expect (a : SC) (b : SC)
  deriving DecidableEq, Repr

/-- The copies of major 0x36 (R309, R310). -/
structure CopyOp where
  la : Fin 16
  mask : Fin 16
  rows : BitVec 8
  chan : BitVec 1
  buf : BitVec 1
  k : Fin 16
  d : Dest
  addr : Option AField
  abar : Option AField
  handle : BitVec 16
  slice : BitVec 6
  slices : BitVec 6
  recv : BitVec 4
  co : Option (Fin 64)
  ch : Option (Fin 64)
  side : Option AField
  deriving DecidableEq, Repr

/-- `mma` (R314, R315). -/
structure MmaOp where
  la : Fin 16
  mask : Fin 16
  aty : Ty
  bty : Ty
  acc : BitVec 1
  unit : BitVec 3
  sel : BitVec 3
  aaddr : AField
  baddr : AField
  idx : Option AField
  k : Fin 16
  scales : Option (Fin 128 × Fin 128)
  specials : Option (Fin 128 × Fin 128)
  deriving DecidableEq, Repr

/-- `mcl`, `mclr`, `mrd` (R314, R317). -/
structure AccOp where
  la : Fin 16
  mask : Fin 16
  acc : BitVec 1
  k : Fin 16
  deriving DecidableEq, Repr

/-- Epilogue output types (R318). -/
inductive OTy where
  | bf16 | e4m3 | e2m1
  deriving DecidableEq, Repr

/-- Epilogue activations (R318). -/
inductive Act where
  | none | relu | clamp (lo hi : BitVec 32)
  deriving DecidableEq, Repr

/-- `epicfg` (R318). -/
structure EpicfgOp where
  la : Fin 16
  mask : Fin 16
  oty : OTy
  act : Act
  scale : AField
  bias : AField
  dest : AField
  side : Option AField
  deriving DecidableEq, Repr

/-- Collective kinds with their operation (R320). -/
inductive CollKind where
  | allred (op : Comb) | allgat | redsc (op : Comb)
  deriving DecidableEq, Repr

/-- `coll` (R320). -/
structure CollOp where
  la : Fin 16
  mask : Fin 16
  kind : CollKind
  ty : Ty
  k : Fin 16
  dst : Fin 64
  src : Fin 64
  count : SC
  group : SC
  deriving DecidableEq, Repr

/-- A system register of R97. -/
inductive SysReg where
  | fdone | pkg | tcode | prio | armature
  deriving DecidableEq, Repr

/-- Identity of a path: package core number, strand slot, and the path's number in its strand. -/
structure PRef where
  core : Nat
  slot : Nat
  path : Nat
  deriving DecidableEq, Repr

/-- How an access outside the core ended, where the world outside the machine decides it (R237, R238, R243); `race` is the answer of
the home of another device to a plain access (R221, R222). -/
inductive Ending where
  | done | memErr | linkErr | race
  deriving DecidableEq, Repr

/-- What befalls an access outside its core: the lanes it befalls (an empty list names every lane), and how they end. -/
structure LaneEnd where
  lanes : List Nat
  ending : Ending
  deriving DecidableEq, Repr

/-- What befalls the fetch of a block: its address, and how the read ends (R344). -/
structure FetchEnd where
  addr : Word
  ending : Ending
  deriving DecidableEq, Repr

/-- A handover of firmware (R386): the port that asks for it, the image of the idle slot with its signature (R385), and whether the
image starts up. -/
structure Handover where
  port : Nat
  image : List Byte
  sig : List Byte
  starts : Bool
  deriving DecidableEq, Repr

/-- The operations of the atomics (R250). -/
inductive AtomK where
  | add | min | max | and | or | xor | exch | cas | inc
  deriving DecidableEq, Repr

/-- The strand that a request from another device comes from, as conflict tags name it (R220, R221): die, core, slot and launch
generation as one number, the core it runs on, its release ordinal, and those of its last releases at each scope. -/
structure RemoteStrand where
  sid : Nat
  core : Nat
  o : Nat
  rel : List Nat
  deriving DecidableEq, Repr

/-- What a request from another device asks for (R368 to R370): bytes, a store of bytes, or an atomic or reduction of one element. -/
inductive RemoteReq where
  | load (len : Nat)
  | store (data : List Byte)
  | atomic (k : AtomK) (ty : Ty) (val swap : Word)
  deriving DecidableEq, Repr

/-- A request from another device, with the strand it comes from. -/
structure RemoteMsg where
  who : RemoteStrand
  req : RemoteReq
  deriving DecidableEq, Repr

/-- The steps of the machine: one constructor for each row of the opcode table. The first 203 are the instructions
of R55; the rest are the events that no instruction word names, with the unit they befall. -/
inductive Instr where
  -- major 0x01 (R74)
  | add (o : Op2) | sub (o : Op2) | mul (o : Op2) | mulhi (o : Op2) | mad (o : Op3)
  | imin (o : Op2) | imax (o : Op2) | iabs (o : Op1) | ineg (o : Op1)
  | iand (o : Op2) | ior (o : Op2) | ixor (o : Op2) | iandn (o : Op2) | inot (o : Op1)
  | shl (o : Op2) | shr (o : Op2) | sar (o : Op2) | rotl (o : Op2)
  | popc (o : Op1) | clz (o : Op1) | ctz (o : Op1) | brev (o : Op1)
  | bfx (o : Op2) | bfi (o : Op3) | sel (o : Op3) | divq (o : Op2) | remq (o : Op2)
  | addsat (o : Op2) | subsat (o : Op2)
  -- major 0x02 (R77)
  | addi (o : OpI) | muli (o : OpI) | andi (o : OpI) | ori (o : OpI) | xori (o : OpI)
  | shli (o : OpI) | shri (o : OpI) | sari (o : OpI) | mini (o : OpI) | maxi (o : OpI)
  -- majors 0x03 and 0x04 (R78)
  | cmpEq (o : CmpOp) | cmpNe (o : CmpOp) | cmpLt (o : CmpOp) | cmpLe (o : CmpOp) | cmpGt (o : CmpOp) | cmpGe (o : CmpOp)
  | cmpiEq (o : CmpIOp) | cmpiNe (o : CmpIOp) | cmpiLt (o : CmpIOp) | cmpiLe (o : CmpIOp) | cmpiGt (o : CmpIOp)
  | cmpiGe (o : CmpIOp)
  -- major 0x05 (R81, R82)
  | mov (o : Op1) | movi (o : MoviOp) | drop (x : Name) (cnt : BitVec 4) | hold (x : Name) (cnt : BitVec 4)
  | mmov (mask : Fin 16) (md : Fin 16) (a : MSrc) | msel (o : MselOp)
  -- majors 0x06 and 0x07 (R84, R85)
  | lea (o : Op3) | leax (o : Op3) | movl (o : MovlOp)
  -- major 0x08 (R86-R90)
  | br (off : BitVec 27) | brd (mc : Fin 16) (neg : Bool) (off : BitVec 27)
  | brnz (x : Fin 64) (off : BitVec 27) | brz (x : Fin 64) (off : BitVec 27)
  | call (d : Dest) (off : BitVec 27) | callx (d : Dest) (t : Fin 64) | ret (x : Fin 64) | exit
  -- majors 0x09 and 0x0A (R91-R93)
  | brw (w : Fin 8) (e : Fin 3) (onSet : Bool) (off : BitVec 27)
  | wset (o : WsetOp) | wrd (d : Dest) (w : Fin 8) (sel : BitVec 2) | wend (w : Fin 8)
  -- major 0x10 (R154)
  | fadd (o : Op2) | fsub (o : Op2) | fmul (o : Op2) | fma (o : Op3) | fmin (o : Op2) | fmax (o : Op2)
  | fabs (o : Op1) | fneg (o : Op1) | fcopysign (o : Op2) | fclamp (o : Op3) | fmax3 (o : Op3) | fmin3 (o : Op3)
  -- major 0x11 (R155)
  | fdiv (o : Fn2) | frcp (o : Fn1) | frsq (o : Fn1) | fsqrt (o : Fn1) | fexp2 (o : Fn1) | flog2 (o : Fn1)
  | fsin (o : Fn1) | fcos (o : Fn1) | ftanh (o : Fn1)
  -- majors 0x12 to 0x14 (R157-R163)
  | cvt (o : CvtOp) | cvtsc (o : Cvt2Op) | cvtpk (o : Cvt2Op)
  | fcmp (o : FcmpOp) | fclass (o : FclassOp) | fisnan (o : FisnanOp)
  | dot2 (o : Op3) | dot4 (o : Op3) | dot8 (o : Op3)
  -- major 0x15 (R164-R167)
  | sxAdd (o : SxOp) | sxMul (o : SxOp) | sxFma (o : SxOp) | sxMax (o : SxOp) | sxMin (o : SxOp)
  | sxCvt (o : SxCvtOp) | sxExp2 (o : SxUnOp) | sxSum (o : SxSumOp)
  -- major 0x20 (R168-R172)
  | shflIdx (o : ShflOp) | shflUp (o : ShflOp) | shflDn (o : ShflOp) | shflXor (o : ShflOp) | bcast (o : ShflOp)
  | matchLanes (o : MatchOp) | ballot (d : Dest) (ms : Fin 16) (b : Option SC)
  | any (d : Dest) (ms : Fin 16) | all (d : Dest) (ms : Fin 16)
  | scan (o : ScanOp) | reduce (o : ReduceOp) | mrank (o : MrankOp)
  -- major 0x21 (R173)
  | mand (mask md ma mb : Fin 16) | mor (mask md ma mb : Fin 16) | mxor (mask md ma mb : Fin 16)
  | mnot (mask md ma : Fin 16)
  | mpop (d : Dest) (ma : Fin 16) | mfirst (d : Dest) (ma : Fin 16) | mlast (d : Dest) (ma : Fin 16)
  -- major 0x22 (R174-R179)
  | cattach (quad : Bool) (tags : SC) | cdetach (quad : Bool) (tags : SC) | cgrow (d : Dest) (n : SC)
  | rolesw (role : SC) (q : Option (Fin 16)) | cwidth (n : SC) | cprio (p : SC)
  -- major 0x23 (R303)
  | qsend (yield : Bool) (q : Fin 16) (a : SC) | qrecv (yield : Bool) (d : Dest) (q : Fin 16)
  | tspawn (mask : Fin 16) (q : Fin 16) (e : Fin 64) (a : Name) | qstat (cap : Bool) (d : Dest) (q : Fin 16)
  -- majors 0x28 and 0x29 (R244)
  | ldG (o : LoadOp) | ldR (o : LoadOp) | ldH (o : LoadOp) | ldC (o : LoadOp)
  | stG (o : StoreOp) | stR (o : StoreOp) | stH (o : StoreOp)
  -- majors 0x2A and 0x2B (R248)
  | ldA (o : LoadOp) | stA (o : StoreOp) | ldxA (o : LoadOp) | stxA (o : StoreOp)
  | ldW (o : LoadOp) | crpop (o : LoadOp) | crpeek (o : LoadOp)
  -- major 0x2C (R250)
  | atomAdd (o : AtomOp) | atomMin (o : AtomOp) | atomMax (o : AtomOp) | atomAnd (o : AtomOp) | atomOr (o : AtomOp)
  | atomXor (o : AtomOp) | atomExch (o : AtomOp) | atomCas (o : AtomOp) | atomInc (o : AtomOp)
  -- majors 0x2D and 0x2E (R252-R255)
  | redAdd (o : StoreOp) | redMin (o : StoreOp) | redMax (o : StoreOp) | rflush (la : Fin 16) (k : Fin 16)
  | pfG (o : PfOp) | pfCode (la : Fin 16) (base : Src)
  -- major 0x30 (R256)
  | fence (sc : Scope) | wait (k : Fin 16) (t : SC) | waitall | seal (k : Fin 16) | ifence
  -- major 0x31 (R261)
  | bar (o : BarOp) | barv (o : BarvOp) | bararr (o : BarOp) | bardrop (level : Level) (tag : Fin 8)
  -- major 0x32 (R266)
  | abinit (a n b : SC) | abarrive (o : AbarriveOp) | abexpect (a b : SC) | abwait (a p : SC)
  -- majors 0x36 to 0x39 (R309, R314, R318-R320)
  | cpy (o : CopyOp) | cpyMc (o : CopyOp) | cpyst (o : CopyOp) | cpyfill (o : CopyOp)
  | mma (o : MmaOp) | mcl (o : AccOp) | mclr (o : AccOp) | mrd (o : AccOp)
  | epi (la mask k : Fin 16) | epicfg (o : EpicfgOp)
  | coll (o : CollOp) | collwait (la mask k : Fin 16) (g : SC)
  -- major 0x3C (R94)
  | trap (n : BitVec 6) | tret (skip : Bool) | brk (n : BitVec 6) | rdsr (mask : Fin 16) (d : Dest) (r : SysReg)
  | wrsr (r : SysReg) (a : SC) | feat (d : Dest) (n : BitVec 6) | nop | sleep (a : SC) | prog (n : Fin 16)
  | tstamp (d : Dest)
  -- events of the memory pipe and of the paths of a core
  | functionResultWrite (p : PRef) | atomicPerformed (core slot flight : Nat) (e : LaneEnd)
  | barrierRelease (p : PRef) | abwaitRelease (p : PRef) | sleepExpiry (p : PRef)
  | loadDataArrival (core slot flight : Nat) (e : LaneEnd)
  | storePerformed (core slot flight : Nat) (e : LaneEnd)
  | translationPassed (p : PRef) | remoteAccess (part dev : Nat) (addr : Word) (r : RemoteMsg)
  | pageResponse (p : PRef) (page : Nat) (ok : Bool)
  | joinComplete (core slot split : Nat) | rejoin (p : PRef) | trapEntry (core slot : Nat)
  | spill (core : Nat) | spillRestore (core : Nat) | roleSwitch (p : PRef)
  | taskStrandForm (core ring : Nat) | cgrowAnswer (p : PRef)
  | blockFetch (core : Nat) (asid : Nat) (f : FetchEnd) | insertedDelayExpiry (p : PRef)
  -- events of the engines
  | copyStart (core chan : Nat) | copyRowDelivery (core chan : Nat) (writeErrors : BitVec 4) (e : Ending)
  | copyComplete (core chan : Nat)
  | latchFill (quad : Nat) | passStart (quad : Nat) | passEnd (quad : Nat) | tileClosed (core : Nat)
  | epilogueStart (core : Nat) | epilogueComplete (core : Nat)
  | collectiveComplete (part group : Nat) (failure : Nat) (sources : List Byte)
  -- events of the distributors and the hub
  | quarantineRelease | doorbell (port part queue : Nat) (tail : BitVec 32) | launch (part queue : Nat)
  | chunkGrant (part die lid : Nat) | cohortPlacement (part die lid : Nat) | launchCompletion (part lid : Nat)
  | configure (part : Nat) | sealPartition (part : Nat) | releasePartition (part : Nat)
  | preempt (part : Nat) | drainEnd (part : Nat) | restore (part : Nat)
  | asidCreate (part : Nat) | asidDestroy (part : Nat) | writeRangeEntry (part : Nat)
  | pagesWrite (part : Nat) | pagesInvalidate (part : Nat) | writeTensorRecord (part : Nat)
  | writeGroupEntry (part : Nat) | writeExportEntry (part : Nat)
  | bindBridgeSender (part : Nat) | bindBridgeReceiver (part : Nat) | unbindBridge (part : Nat)
  | setQueue (part : Nat) | setOverflowArea (part : Nat) | bindPodGroup (part : Nat) | unbindPodGroup (part : Nat)
  | loadCodeObject (part : Nat) | enrolKey (part : Nat) | withdrawKey (part : Nat)
  | setPowerCap (part : Nat) | cancelLaunch (part : Nat)
  | semaphoreAcquire (port sem : Nat) (tag : BitVec 16) | semaphoreFree (port sem : Nat)
  | controlBlockWrite (port part off : Nat) (v : Word) | traceControlWrite (port core : Nat) (v : Word)
  | registerWrite (port off : Nat) (v : Word)
  | causalTrialGo (port part : Nat) (v : Word) | causalTrialEnd (part : Nat)
  | stopWrite (port part : Nat) (v : Word) | resumeWrite (port part : Nat) (v : Word) | breakpointHit (p : PRef)
  | sample (core : Nat)
  | powerOnReset | linkDown (port : Nat) | semaphoreLinkFree (port : Nat)
  | dieFence (die : Nat) (l2Fault : Bool) | masterElection (part : Nat)
  | stackSelfRefresh (stack : Nat) | stackResume (stack : Nat) | stackFence (stack : Nat)
  | firmwareHandover (h : Handover) | shanovLinkFailure (dev : Nat) (lost : Bool) | podGroupLive (part slot : Nat)
  | hbmChannelSparing (stack : Nat) | refreshPostponementLimit (core chan : Nat)
  deriving DecidableEq, Repr

end Sys2Proof
end

