-- ==== Sys2Proof/WellFormed.lean ====
section
/-! DEFINITION. Which instructions are well formed: the conditions on operands that R56 lists and the entries state,
on the abstract syntax. The decoder answers only well-formed instructions. Events carry no word and are always well formed. -/
namespace Sys2Proof

/-- Code of a type (R53). -/
def Ty.code : Ty → Nat
  | .i8 => 0 | .n8 => 1 | .i16 => 2 | .n16 => 3 | .i32 => 4 | .n32 => 5 | .i64 => 6 | .n64 => 7
  | .f16 => 8 | .bf16 => 9 | .f32 => 10 | .f64 => 11 | .e4m3 => 12 | .e5m2 => 13 | .e2m1 => 14 | .e8m0 => 15

/-- Integer types, codes 0x0 to 0x7 (R71). -/
def Ty.isInt (t : Ty) : Bool := t.code < 8

/-- The i types, signed (R74). -/
def Ty.isSigned : Ty → Bool
  | .i8 | .i16 | .i32 | .i64 => true
  | _ => false

/-- Bits of one element (R103, R105). -/
def Ty.bits : Ty → Nat
  | .i8 | .n8 | .e4m3 | .e5m2 | .e8m0 => 8
  | .i16 | .n16 | .f16 | .bf16 => 16
  | .i32 | .n32 | .f32 => 32
  | .i64 | .n64 | .f64 => 64
  | .e2m1 => 4

/-- Element size in bytes of format M (R49); e2m1 has none there. -/
def Ty.size (t : Ty) : Nat := t.bits / 8

/-- 64-bit types, whose records take two slabs per mask word (R22). -/
def Ty.wide : Ty → Bool
  | .i64 | .n64 | .f64 => true
  | _ => false

/-- Elements per lane value (R104). -/
def Ty.elems : Ty → Nat
  | .f16 | .bf16 => 2
  | .e4m3 | .e5m2 | .e8m0 => 4
  | .e2m1 => 8
  | _ => 1

/-- The types `mov`, `movl` and `msel` accept (R81, R85). -/
def Ty.isMov : Ty → Bool
  | .i32 | .n32 | .f32 | .i64 | .n64 | .f64 => true
  | _ => false

/-- Types 0x8 to 0xB (R154). -/
def Ty.isFp : Ty → Bool
  | .f16 | .bf16 | .f32 | .f64 => true
  | _ => false

/-- Is the constant of a float type defined and exactly representable (R54)? -/
def constFloatOk (t : Ty) (c : BitVec 7) : Bool :=
  match c.toNat with
  | 0 => t != .e8m0
  | 1 | 2 | 3 | 6 => true
  | 4 | 5 => t != .e8m0
  | 7 => t != .e2m1
  | 8 | 9 => !(t == .e4m3 || t == .e2m1 || t == .e8m0)
  | 10 => t != .e2m1
  | _ => false

/-- A constant is legal in an operand read at type t (R50, R54). -/
def constOk (t : Ty) (c : BitVec 7) : Bool := t.isInt || constFloatOk t c

/-- The special registers that hold a value per lane: %lane and %faddr (R42, R69). -/
def specialPerLane (n : Fin 16) : Bool := n == 0 || n == 15

/-- A source of a vector-destination instruction (R69). -/
def Src.okVec (t : Ty) : Src → Bool
  | .const c => constOk t c
  | _ => true

/-- A source of a scalar-destination instruction (R69). -/
def Src.okScl (t : Ty) : Src → Bool
  | .vec _ => false
  | .special n => !specialPerLane n
  | .const c => constOk t c
  | _ => true

/-- A record-creating destination has a count field from 1 to 15 (R22, R26). -/
def Dest.ok : Dest → Bool
  | .sink => true
  | .vec _ c => c != 0
  | .scl _ c => c != 0

/-- A destination that may only be a scalar name, or the sink (R26). -/
def Dest.okScl : Dest → Bool
  | .vec _ _ => false
  | d => d.ok

/-- A destination that may only be a vector name, or the sink. -/
def Dest.okVec : Dest → Bool
  | .scl _ _ => false
  | d => d.ok

/-- Does the destination make the instruction execute once per path, in the scalar pipe (R69)? -/
def Dest.isScl : Dest → Bool
  | .scl _ _ => true
  | _ => false

/-- The mask field and one source under R69. -/
def srcOk (d : Dest) (t : Ty) (s : Src) : Bool := if d.isScl then s.okScl t else s.okVec t

/-- The mask field under R69. -/
def maskOk (d : Dest) (m : Fin 16) : Bool := !d.isScl || m == 0

def Op1.wf (tyOk : Ty → Bool) (o : Op1) : Bool :=
  tyOk o.ty && o.d.ok && maskOk o.d o.mask && srcOk o.d o.ty o.a

def Op2.wf (tyOk : Ty → Bool) (o : Op2) : Bool :=
  tyOk o.ty && o.d.ok && maskOk o.d o.mask && srcOk o.d o.ty o.a && srcOk o.d o.ty o.b

def Op3.wf (tyOk : Ty → Bool) (o : Op3) : Bool :=
  tyOk o.ty && o.d.ok && maskOk o.d o.mask && srcOk o.d o.ty o.a && srcOk o.d o.ty o.b && srcOk o.d o.ty o.c

/-- Format I; a shift immediate lies in 0 to w − 1 (R77). -/
def OpI.wf (shift : Bool) (o : OpI) : Bool :=
  o.ty.isInt && o.d.ok && maskOk o.d o.mask && srcOk o.d o.ty o.a && (!shift || o.imm.toNat < o.ty.bits)

def CmpOp.wf (o : CmpOp) : Bool :=
  o.ty.isInt && (!o.uns || o.ty.isSigned) && o.md != 0 && o.a.okVec o.ty && o.b.okVec o.ty

def CmpIOp.wf (o : CmpIOp) : Bool :=
  o.ty.isInt && (!o.uns || o.ty.isSigned) && o.md != 0 && o.a.okVec o.ty

def MoviOp.wf (o : MoviOp) : Bool :=
  (o.ty.isMov && o.ty.isInt) && o.d.ok && maskOk o.d o.mask

def MSrc.wf : MSrc → Bool
  | .mask _ => true
  | .value t a => t.isInt && a.okVec t

def MselOp.wf (o : MselOp) : Bool :=
  o.ty.isMov && o.d.okVec && o.a.okVec o.ty && o.b.okVec o.ty

/-- `movl`: a 32-bit constant has zero in payload bits 63:32 (R85). -/
def MovlOp.wf (o : MovlOp) : Bool :=
  o.ty.isMov && o.d.ok && maskOk o.d o.mask && (o.ty.wide || o.imm.toNat < 2 ^ 32)

/-- `lea` reads its base at 64 bits and its index and offset at 32, so constants there are integers (R84). -/
def Op3.leaWf (o : Op3) : Bool :=
  o.ty != .e2m1 && o.d.ok && maskOk o.d o.mask && srcOk o.d .n64 o.a && srcOk o.d .i32 o.b && srcOk o.d .i32 o.c

def Fn1.wf (tyOk : Ty → Bool) (o : Fn1) : Bool :=
  tyOk o.ty && o.d.ok && maskOk o.d o.mask && srcOk o.d o.ty o.a

def Fn2.wf (o : Fn2) : Bool :=
  o.ty.isFp && o.d.ok && maskOk o.d o.mask && srcOk o.d o.ty o.a && srcOk o.d o.ty o.b

/-- A constant source of a conversion is read in the source type (R157, R158; log entry 7). -/
def CvtOp.wf (o : CvtOp) : Bool :=
  o.d.ok && maskOk o.d o.mask && srcOk o.d o.sty o.a

/-- Float types 0x8 to 0xE (R159). -/
def Ty.isSc (t : Ty) : Bool := !t.isInt && t != .e8m0

def Cvt2Op.scWf (o : Cvt2Op) : Bool :=
  o.dty.isSc && o.sty.isSc && o.d.ok && maskOk o.d o.mask && srcOk o.d o.sty o.a && srcOk o.d .i32 o.b

/-- The pairs of `cvtpk` (R160). -/
def pkPair (d s : Ty) : Bool :=
  match s, d with
  | .f32, .f16 | .f32, .bf16 => true
  | .f16, .e4m3 | .f16, .e5m2 | .bf16, .e4m3 | .bf16, .e5m2 => true
  | .e4m3, .e2m1 | .e5m2, .e2m1 => true
  | _, _ => false

def Cvt2Op.pkWf (o : Cvt2Op) : Bool :=
  pkPair o.dty o.sty && o.d.ok && maskOk o.d o.mask && srcOk o.d o.sty o.a && srcOk o.d o.sty o.b

/-- Types of `fcmp`, 0x8 to 0xD (R161). -/
def Ty.isCmpF (t : Ty) : Bool := 8 ≤ t.code && t.code ≤ 13

def FcmpOp.wf (o : FcmpOp) : Bool :=
  o.ty.isCmpF && o.md != 0 && o.a.okVec o.ty && o.b.okVec o.ty && o.e.toNat < o.ty.elems

def elemOk (t : Ty) (e : Option (BitVec 3)) : Bool :=
  match e with
  | none => true
  | some x => x.toNat < t.elems

def FclassOp.wf (o : FclassOp) : Bool :=
  !o.ty.isInt && o.d.ok && maskOk o.d o.mask && srcOk o.d o.ty o.a && elemOk o.ty o.e

def FisnanOp.wf (o : FisnanOp) : Bool :=
  !o.ty.isInt && o.md != 0 && o.a.okVec o.ty && elemOk o.ty o.e

/-- Sources of the dot products: a and b in the packed type, c in the result type (R163). -/
def Op3.dotWf (tyOk : Ty → Bool) (o : Op3) : Bool :=
  tyOk o.ty && o.d.ok && maskOk o.d o.mask && srcOk o.d o.ty o.a && srcOk o.d o.ty o.b &&
    srcOk o.d (if o.ty.isInt then .i32 else .f32) o.c

def SxOp.wf (o : SxOp) : Bool := o.ty.isFp
def SxUnOp.wf (o : SxUnOp) : Bool := o.ty.isFp && o.ty != .f64
def SxCvtOp.wf (o : SxCvtOp) : Bool := !o.dty.isInt && !o.sty.isInt
def SxSumOp.wf (o : SxSumOp) : Bool := o.ty.isFp

/-- The index operand of a shuffle: vector, scalar or constant (R169). -/
def shflB : Src → Bool
  | .vec _ | .scl _ | .const _ => true
  | _ => false

def ShflOp.wf (o : ShflOp) : Bool := o.d.okVec && shflB o.b

def ShflOp.bcastWf (o : ShflOp) : Bool :=
  o.d.ok && maskOk o.d o.mask && (match o.b with | .scl _ | .const _ => true | _ => false)

def scanTy (t : Ty) : Bool := t.isInt || t == .f32 || t == .f64

def ScanOp.wf (o : ScanOp) : Bool := scanTy o.ty && o.d.okVec
def ReduceOp.wf (o : ReduceOp) : Bool := scanTy o.ty && o.d.ok && maskOk o.d o.mask

/-- A constant that is not negative (R256, R266). -/
def SC.nonneg : SC → Bool
  | .scl _ => true
  | .const c => c.toNat < 64

/-- Base and index classes of format M (R240). -/
def memBase : Src → Bool
  | .vec _ | .scl _ | .walker _ => true
  | _ => false

def memIndex : Src → Bool
  | .vec _ | .scl _ | .const _ => true
  | _ => false

def Src.isVec : Src → Bool
  | .vec _ => true
  | _ => false

def Name.isScl : Name → Bool
  | .scl _ => true
  | _ => false

/-- A scalar destination or data name needs a base and index that are not vector names, and mask 0 (R240). -/
def memScl (scl : Bool) (m : Fin 16) (base index : Src) : Bool :=
  !scl || (!base.isVec && !index.isVec && m == 0)

def LoadOp.wf (tyOk : Ty → Bool) (o : LoadOp) : Bool :=
  tyOk o.ty && o.d.ok && memBase o.base && memIndex o.index && memScl o.d.isScl o.mask o.base o.index

/-- A typed-buffer load is short: its LA field is 0 (R247). -/
def LoadOp.wfShort (tyOk : Ty → Bool) (o : LoadOp) : Bool := o.la == 0 && o.wf tyOk

def StoreOp.wf (tyOk : Ty → Bool) (o : StoreOp) : Bool :=
  tyOk o.ty && memBase o.base && memIndex o.index && memScl o.data.isScl o.mask o.base o.index

def StoreOp.wfShort (tyOk : Ty → Bool) (o : StoreOp) : Bool := o.la == 0 && o.wf tyOk

def notE2m1 (t : Ty) : Bool := t != .e2m1

/-- Types of `crpop` and `crpeek` (R248). -/
def crTy : Ty → Bool
  | .n32 | .f32 | .n64 | .f64 => true
  | _ => false

def atomIntTy : Ty → Bool
  | .i32 | .n32 | .i64 | .n64 => true
  | _ => false

/-- Types of `atom.add`, `min`, `max`, `exch` and of `red` (R250, R252). -/
def atomTy (t : Ty) : Bool := atomIntTy t || t == .f32 || t == .f64

def atomIncTy (t : Ty) : Bool := t == .n32 || t == .n64

def atomB (t : Ty) : Src → Bool
  | .vec _ | .scl _ => true
  | .const c => constOk t c
  | _ => false

def AtomOp.wf (tyOk : Ty → Bool) (o : AtomOp) : Bool :=
  tyOk o.ty && o.d.ok && memBase o.base && atomB o.ty o.b && memScl o.d.isScl o.mask o.base o.b

/-- `atom.cas` reads its swap value from the name numbered one higher (R250). -/
def AtomOp.casWf (o : AtomOp) : Bool :=
  o.wf atomIntTy && (match o.b with | .vec n => n.val != 127 | .scl n => n.val != 63 | _ => false)

def PfOp.wf (o : PfOp) : Bool := notE2m1 o.ty && memBase o.base && memIndex o.index

/-- n is present exactly at die, pkg and pod level, and a constant n lies in 1 to 63 (R261). -/
def barN (l : Level) (n : Option SC) : Bool :=
  match l, n with
  | .core, none | .quad, none => true
  | .core, some _ | .quad, some _ => false
  | _, none => false
  | _, some (.scl _) => true
  | _, some (.const c) => 0 < c.toNat && c.toNat < 64

/-- The address of an arrival barrier: a scalar, or a constant 0, 16, 32 or 48 (R266; log entry 8). -/
def abAddr : SC → Bool
  | .scl _ => true
  | .const c => c.toNat < 64 && c.toNat % 16 == 0

def AbarriveOp.wf : AbarriveOp → Bool
  | .arrive a none => abAddr a
  | .arrive a (some c) => abAddr a && c.nonneg
  | .expect a b => abAddr a && b.nonneg

/-- Fields shared by the four copies (R309). -/
def CopyOp.wfCommon (o : CopyOp) : Bool := o.d.okScl && o.slice.toNat ≤ o.slices.toNat

/-- `cpy` (R310). -/
def CopyOp.cpyWf (o : CopyOp) : Bool := o.wfCommon && o.recv == 0 && o.addr.isSome

def CopyOp.mcWf (o : CopyOp) : Bool := o.wfCommon && o.recv != 0 && o.addr.isSome

/-- `cpyst`: from the C-ring, addr is absent and rows is 128 (R309, R312). -/
def CopyOp.stWf (o : CopyOp) : Bool :=
  o.wfCommon && o.recv == 0 && o.abar.isNone &&
    (if o.buf == 1 then o.addr.isNone && o.rows == 127 else o.addr.isSome)

def CopyOp.fillWf (o : CopyOp) : Bool :=
  o.wfCommon && o.recv == 0 && o.addr.isSome && o.co.isNone && o.ch.isNone

/-- The rows of R315. -/
def MmaOp.wf (o : MmaOp) : Bool :=
  let bs := o.scales.isSome
  (o.bty == o.aty || (o.aty == .e4m3 && o.bty == .e5m2) || (o.aty == .e5m2 && o.bty == .e4m3)) &&
  (match o.aty with
   | .f64 => !bs && o.sel == 0
   | .f32 => o.unit.toNat % 2 == 0 && !bs && o.sel == 0
   | .f16 | .bf16 => o.unit == 0 && !bs && o.sel == 0
   | .e4m3 | .e5m2 => o.unit == 0 && (if bs then o.sel.toNat ≤ 4 else o.sel == 0)
   | .e2m1 => o.unit == 0 && o.sel == 0
   | _ => false) &&
  (o.specials.isSome == (bs && o.aty == .e2m1))

def EpicfgOp.wf (o : EpicfgOp) : Bool := o.side.isSome == (o.oty != .bf16)

def collTy : Ty → Bool
  | .i32 | .n32 | .i64 | .n64 | .f16 | .bf16 | .f32 | .f64 => true
  | _ => false

def CollOp.wf (o : CollOp) : Bool :=
  (match o.kind with | .allgat => notE2m1 o.ty | _ => collTy o.ty) &&
  (match o.count with | .scl _ => true | .const c => 0 < c.toNat && c.toNat < 64) && o.group.nonneg

/-- An instruction word's conditions (R56); every event is well formed. -/
def Instr.wf : Instr → Bool
  | .add o | .sub o | .mul o | .mulhi o | .imin o | .imax o | .iand o | .ior o | .ixor o | .iandn o
  | .shl o | .shr o | .sar o | .rotl o | .bfx o | .divq o | .remq o | .addsat o | .subsat o => o.wf Ty.isInt
  | .iabs o | .ineg o | .inot o | .popc o | .clz o | .ctz o | .brev o => o.wf Ty.isInt
  | .mad o | .bfi o | .sel o => o.wf Ty.isInt
  | .addi o | .muli o | .andi o | .ori o | .xori o | .mini o | .maxi o => o.wf false
  | .shli o | .shri o | .sari o => o.wf true
  | .cmpEq o | .cmpNe o | .cmpLt o | .cmpLe o | .cmpGt o | .cmpGe o => o.wf
  | .cmpiEq o | .cmpiNe o | .cmpiLt o | .cmpiLe o | .cmpiGt o | .cmpiGe o => o.wf
  | .mov o => o.wf Ty.isMov
  | .movi o => o.wf
  | .drop _ c | .hold _ c => c != 0
  | .mmov _ md a => md != 0 && a.wf
  | .msel o => o.wf
  | .lea o | .leax o => o.leaWf
  | .movl o => o.wf
  | .call d _ | .callx d _ => d.okScl
  | .wset _ => true
  | .wrd d _ _ => d.okScl
  | .fadd o | .fsub o | .fmul o | .fmin o | .fmax o | .fcopysign o => o.wf Ty.isFp
  | .fabs o | .fneg o => o.wf Ty.isFp
  | .fma o | .fclamp o | .fmax3 o | .fmin3 o => o.wf Ty.isFp
  | .fdiv o => o.wf
  | .frcp o | .frsq o | .fsqrt o => o.wf Ty.isFp
  | .fexp2 o | .flog2 o | .fsin o | .fcos o | .ftanh o => o.wf (fun t => t.isFp && t != .f64)
  | .cvt o => o.wf
  | .cvtsc o => o.scWf
  | .cvtpk o => o.pkWf
  | .fcmp o => o.wf
  | .fclass o => o.wf
  | .fisnan o => o.wf
  | .dot2 o => o.dotWf (fun t => t == .f16 || t == .bf16)
  | .dot4 o => o.dotWf (fun t => t == .e4m3 || t == .e5m2 || t == .i8 || t == .n8)
  | .dot8 o => o.dotWf (fun t => t == .e2m1)
  | .sxAdd o | .sxMul o | .sxFma o | .sxMax o | .sxMin o => o.wf
  | .sxCvt o => o.wf
  | .sxExp2 o => o.wf
  | .sxSum o => o.wf
  | .shflIdx o | .shflUp o | .shflDn o | .shflXor o => o.wf
  | .bcast o => o.bcastWf
  | .matchLanes o => o.d.okVec
  | .ballot d _ _ | .any d _ | .all d _ => d.okScl
  | .scan o => o.wf
  | .reduce o => o.wf
  | .mrank o => o.d.okVec
  | .mand _ md _ _ | .mor _ md _ _ | .mxor _ md _ _ | .mnot _ md _ => md != 0
  | .mpop d _ | .mfirst d _ | .mlast d _ => d.okScl
  | .cgrow d _ => d.okScl
  | .qrecv _ d _ | .qstat _ d _ => d.okScl
  | .ldG o | .ldR o | .ldH o | .ldC o => o.wf notE2m1
  | .stG o | .stR o | .stH o => o.wf notE2m1
  | .ldA o | .ldxA o | .ldW o => o.wfShort notE2m1
  | .stA o | .stxA o => o.wfShort notE2m1
  | .crpop o | .crpeek o => o.wfShort crTy
  | .atomAdd o | .atomMin o | .atomMax o | .atomExch o => o.wf atomTy
  | .atomAnd o | .atomOr o | .atomXor o => o.wf atomIntTy
  | .atomCas o => o.casWf
  | .atomInc o => o.wf atomIncTy
  | .redAdd o | .redMin o | .redMax o => o.wf atomTy
  | .pfG o => o.wf
  | .pfCode _ b => (match b with | .scl _ | .walker _ => true | _ => false)
  | .wait _ t => t.nonneg
  | .bar o | .bararr o => barN o.level o.n
  | .barv o => barN o.level o.n && o.d.okScl
  | .bardrop l _ => l == .core || l == .quad
  | .abinit a n b => abAddr a && n.nonneg && b.nonneg
  | .abarrive o => o.wf
  | .abexpect a b => abAddr a && b.nonneg
  | .abwait a p => abAddr a && p.nonneg
  | .cpy o => o.cpyWf
  | .cpyMc o => o.mcWf
  | .cpyst o => o.stWf
  | .cpyfill o => o.fillWf
  | .mma o => o.wf
  | .epicfg o => o.wf
  | .coll o => o.wf
  | .collwait _ _ _ g => g.nonneg
  | .rdsr m d _ => d.ok && maskOk d m
  | .wrsr r _ => r == .fdone
  | .feat d _ | .tstamp d => d.okScl
  | _ => true

/-- Is this constructor an instruction of R55, and no event? -/
def Instr.isEvent : Instr → Bool
  | .functionResultWrite .. | .atomicPerformed .. | .barrierRelease .. | .abwaitRelease .. | .sleepExpiry ..
  | .loadDataArrival .. | .storePerformed .. | .translationPassed .. | .remoteAccess .. | .pageResponse ..
  | .joinComplete .. | .rejoin .. | .trapEntry .. | .spill .. | .spillRestore .. | .roleSwitch .. | .taskStrandForm ..
  | .cgrowAnswer .. | .blockFetch .. | .insertedDelayExpiry .. | .copyStart .. | .copyRowDelivery .. | .copyComplete ..
  | .latchFill .. | .passStart .. | .passEnd .. | .tileClosed .. | .epilogueStart .. | .epilogueComplete ..
  | .collectiveComplete .. | .quarantineRelease | .doorbell .. | .launch .. | .chunkGrant .. | .cohortPlacement ..
  | .launchCompletion .. | .configure .. | .sealPartition .. | .releasePartition .. | .preempt .. | .drainEnd ..
  | .restore .. | .asidCreate .. | .asidDestroy .. | .writeRangeEntry .. | .pagesWrite .. | .pagesInvalidate ..
  | .writeTensorRecord .. | .writeGroupEntry .. | .writeExportEntry .. | .bindBridgeSender .. | .bindBridgeReceiver ..
  | .unbindBridge .. | .setQueue .. | .setOverflowArea .. | .bindPodGroup .. | .unbindPodGroup .. | .loadCodeObject ..
  | .enrolKey .. | .withdrawKey .. | .setPowerCap .. | .cancelLaunch .. | .semaphoreAcquire .. | .semaphoreFree ..
  | .controlBlockWrite .. | .traceControlWrite .. | .registerWrite .. | .causalTrialGo .. | .causalTrialEnd ..
  | .stopWrite .. | .resumeWrite .. | .breakpointHit .. | .sample .. | .powerOnReset | .linkDown ..
  | .semaphoreLinkFree .. | .dieFence .. | .masterElection .. | .stackSelfRefresh .. | .stackResume .. | .stackFence ..
  | .firmwareHandover .. | .shanovLinkFailure .. | .podGroupLive .. | .hbmChannelSparing ..
  | .refreshPostponementLimit .. => true
  | _ => false

end Sys2Proof
end

