-- ==== Sys2Proof/Machine/Num.lean ====
section
/-! DEFINITION. The number formats of file 05: exact values, rounding (R105 to R118), and exact sums and products. -/
namespace Sys2Proof.Machine

/-- An exact value: NaN, an infinity, or (−1)^neg × m × 2^e. -/
inductive FVal where
  | nan
  | inf (neg : Bool)
  | fin (neg : Bool) (m : Nat) (e : Int)
  deriving DecidableEq, Repr

/-- Mantissa and exponent bits of a float type (R105). -/
def manBits : Ty → Nat
  | .f64 => 52 | .f32 => 23 | .f16 => 10 | .bf16 => 7 | .e4m3 => 3 | .e5m2 => 2 | .e2m1 => 1 | _ => 0

def expBits : Ty → Nat
  | .f64 => 11 | .f32 => 8 | .f16 => 5 | .bf16 => 8 | .e4m3 => 4 | .e5m2 => 5 | .e2m1 => 2 | _ => 8

def fBias : Ty → Nat
  | .f64 => 1023 | .f32 => 127 | .f16 => 15 | .bf16 => 127 | .e4m3 => 7 | .e5m2 => 15 | .e2m1 => 1 | _ => 127

/-- Code of the greatest finite value, without its sign (R105). -/
def maxCode : Ty → Nat
  | .f64 => 0x7FEFFFFFFFFFFFFF | .f32 => 0x7F7FFFFF | .f16 => 0x7BFF | .bf16 => 0x7F7F | .e4m3 => 0x7E | .e5m2 => 0x7B
  | .e2m1 => 7 | _ => 0xFE

/-- Code of +∞; e4m3, e2m1 and e8m0 have none. -/
def infCode : Ty → Option Nat
  | .f64 => some 0x7FF0000000000000 | .f32 => some 0x7F800000 | .f16 => some 0x7C00 | .bf16 => some 0x7F80
  | .e5m2 => some 0x7C | _ => none

/-- Code of the canonical NaN (R105); e2m1 has none and takes 0b0000 (R116). -/
def nanCode : Ty → Nat
  | .f64 => 0x7FF8000000000000 | .f32 => 0x7FC00000 | .f16 => 0x7E00 | .bf16 => 0x7FC0 | .e4m3 => 0x7F | .e5m2 => 0x7E
  | .e2m1 => 0 | _ => 0xFF

/-- The value of a code (R106 to R108). -/
def valueOf (t : Ty) (c : Nat) : FVal :=
  if t = .e8m0 then (if c % 256 = 255 then .nan else .fin false 1 ((c % 256 : Nat) - 127))
  else
    let mb := manBits t
    let eb := expBits t
    let neg := c / 2 ^ (mb + eb) % 2 = 1
    let e := c / 2 ^ mb % 2 ^ eb
    let m := c % 2 ^ mb
    if e = 2 ^ eb - 1 && t != .e2m1 && (t != .e4m3 || m = 7) then
      if t != .e4m3 && m = 0 then .inf neg else .nan
    else if e = 0 then .fin neg m (1 - (fBias t : Int) - mb)
    else .fin neg (2 ^ mb + m) ((e : Int) - fBias t - mb)

/-- 2^k as a factor of numerator or denominator. -/
def shiftQ (n d : Nat) (k : Int) : Nat × Nat := if 0 ≤ k then (n * 2 ^ k.toNat, d) else (n, d * 2 ^ (-k).toNat)

/-- floor(log2(n ÷ d)) for positive n and d. -/
def log2Q (n d : Nat) : Int :=
  let k : Int := (Nat.log2 n : Int) - Nat.log2 d
  let q := shiftQ n d (-k)
  if q.2 ≤ q.1 then k else k - 1

/-- Does rounding go up in magnitude from the quotient fl, with remainder rem of den (R114)? -/
def goesUp (mode : RMode) (neg : Bool) (fl rem den : Nat) : Bool :=
  match mode with
  | .rne => den < 2 * rem || (2 * rem == den && fl % 2 == 1)
  | .rtz => false
  | .rdn => neg && rem != 0
  | .rup => !neg && rem != 0

/-- Round the positive value n ÷ d × 2^e on the unbounded exponent (R116): its code without the sign, none for overflow. -/
def roundMag (t : Ty) (mode : RMode) (neg : Bool) (n d : Nat) (e : Int) : Option Nat :=
  let mb := manBits t
  let emin : Int := 1 - fBias t
  let ex := log2Q n d + e
  let q := max ex emin - mb
  let s := shiftQ n d (e - q)
  let fl := s.1 / s.2
  let r := fl + if goesUp mode neg fl (s.1 % s.2) s.2 then 1 else 0
  let code := (q - (emin - mb)).toNat * 2 ^ mb + r
  if code ≤ maxCode t then some code else none

def signBit (t : Ty) (neg : Bool) : Nat := if neg then 2 ^ (t.bits - 1) else 0

/-- What an overflow gives (R116); saturation acts on f16, bf16, e4m3 and e5m2 (R158), always on e2m1. -/
def overflowCode (t : Ty) (mode : RMode) (sat neg : Bool) : Nat :=
  let big := signBit t neg + maxCode t
  let sat := (sat && t != .f32 && t != .f64) || t == .e2m1
  let toMax := match mode with
    | .rne => false | .rtz => true | .rdn => !neg | .rup => neg
  if sat || toMax then big
  else match infCode t with
    | some c => signBit t neg + c
    | none => nanCode t

/-- What an infinite source gives (R116). -/
def infiniteCode (t : Ty) (sat neg : Bool) : Nat :=
  let sat := (sat && t != .f32 && t != .f64) || t == .e2m1
  if sat then signBit t neg + maxCode t
  else match infCode t with
    | some c => signBit t neg + c
    | none => nanCode t

/-- Round a positive quotient to e8m0 (R118). -/
def roundE8 (mode : RMode) (n d : Nat) (e : Int) : Nat :=
  let k := log2Q n d
  let s := shiftQ n d (-k)
  let exact := s.1 == s.2
  let up := match mode with
    | .rne => 3 * s.2 < 2 * s.1 || (2 * s.1 == 3 * s.2 && (k + e + 127) % 2 == 1)
    | .rtz | .rdn => false
    | .rup => !exact
  min ((k + e + 127 + if up then 1 else 0).toNat) 254

/-- Round an exact quotient with its sign; n = 0 is a zero of that sign. -/
def roundQ (t : Ty) (mode : RMode) (sat neg : Bool) (n d : Nat) (e : Int) : Nat :=
  if t = .e8m0 then (if neg || n = 0 then 0xFF else roundE8 mode n d e)
  else if n = 0 then signBit t neg
  else match roundMag t mode neg n d e with
    | some c => signBit t neg + c
    | none => overflowCode t mode sat neg

/-- Round an exact value into a type (R116 to R118). -/
def roundV (t : Ty) (mode : RMode) (sat : Bool) : FVal → Nat
  | .nan => nanCode t
  | .inf neg => if t = .e8m0 then (if neg then 0xFF else 0xFE) else infiniteCode t sat neg
  | .fin neg m e => roundQ t mode sat neg m 1 e

/-- One rounding to nearest even, as every operation without a mode makes (R115). -/
def rne (t : Ty) (v : FVal) : Nat := roundV t .rne false v

/-- Round to an integer (R117). -/
def roundInt (mode : RMode) : FVal → Option Int
  | .fin neg m e =>
    let s := shiftQ m 1 e
    let fl := s.1 / s.2
    let r := fl + if goesUp mode neg fl (s.1 % s.2) s.2 then 1 else 0
    some (if neg then -(r : Int) else r)
  | _ => none

/-- Range of an integer type (R103). -/
def intMin (t : Ty) : Int := if t.isSigned then -(2 ^ (t.bits - 1) : Nat) else 0
def intMax (t : Ty) : Int := if t.isSigned then (2 ^ (t.bits - 1) : Nat) - 1 else (2 ^ t.bits : Nat) - 1

def clampInt (t : Ty) (x : Int) : Int := max (intMin t) (min (intMax t) x)

/-- Float to integer: round by the mode, then clamp; infinities clamp, NaN gives 0 (R117). -/
def toInt (t : Ty) (mode : RMode) (v : FVal) : Int :=
  match v with
  | .nan => 0
  | .inf neg => if neg then intMin t else intMax t
  | v => clampInt t ((roundInt mode v).getD 0)

def ofInt (x : Int) : FVal := .fin (x < 0) x.natAbs 0

def FVal.isNan : FVal → Bool
  | .nan => true
  | _ => false

def FVal.isZero : FVal → Bool
  | .fin _ m _ => m == 0
  | _ => false

def FVal.neg : FVal → Bool
  | .nan => false
  | .inf n => n
  | .fin n _ _ => n

def FVal.flip : FVal → FVal
  | .nan => .nan
  | .inf n => .inf !n
  | .fin n m e => .fin (!n) m e

def FVal.abs : FVal → FVal
  | .nan => .nan
  | .inf _ => .inf false
  | .fin _ m e => .fin false m e

/-- Exact product (R110, R112). -/
def mulV (a b : FVal) : FVal :=
  match a, b with
  | .nan, _ | _, .nan => .nan
  | .inf x, y => if y.isZero then .nan else .inf (x != y.neg)
  | x, .inf y => if x.isZero then .nan else .inf (x.neg != y)
  | .fin x m e, .fin y n f => .fin (x != y) (m * n) (e + f)

/-- The lowest exponent among finite terms. -/
def lowExp : List FVal → Option Int
  | [] => none
  | .fin _ _ e :: r => some (match lowExp r with | some f => min e f | none => e)
  | _ :: r => lowExp r

/-- The signed mantissa at exponent `lo`. -/
def mantAt (lo : Int) : FVal → Int
  | .fin neg m e => let k : Int := (m * 2 ^ (e - lo).toNat : Nat); if neg then -k else k
  | _ => 0

/-- Exact sum: NaN rules of R110 and R121; an exact zero is −0 only when every term is −0 (R112). -/
def sumV (ts : List FVal) : FVal :=
  if ts.any FVal.isNan then .nan
  else if ts.contains (.inf false) then (if ts.contains (.inf true) then .nan else .inf false)
  else if ts.contains (.inf true) then .inf true
  else
    let lo := (lowExp ts).getD 0
    let s := ts.foldl (fun a t => a + mantAt lo t) 0
    if s = 0 then .fin (!ts.isEmpty && ts.all fun t => t.isZero && t.neg) 0 lo
    else .fin (s < 0) s.natAbs lo

def addV (a b : FVal) : FVal := sumV [a, b]

/-- Compare numbers: a < b, with equal zeros (R161). -/
def ltV (a b : FVal) : Bool :=
  match a, b with
  | .nan, _ | _, .nan => false
  | .inf true, .inf true => false
  | .inf true, _ => true
  | .inf false, _ => false
  | _, .inf n => !n
  | x, y => let lo := (lowExp [x, y]).getD 0; mantAt lo x < mantAt lo y

def eqV (a b : FVal) : Bool :=
  match a, b with
  | .nan, _ | _, .nan => false
  | .inf x, .inf y => x == y
  | .inf _, _ | _, .inf _ => false
  | x, y => let lo := (lowExp [x, y]).getD 0; mantAt lo x == mantAt lo y

/-- Below, with −0 below +0 (R111). -/
def belowV (a b : FVal) : Bool := ltV a b || (a.isZero && b.isZero && a.neg && !b.neg)

/-- Lesser and greater: the operand that is no NaN (R111). -/
def minV (a b : FVal) : FVal := if a.isNan then b else if b.isNan then a else if belowV b a then b else a
def maxV (a b : FVal) : FVal := if a.isNan then b else if b.isNan then a else if belowV a b then b else a

/-- a ÷ b, rounded once (R110, R112). -/
def divCode (t : Ty) (a b : FVal) : Nat :=
  match a, b with
  | .nan, _ | _, .nan => nanCode t
  | .inf _, .inf _ => nanCode t
  | .inf x, y => infiniteCode t false (x != y.neg)
  | x, .inf y => signBit t (x.neg != y)
  | .fin x m e, .fin y n f =>
    if n = 0 then (if m = 0 then nanCode t else infiniteCode t false (x != y))
    else roundQ t .rne false (x != y) m n (e - f)

/-- Integer square root, bit by bit from bit k down. -/
def isqrtFrom : Nat → Nat → Nat → Nat
  | 0, n, r => if (r + 1) * (r + 1) ≤ n then r + 1 else r
  | k + 1, n, r => isqrtFrom k n (if (r + 2 ^ (k + 1)) * (r + 2 ^ (k + 1)) ≤ n then r + 2 ^ (k + 1) else r)

def isqrt (n : Nat) : Nat := isqrtFrom (Nat.log2 n / 2 + 1) n 0

/-- √(m × 2^e) for m > 0, rounded once: the root to far more bits than any type, with a sticky bit. -/
def sqrtCode (t : Ty) (m : Nat) (e : Int) : Nat :=
  let m := if e % 2 = 0 then m else 2 * m
  let e := if e % 2 = 0 then e else e - 1
  let x := m * 4 ^ 64
  let r := isqrt x
  roundQ t .rne false false (2 * r + if r * r = x then 0 else 1) 1 (e / 2 - 65)

/-- 1 ÷ √(m × 2^e), rounded once. -/
def rsqrtCode (t : Ty) (m : Nat) (e : Int) : Nat :=
  let m := if e % 2 = 0 then m else 2 * m
  let e := if e % 2 = 0 then e else e - 1
  let x := 4 ^ 128 / m
  let r := isqrt x
  roundQ t .rne false false (2 * r + if m * r * r = 4 ^ 128 then 0 else 1) 1 (-(e / 2) - 129)

/-! ### Elements of a lane value (R104) -/

/-- Element j of a lane value. -/
def elemOf (t : Ty) (x : Word) (j : Nat) : Nat := x.toNat / 2 ^ (j * t.bits) % 2 ^ t.bits

/-- A lane value from its elements. -/
def packElems (t : Ty) (es : List Nat) : Word :=
  BitVec.ofNat 64 (es.foldr (fun c acc => c % 2 ^ t.bits + 2 ^ t.bits * acc) 0)

/-- The same function on every element. -/
def eachElem (t : Ty) (f : Nat → Nat) (x : Word) : Word := packElems t ((List.range t.elems).map fun j => f (elemOf t x j))

def eachElem2 (t : Ty) (f : Nat → Nat → Nat) (x y : Word) : Word :=
  packElems t ((List.range t.elems).map fun j => f (elemOf t x j) (elemOf t y j))

def eachElem3 (t : Ty) (f : Nat → Nat → Nat → Nat) (x y z : Word) : Word :=
  packElems t ((List.range t.elems).map fun j => f (elemOf t x j) (elemOf t y j) (elemOf t z j))

/-- A float inline constant, in every element (R54, R152). -/
def constFloat (t : Ty) (i : Nat) : Word :=
  let v : FVal := match i with
    | 0 => .fin false 0 0 | 1 => .fin false 1 0 | 2 => .fin false 2 0 | 3 => .fin false 1 (-1) | 4 => .fin true 1 0
    | 5 => .fin true 2 0 | 6 => .fin false 4 0 | 7 => .fin false 1 (-2) | 8 => .inf false | 9 => .inf true | _ => .nan
  let c := rne t v
  packElems t (List.replicate t.elems c)

/-- An inline constant in an operand of a type: an integer sign-extended (R50), or an entry of the constant table. -/
def constVal (t : Ty) (c : BitVec 7) : Word :=
  if t.isInt then BitVec.ofNat 64 ((c.signExtend 64).toNat % 2 ^ (max t.bits 32)) else constFloat t c.toNat

/-- A float conversion of one element (R116 to R118, R158). An e8m0 source is a positive value. -/
def cvtFloat (dt st : Ty) (mode : RMode) (sat : Bool) (c : Nat) : Nat :=
  if dt = st then (if (valueOf st c).isNan then nanCode dt else c) else roundV dt mode sat (valueOf st c)

end Sys2Proof.Machine
end

