-- ==== Sys2Proof/Config.lean ====
section
/-! DEFINITION. What an implementation fixes and the values the manual leaves open: every constant here is opaque,
so that nothing can be proved about which value it has. -/
namespace Sys2Proof.Config

/-- A value the manual does not state, drawn afresh each time: the contents of device registers (R183), whose map is
not in the text (log entry 6). -/
opaque freeWord : Nat → BitVec 64

/-- %pkg: the number of this package within the load-store domain, 0 to 16,383 (R97). -/
opaque pkgNumber : BitVec 14

/-- Reads of a live-in record that a role starts with; the manual gives it none (R177, log entry 11). -/
opaque liveCount : BitVec 4

/-- Does a device belong to the load-store domain of this one (R16, R368, log entry 139)? -/
opaque inDomain : Nat → Bool

/-- The Adeund key held in fuses, which firmware verifies against (R385). -/
opaque fuseKey : List (BitVec 8)

/-- The line rate of a host port, and the thermal cap that the device comes up with (R383). -/
opaque hostLineRate : Nat
opaque thermalCap : Nat

end Sys2Proof.Config
end

