-- ==== Sys2Proof/Decode.lean ====
section
/-! DEFINITION. The decoder of instruction words, total, rejecting by the step of R59 that fails first, and the encoder
written from the same tables of file 03 and of the entries of files 04, 07, 11 and 14. -/
namespace Sys2Proof

/-- The fields of formats A, I, B and M (R46-R49), all read from one word. -/
structure Fields where
  maj : BitVec 6
  min : BitVec 6
  la : BitVec 4
  mask : BitVec 4
  ty : BitVec 4
  flag : BitVec 1
  dest : BitVec 8
  cnt : BitVec 4
  a : BitVec 9
  b : BitVec 9
  c : BitVec 9
  deriving DecidableEq, Repr

/-- Bits `lo + n - 1 : lo` of a word. -/
def bitsAt (w : Word) (lo n : Nat) : BitVec n := w.extractLsb' lo n

/-- The word read as formats A, I, B and M lay it out (R46, R47). -/
def fieldsOf (w : Word) : Fields where
  maj := bitsAt w 58 6
  min := bitsAt w 52 6
  la := bitsAt w 48 4
  mask := bitsAt w 44 4
  ty := bitsAt w 40 4
  flag := bitsAt w 39 1
  dest := bitsAt w 31 8
  cnt := bitsAt w 27 4
  a := bitsAt w 18 9
  b := bitsAt w 9 9
  c := bitsAt w 0 9

/-- The word that holds the given fields (R46, R47). -/
def wordOf (f : Fields) : Word :=
  f.maj ++ f.min ++ f.la ++ f.mask ++ f.ty ++ f.flag ++ f.dest ++ f.cnt ++ f.a ++ f.b ++ f.c

/-- Bits 17:0, the immediate of format I (R48). -/
def Fields.imm18 (f : Fields) : BitVec 18 := f.b ++ f.c

/-- Bits 26:0, the offset of format B (R49) and the immediate of `movi` (R81). -/
def Fields.off27 (f : Fields) : BitVec 27 := f.a ++ f.b ++ f.c

/-- Bits 8:5, the counter of format M. -/
def Fields.ctr (f : Fields) : BitVec 4 := f.c.extractLsb' 5 4

/-- A scalar in the destination field goes with mask field 0 (R69, R240): a check of the mask field, step 3 of R59. -/
def Fields.maskField (f : Fields) : Bool := f.dest.extractLsb' 7 1 == 0 || f.mask == 0

/-- Bits 4:0, the displacement of format M. -/
def Fields.low5 (f : Fields) : BitVec 5 := f.c.extractLsb' 0 5

def fin16 (x : BitVec 4) : Fin 16 := x.toFin
def bv4 (x : Fin 16) : BitVec 4 := BitVec.ofNat 4 x.val

/-- Type codes (R53). -/
def tyOf (x : BitVec 4) : Ty :=
  match x.toNat with
  | 0 => .i8 | 1 => .n8 | 2 => .i16 | 3 => .n16 | 4 => .i32 | 5 => .n32 | 6 => .i64 | 7 => .n64
  | 8 => .f16 | 9 => .bf16 | 10 => .f32 | 11 => .f64 | 12 => .e4m3 | 13 => .e5m2 | 14 => .e2m1 | _ => .e8m0

def tyBits (t : Ty) : BitVec 4 := BitVec.ofNat 4 t.code

/-- A source operand field (R50). -/
def srcOf (f : BitVec 9) : Option Src :=
  match (f.extractLsb' 7 2).toNat with
  | 0 => some (.vec (f.extractLsb' 0 7).toFin)
  | 1 => if f.extractLsb' 6 1 = 0 then some (.scl (f.extractLsb' 0 6).toFin) else none
  | 2 =>
    match (f.extractLsb' 4 3).toNat with
    | 0 => if f.extractLsb' 3 1 = 0 then some (.walker (f.extractLsb' 0 3).toFin) else none
    | 1 => some (.special (f.extractLsb' 0 4).toFin)
    | _ => none
  | _ => some (.const (f.extractLsb' 0 7))

def srcBits : Src → BitVec 9
  | .vec n => BitVec.ofNat 9 n.val
  | .scl n => BitVec.ofNat 9 (128 + n.val)
  | .walker n => BitVec.ofNat 9 (256 + n.val)
  | .special n => BitVec.ofNat 9 (272 + n.val)
  | .const c => BitVec.ofNat 9 (384 + c.toNat)

/-- A scalar name or constant in a source field. -/
def scOf (f : BitVec 9) : Option SC :=
  match srcOf f with
  | some (.scl n) => some (.scl n)
  | some (.const c) => some (.const c)
  | _ => none

def scBits : SC → BitVec 9
  | .scl n => BitVec.ofNat 9 (128 + n.val)
  | .const c => BitVec.ofNat 9 (384 + c.toNat)

/-- An address field: a scalar name, or a constant that is not negative (R164, R300). -/
def afOf (f : BitVec 9) : Option AField :=
  match srcOf f with
  | some (.scl n) => some (.scl n)
  | some (.const c) => if c.toNat < 64 then some (.const (c.setWidth 6)) else none
  | _ => none

def afBits : AField → BitVec 9
  | .scl n => BitVec.ofNat 9 (128 + n.val)
  | .const k => BitVec.ofNat 9 (384 + k.toNat)

/-- A vector name in a source field. -/
def vecOf (f : BitVec 9) : Option (Fin 128) :=
  match srcOf f with
  | some (.vec n) => some n
  | _ => none

/-- A mask operand (R80): bits 8:4 are zero. -/
def maskOf (f : BitVec 9) : Option (Fin 16) :=
  if f.extractLsb' 4 5 = 0 then some (f.extractLsb' 0 4).toFin else none

def maskBits (m : Fin 16) : BitVec 9 := BitVec.ofNat 9 m.val

/-- A destination field with its count (R22, R26, R51): count 0 goes with field 0x00, the sink. -/
def destOf (d : BitVec 8) (c : BitVec 4) : Option Dest :=
  if c = 0 then (if d = 0 then some .sink else none)
  else if d.extractLsb' 7 1 = 0 then some (.vec (d.extractLsb' 0 7).toFin c)
  else if d.extractLsb' 6 1 = 0 then some (.scl (d.extractLsb' 0 6).toFin c)
  else none

def destBits : Dest → BitVec 8
  | .sink => 0
  | .vec n _ => BitVec.ofNat 8 n.val
  | .scl n _ => BitVec.ofNat 8 (128 + n.val)

def cntBits : Dest → BitVec 4
  | .sink => 0
  | .vec _ c => c
  | .scl _ c => c

/-- A name in destination-field form (R51). -/
def nameOf (d : BitVec 8) : Option Name :=
  if d.extractLsb' 7 1 = 0 then some (.vec (d.extractLsb' 0 7).toFin)
  else if d.extractLsb' 6 1 = 0 then some (.scl (d.extractLsb' 0 6).toFin)
  else none

def nameBits : Name → BitVec 8
  | .vec n => BitVec.ofNat 8 n.val
  | .scl n => BitVec.ofNat 8 (128 + n.val)

/-- A mask destination (R51): count 1, bits 7:4 zero, not `m0`. -/
def mdestOf (d : BitVec 8) (c : BitVec 4) : Option (Fin 16) :=
  if c = 1 ∧ d.extractLsb' 4 4 = 0 ∧ d ≠ 0 then some (d.extractLsb' 0 4).toFin else none

def mdestBits (m : Fin 16) : BitVec 8 := BitVec.ofNat 8 m.val

def scopeOf (x : Nat) : Option Scope :=
  match x with
  | 0 => some .core | 1 => some .quad | 2 => some .die | 3 => some .pkg | 4 => some .pod | 5 => some .sys | _ => none

def Scope.code : Scope → Nat
  | .core => 0 | .quad => 1 | .die => 2 | .pkg => 3 | .pod => 4 | .sys => 5

def semOf (x : Nat) : Sem := match x with | 0 => .relaxed | 1 => .acq | 2 => .rel | _ => .ar
def Sem.code : Sem → Nat | .relaxed => 0 | .acq => 1 | .rel => 2 | .ar => 3

def levelOf (x : Nat) : Option Level :=
  match x with
  | 0 => some .core | 1 => some .quad | 2 => some .die | 3 => some .pkg | 4 => some .pod | _ => none
def Level.code : Level → Nat | .core => 0 | .quad => 1 | .die => 2 | .pkg => 3 | .pod => 4

def modeOf (x : BitVec 2) : RMode := match x.toNat with | 0 => .rne | 1 => .rtz | 2 => .rdn | _ => .rup
def RMode.code : RMode → Nat | .rne => 0 | .rtz => 1 | .rdn => 2 | .rup => 3

def fcondOf (x : BitVec 3) : FCond :=
  match x.toNat with
  | 0 => .eq | 1 => .ne | 2 => .lt | 3 => .le | 4 => .gt | 5 => .ge | 6 => .ord | _ => .uno
def FCond.code : FCond → Nat
  | .eq => 0 | .ne => 1 | .lt => 2 | .le => 3 | .gt => 4 | .ge => 5 | .ord => 6 | .uno => 7

def combOf (x : Nat) : Option Comb := match x with | 0 => some .add | 1 => some .min | 2 => some .max | _ => none
def Comb.code : Comb → Nat | .add => 0 | .min => 1 | .max => 2

def sysRegOf (x : Nat) : Option SysReg :=
  match x with
  | 0 => some .fdone | 1 => some .pkg | 2 => some .tcode | 3 => some .prio | 4 => some .armature | _ => none
def SysReg.code : SysReg → Nat | .fdone => 0 | .pkg => 1 | .tcode => 2 | .prio => 3 | .armature => 4

/-- A failing check answers its step in R59's list; 0 for the placement rule of R31. -/
abbrev Dec := Except Nat

/-- Step n fails unless the condition holds. -/
def chk (n : Nat) (b : Bool) : Dec Unit := if b then .ok () else .error n

/-- Step n fails unless the value is there. -/
def need (n : Nat) {α : Type} (x : Option α) : Dec α := match x with | some v => .ok v | none => .error n

/-- An inline constant from 0 to 63 in a source field (R94). -/
def idxOf (f : BitVec 9) : Option (BitVec 6) :=
  match srcOf f with
  | some (.const c) => if c.toNat < 64 then some (c.setWidth 6) else none
  | _ => none

def idxBits (k : BitVec 6) : BitVec 9 := BitVec.ofNat 9 (384 + k.toNat)

/-- The register instructions of majors 0x01, 0x10 and 0x14 by their number of sources. -/
inductive AluForm where
  | one (mk : Op1 → Instr)
  | two (mk : Op2 → Instr)
  | three (mk : Op3 → Instr)

/-- Destination, mask and sources under R69; `tc` is the type in which source c is read. -/
def decAlu (tyOk : Ty → Bool) (tb tc : Ty → Ty) (form : AluForm) (f : Fields) : Dec Instr := do
  let t := tyOf f.ty
  chk 3 (f.la == 0)
  chk 3 (tyOk t)
  chk 3 (f.flag == 0)
  chk 3 f.maskField
  let d ← need 4 (destOf f.dest f.cnt)
  let m := fin16 f.mask
  let a ← need 5 (srcOf f.a)
  match form with
  | .one mk =>
    chk 5 (srcOk d t a && f.b == 0 && f.c == 0)
    pure (mk ⟨m, t, d, a⟩)
  | .two mk =>
    let b ← need 5 (srcOf f.b)
    chk 5 (srcOk d t a && srcOk d (tb t) b && f.c == 0)
    pure (mk ⟨m, t, d, a, b⟩)
  | .three mk =>
    let b ← need 5 (srcOf f.b)
    let c ← need 5 (srcOf f.c)
    chk 5 (srcOk d t a && srcOk d (tb t) b && srcOk d (tc t) c)
    pure (mk ⟨m, t, d, a, b, c⟩)

/-- Minors of major 0x01 (R55, R74). -/
def alu01 (x : Nat) : Option AluForm :=
  match x with
  | 0 => some (.two .add)
  | 1 => some (.two .sub)
  | 2 => some (.two .mul)
  | 3 => some (.two .mulhi)
  | 4 => some (.three .mad)
  | 5 => some (.two .imin)
  | 6 => some (.two .imax)
  | 7 => some (.one .iabs)
  | 8 => some (.one .ineg)
  | 9 => some (.two .iand)
  | 10 => some (.two .ior)
  | 11 => some (.two .ixor)
  | 12 => some (.two .iandn)
  | 13 => some (.one .inot)
  | 14 => some (.two .shl)
  | 15 => some (.two .shr)
  | 16 => some (.two .sar)
  | 17 => some (.two .rotl)
  | 18 => some (.one .popc)
  | 19 => some (.one .clz)
  | 20 => some (.one .ctz)
  | 21 => some (.one .brev)
  | 22 => some (.two .bfx)
  | 23 => some (.three .bfi)
  | 24 => some (.three .sel)
  | 25 => some (.two .divq)
  | 26 => some (.two .remq)
  | 27 => some (.two .addsat)
  | 28 => some (.two .subsat)
  | _ => none

/-- Minors of major 0x10 (R55, R154). -/
def alu10 (x : Nat) : Option AluForm :=
  match x with
  | 0 => some (.two .fadd)
  | 1 => some (.two .fsub)
  | 2 => some (.two .fmul)
  | 3 => some (.three .fma)
  | 4 => some (.two .fmin)
  | 5 => some (.two .fmax)
  | 6 => some (.one .fabs)
  | 7 => some (.one .fneg)
  | 8 => some (.two .fcopysign)
  | 9 => some (.three .fclamp)
  | 10 => some (.three .fmax3)
  | 11 => some (.three .fmin3)
  | _ => none

/-- Minors of major 0x02 (R77); the shifts are marked. -/
def imm02 (x : Nat) : Option (Bool × (OpI → Instr)) :=
  match x with
  | 0 => some ((false, .addi))
  | 1 => some ((false, .muli))
  | 2 => some ((false, .andi))
  | 3 => some ((false, .ori))
  | 4 => some ((false, .xori))
  | 5 => some ((true, .shli))
  | 6 => some ((true, .shri))
  | 7 => some ((true, .sari))
  | 8 => some ((false, .mini))
  | 9 => some ((false, .maxi))
  | _ => none

/-- Minors of major 0x03 (R78). -/
def cmp03 (x : Nat) : Option (CmpOp → Instr) :=
  match x with
  | 0 => some (.cmpEq)
  | 1 => some (.cmpNe)
  | 2 => some (.cmpLt)
  | 3 => some (.cmpLe)
  | 4 => some (.cmpGt)
  | 5 => some (.cmpGe)
  | _ => none

/-- Minors of major 0x04 (R78). -/
def cmp04 (x : Nat) : Option (CmpIOp → Instr) :=
  match x with
  | 0 => some (.cmpiEq)
  | 1 => some (.cmpiNe)
  | 2 => some (.cmpiLt)
  | 3 => some (.cmpiLe)
  | 4 => some (.cmpiGt)
  | 5 => some (.cmpiGe)
  | _ => none


/-- Types of minors 0x04 to 0x08 of major 0x11 (R155). -/
def Ty.isFn (t : Ty) : Bool := t.isFp && t != .f64

/-- Minors of major 0x11 but `fdiv` (R155). -/
def fn11 (x : Nat) : Option ((Ty → Bool) × (Fn1 → Instr)) :=
  match x with
  | 1 => some ((Ty.isFp, .frcp))
  | 2 => some ((Ty.isFp, .frsq))
  | 3 => some ((Ty.isFp, .fsqrt))
  | 4 => some ((Ty.isFn, .fexp2))
  | 5 => some ((Ty.isFn, .flog2))
  | 6 => some ((Ty.isFn, .fsin))
  | 7 => some ((Ty.isFn, .fcos))
  | 8 => some ((Ty.isFn, .ftanh))
  | _ => none

/-- Minors of major 0x28 (R244). -/
def ld28 (x : Nat) : Option (LoadOp → Instr) :=
  match x with
  | 0 => some (.ldG)
  | 1 => some (.ldR)
  | 2 => some (.ldH)
  | 3 => some (.ldC)
  | _ => none

/-- Minors of major 0x29 (R244). -/
def st29 (x : Nat) : Option (StoreOp → Instr) :=
  match x with
  | 0 => some (.stG)
  | 1 => some (.stR)
  | 2 => some (.stH)
  | _ => none

/-- Minors of major 0x2C with their types (R250). -/
def atom2C (x : Nat) : Option ((Ty → Bool) × (AtomOp → Instr)) :=
  match x with
  | 0 => some ((atomTy, .atomAdd))
  | 1 => some ((atomTy, .atomMin))
  | 2 => some ((atomTy, .atomMax))
  | 3 => some ((atomIntTy, .atomAnd))
  | 4 => some ((atomIntTy, .atomOr))
  | 5 => some ((atomIntTy, .atomXor))
  | 6 => some ((atomTy, .atomExch))
  | 7 => some ((atomIntTy, .atomCas))
  | 8 => some ((atomIncTy, .atomInc))
  | _ => none

/-- Two-source minors of major 0x15 (R165). -/
def sx15 (x : Nat) : Option (SxOp → Instr) :=
  match x with
  | 0 => some (.sxAdd)
  | 1 => some (.sxMul)
  | 2 => some (.sxFma)
  | 3 => some (.sxMax)
  | 4 => some (.sxMin)
  | _ => none

/-- Shuffles of major 0x20 (R169). -/
def shfl20 (x : Nat) : Option (ShflOp → Instr) :=
  match x with
  | 0 => some (.shflIdx)
  | 1 => some (.shflUp)
  | 2 => some (.shflDn)
  | 3 => some (.shflXor)
  | _ => none

/-- Two-operand mask writers of major 0x21 (R173). -/
def mask21 (x : Nat) : Option (Fin 16 → Fin 16 → Fin 16 → Fin 16 → Instr) :=
  match x with
  | 0 => some (.mand)
  | 1 => some (.mor)
  | 2 => some (.mxor)
  | _ => none

/-- Scalar forms of major 0x21 (R173). -/
def smask21 (x : Nat) : Option (Dest → Fin 16 → Instr) :=
  match x with
  | 4 => some (.mpop)
  | 5 => some (.mfirst)
  | 6 => some (.mlast)
  | _ => none

/-- Minors of major 0x36 (R310). -/
def copy36 (x : Nat) : Option ((CopyOp → Bool) × (CopyOp → Instr)) :=
  match x with
  | 0 => some ((CopyOp.cpyWf, .cpy))
  | 1 => some ((CopyOp.mcWf, .cpyMc))
  | 2 => some ((CopyOp.stWf, .cpyst))
  | 3 => some ((CopyOp.fillWf, .cpyfill))
  | _ => none

/-- Minors of major 0x37 but `mma` (R314). -/
def acc37 (x : Nat) : Option (AccOp → Instr) :=
  match x with
  | 1 => some (.mcl)
  | 2 => some (.mclr)
  | 3 => some (.mrd)
  | _ => none


/-- Major 0x02 (R48, R77). -/
def decImm (shift : Bool) (mk : OpI → Instr) (f : Fields) : Dec Instr := do
  let t := tyOf f.ty
  chk 3 (f.la == 0 && t.isInt && f.flag == 0)
  chk 3 f.maskField
  let d ← need 4 (destOf f.dest f.cnt)
  let m := fin16 f.mask
  let a ← need 5 (srcOf f.a)
  let o : OpI := ⟨m, t, d, a, f.imm18⟩
  chk 5 (o.wf shift)
  pure (mk o)

/-- Major 0x03 (R78). -/
def decCmp (mk : CmpOp → Instr) (f : Fields) : Dec Instr := do
  let t := tyOf f.ty
  chk 3 (f.la == 0 && t.isInt && (f.flag == 0 || t.isSigned))
  let md ← need 4 (mdestOf f.dest f.cnt)
  let a ← need 5 (srcOf f.a)
  let b ← need 5 (srcOf f.b)
  let o : CmpOp := ⟨fin16 f.mask, t, f.flag == 1, md, a, b⟩
  chk 5 (o.wf && f.c == 0)
  pure (mk o)

/-- Major 0x04 (R78). -/
def decCmpI (mk : CmpIOp → Instr) (f : Fields) : Dec Instr := do
  let t := tyOf f.ty
  chk 3 (f.la == 0 && t.isInt && (f.flag == 0 || t.isSigned))
  let md ← need 4 (mdestOf f.dest f.cnt)
  let a ← need 5 (srcOf f.a)
  let o : CmpIOp := ⟨fin16 f.mask, t, f.flag == 1, md, a, f.imm18⟩
  chk 5 o.wf
  pure (mk o)

/-- Major 0x05 (R81, R82). -/
def dec05 (f : Fields) : Dec Instr := do
  let t := tyOf f.ty
  let m := fin16 f.mask
  match f.min.toNat with
  | 0 => decAlu Ty.isMov id id (.one .mov) f
  | 1 =>
    chk 3 (f.la == 0 && (t.isMov && t.isInt) && f.flag == 0)
    chk 3 f.maskField
    let d ← need 4 (destOf f.dest f.cnt)
    pure (.movi ⟨m, t, d, f.off27⟩)
  | 2 | 3 =>
    chk 3 (f.la == 0 && f.mask == 0 && f.ty == 0 && f.flag == 0)
    let x ← need 4 (nameOf f.dest)
    chk 4 (f.cnt != 0)
    chk 5 (f.a == 0 && f.b == 0 && f.c == 0)
    pure (if f.min.toNat == 2 then .drop x f.cnt else .hold x f.cnt)
  | 4 =>
    chk 3 (f.la == 0)
    if f.flag == 0 then
      chk 3 (f.ty == 0)
      let md ← need 4 (mdestOf f.dest f.cnt)
      let ms ← need 5 (maskOf f.a)
      chk 5 (f.b == 0 && f.c == 0)
      pure (.mmov m md (.mask ms))
    else
      chk 3 t.isInt
      let md ← need 4 (mdestOf f.dest f.cnt)
      let a ← need 5 (srcOf f.a)
      chk 5 (a.okVec t && f.b == 0 && f.c == 0)
      pure (.mmov m md (.value t a))
  | 5 =>
    chk 3 (f.la == 0 && t.isMov && f.flag == 0)
    let d ← need 4 (destOf f.dest f.cnt)
    chk 4 d.okVec
    let a ← need 5 (srcOf f.a)
    let b ← need 5 (srcOf f.b)
    chk 5 (a.okVec t && b.okVec t)
    let mc ← need 5 (maskOf f.c)
    pure (.msel ⟨m, t, d, a, b, mc⟩)
  | _ => .error 2

/-- Major 0x06 (R84). -/
def decLea (mk : Op3 → Instr) (f : Fields) : Dec Instr := do
  let t := tyOf f.ty
  chk 3 (f.la == 0 && notE2m1 t && f.flag == 0)
  chk 3 f.maskField
  let d ← need 4 (destOf f.dest f.cnt)
  let m := fin16 f.mask
  let a ← need 5 (srcOf f.a)
  let b ← need 5 (srcOf f.b)
  let c ← need 5 (srcOf f.c)
  let o : Op3 := ⟨m, t, d, a, b, c⟩
  chk 5 o.leaWf
  pure (mk o)

/-- Major 0x07 (R85). -/
def dec07 (f : Fields) (p : Word) : Dec Instr := do
  let t := tyOf f.ty
  chk 3 (f.la == 0 && t.isMov && f.flag == 0)
  chk 3 f.maskField
  let d ← need 4 (destOf f.dest f.cnt)
  let m := fin16 f.mask
  chk 6 (f.off27 == 0)
  chk 6 (t.wide || p.toNat < 2 ^ 32)
  pure (.movl ⟨m, t, d, p⟩)

/-- A scalar name in the destination field with count 0, read as a source (R51, R86). -/
def sclDest (d : BitVec 8) (c : BitVec 4) : Option (Fin 64) :=
  if c = 0 then (match nameOf d with | some (.scl n) => some n | _ => none) else none

/-- A destination that is a scalar name or the sink. -/
def destScl (d : BitVec 8) (c : BitVec 4) : Option Dest :=
  match destOf d c with
  | some (.vec _ _) => none
  | x => x

/-- Major 0x08 (R86). -/
def dec08 (f : Fields) : Dec Instr := do
  let z := f.dest == 0 && f.cnt == 0
  chk 2 (f.min.toNat < 8)
  chk 3 (f.la == 0 && f.mask == 0)
  chk 3 (f.min.toNat == 1 || (f.ty == 0 && f.flag == 0))
  match f.min.toNat with
  | 0 => chk 4 z; pure (.br f.off27)
  | 1 => chk 4 z; pure (.brd (fin16 f.ty) (f.flag == 1) f.off27)
  | 2 => let x ← need 4 (sclDest f.dest f.cnt); pure (.brnz x f.off27)
  | 3 => let x ← need 4 (sclDest f.dest f.cnt); pure (.brz x f.off27)
  | 4 => let d ← need 4 (destScl f.dest f.cnt); pure (.call d f.off27)
  | 5 =>
    let d ← need 4 (destScl f.dest f.cnt)
    chk 5 (f.a == 0 && f.b == 0)
    match srcOf f.c with
    | some (.scl n) => pure (.callx d n)
    | _ => .error 5
  | 6 => let x ← need 4 (sclDest f.dest f.cnt); chk 5 (f.off27 == 0); pure (.ret x)
  | 7 => chk 4 z; chk 5 (f.off27 == 0); pure .exit
  | _ => .error 2

/-- Major 0x09 (R91): cond bits 3:2 hold D. -/
def dec09 (f : Fields) : Dec Instr := do
  chk 2 (f.min == 0)
  chk 3 (f.la == 0 && f.mask == 0 && f.ty.extractLsb' 0 2 == 0)
  let e := (f.ty.extractLsb' 2 2).toNat
  if h : e < 3 then
    chk 4 (f.dest.extractLsb' 3 5 == 0 && f.cnt == 0)
    pure (.brw (f.dest.extractLsb' 0 3).toFin ⟨e, h⟩ (f.flag == 1) f.off27)
  else .error 3

/-- Major 0x0A (R92, R93). -/
def dec0A (f : Fields) (w p : Word) : Dec Instr := do
  chk 2 (f.min.toNat < 3)
  chk 3 (f.la == 0 && f.mask == 0)
  let wk : Fin 8 := (bitsAt w 41 3).toFin
  match f.min.toNat with
  | 0 =>
    let base ← need 6 (scOf (bitsAt w 32 9))
    pure (.wset ⟨wk, base, bitsAt w 20 12, bitsAt w 0 20, bitsAt p 52 12, bitsAt p 32 20, bitsAt p 20 12, bitsAt p 0 20⟩)
  | 1 =>
    let d ← need 4 (destScl f.dest f.cnt)
    chk 6 (f.off27 == 0 && p == 0)
    pure (.wrd d wk (bitsAt w 39 2))
  | _ =>
    chk 6 (bitsAt w 0 41 == 0 && p == 0)
    pure (.wend wk)

/-- Major 0x11 (R155). -/
def dec11 (f : Fields) : Dec Instr := do
  let t := tyOf f.ty
  let m := fin16 f.mask
  if f.min == 0 then
    chk 3 (t.isFp && f.flag == 0)
    chk 3 f.maskField
    let d ← need 4 (destOf f.dest f.cnt)
    let a ← need 5 (srcOf f.a)
    let b ← need 5 (srcOf f.b)
    chk 5 (srcOk d t a && srcOk d t b && f.c == 0)
    pure (.fdiv ⟨fin16 f.la, m, t, d, a, b⟩)
  else
    let (tyOk, mk) ← need 2 (fn11 f.min.toNat)
    chk 3 (tyOk t && f.flag == 0)
    chk 3 f.maskField
    let d ← need 4 (destOf f.dest f.cnt)
    let a ← need 5 (srcOf f.a)
    chk 5 (srcOk d t a && f.b == 0 && f.c == 0)
    pure (mk ⟨fin16 f.la, m, t, d, a⟩)

/-- Result types of `cvtpk` (R160). -/
def Ty.isPk (t : Ty) : Bool := t == .f16 || t == .bf16 || t == .e4m3 || t == .e5m2 || t == .e2m1

/-- Major 0x12: the control field of srcC (R157). -/
def dec12 (f : Fields) : Dec Instr := do
  chk 2 (f.min.toNat < 3)
  let t := tyOf f.ty
  let m := fin16 f.mask
  let st := tyOf (f.c.extractLsb' 0 4)
  let mode := modeOf (f.c.extractLsb' 4 2)
  let sat := f.c.extractLsb' 6 1 == 1
  chk 3 (f.la == 0 && f.flag == 0)
  chk 3 ((f.min.toNat != 1 || t.isSc) && (f.min.toNat != 2 || t.isPk))
  chk 3 f.maskField
  let d ← need 4 (destOf f.dest f.cnt)
  let a ← need 5 (srcOf f.a)
  chk 5 (srcOk d st a && f.c.extractLsb' 7 2 == 3)
  match f.min.toNat with
  | 0 => chk 5 (f.b == 0); pure (.cvt ⟨m, t, st, mode, sat, d, a⟩)
  | 1 =>
    let b ← need 5 (srcOf f.b)
    let o : Cvt2Op := ⟨m, t, st, mode, sat, d, a, b⟩
    chk 5 o.scWf
    pure (.cvtsc o)
  | _ =>
    let b ← need 5 (srcOf f.b)
    let o : Cvt2Op := ⟨m, t, st, mode, sat, d, a, b⟩
    chk 5 o.pkWf
    pure (.cvtpk o)

/-- The element field of `fclass` and `fisnan` (R162). -/
def elemOf (f : BitVec 9) : Option (Option (BitVec 3)) :=
  if f = 0 then some none
  else match idxOf f with
    | some k => if k.toNat < 8 then some (some (k.setWidth 3)) else none
    | none => none

def elemBits : Option (BitVec 3) → BitVec 9
  | none => 0
  | some k => BitVec.ofNat 9 (384 + k.toNat)

/-- Major 0x13 (R161, R162). -/
def dec13 (f : Fields) : Dec Instr := do
  chk 2 (f.min.toNat < 3)
  let t := tyOf f.ty
  let m := fin16 f.mask
  chk 3 (f.la == 0 && f.flag == 0)
  match f.min.toNat with
  | 0 =>
    chk 3 t.isCmpF
    let md ← need 4 (mdestOf f.dest f.cnt)
    let a ← need 5 (srcOf f.a)
    let b ← need 5 (srcOf f.b)
    chk 5 (f.c.extractLsb' 6 3 == 6 && f.c.extractLsb' 3 1 == 0)
    let o : FcmpOp := ⟨m, t, md, a, b, f.c.extractLsb' 4 2, fcondOf (f.c.extractLsb' 0 3)⟩
    chk 5 o.wf
    pure (.fcmp o)
  | 1 =>
    chk 3 (!t.isInt)
    chk 3 f.maskField
    let d ← need 4 (destOf f.dest f.cnt)
    let a ← need 5 (srcOf f.a)
    let e ← need 5 (elemOf f.b)
    let o : FclassOp := ⟨m, t, d, a, e⟩
    chk 5 (o.wf && f.c == 0)
    pure (.fclass o)
  | _ =>
    chk 3 (!t.isInt)
    let md ← need 4 (mdestOf f.dest f.cnt)
    let a ← need 5 (srcOf f.a)
    let e ← need 5 (elemOf f.b)
    let o : FisnanOp := ⟨m, t, md, a, e⟩
    chk 5 (o.wf && f.c == 0)
    pure (.fisnan o)

/-- The type in which the addend of a dot product is read (R163). -/
def dotC (t : Ty) : Ty := if t.isInt then .i32 else .f32

/-- Major 0x14 (R163). -/
def dec14 (f : Fields) : Dec Instr :=
  match f.min.toNat with
  | 0 => decAlu (fun t => t == .f16 || t == .bf16) id dotC (.three .dot2) f
  | 1 => decAlu (fun t => t == .e4m3 || t == .e5m2 || t == .i8 || t == .n8) id dotC (.three .dot4) f
  | 2 => decAlu (fun t => t == .e2m1) id dotC (.three .dot8) f
  | _ => .error 2

/-- Major 0x15 (R164, R165). -/
def dec15 (f : Fields) (w p : Word) : Dec Instr := do
  chk 2 (f.min.toNat < 8)
  let t := tyOf f.ty
  let la := fin16 f.la
  let n := bitsAt w 27 12
  let sd := bitsAt p 48 16
  let sa := bitsAt p 32 16
  let sb := bitsAt p 16 16
  chk 3 (f.mask == 0 && f.flag == 0)
  match f.min.toNat with
  | 5 =>
    let st := tyOf (bitsAt p 0 4)
    chk 3 (!t.isInt)
    let d ← need 6 (afOf f.a)
    let a ← need 6 (afOf f.b)
    chk 6 (f.c == 0 && bitsAt p 7 25 == 0 && !st.isInt)
    pure (.sxCvt ⟨la, t, st, modeOf (bitsAt p 4 2), bitsAt p 6 1 == 1, n, d, a, sd, sa⟩)
  | 6 =>
    chk 3 t.isFn
    let d ← need 6 (afOf f.a)
    let a ← need 6 (afOf f.b)
    chk 6 (f.c == 0 && bitsAt p 0 32 == 0)
    pure (.sxExp2 ⟨la, t, n, d, a, sd, sa⟩)
  | 7 =>
    chk 3 t.isFp
    let d ← need 6 (afOf f.a)
    let a ← need 6 (afOf f.b)
    chk 6 (f.c == 0 && bitsAt p 0 32 == 0 && sd == 0)
    pure (.sxSum ⟨la, t, n, d, a, sa⟩)
  | x =>
    let mk ← need 2 (sx15 x)
    chk 3 t.isFp
    let d ← need 6 (afOf f.a)
    let a ← need 6 (afOf f.b)
    let b ← need 6 (afOf f.c)
    chk 6 (bitsAt p 0 16 == 0)
    pure (mk ⟨la, t, n, d, a, b, sd, sa, sb⟩)

/-- Major 0x20 (R168-R172). -/
def dec20 (f : Fields) : Dec Instr := do
  chk 2 (f.min.toNat < 12)
  let t := tyOf f.ty
  let m := fin16 f.mask
  chk 3 (f.la == 0)
  match f.min.toNat with
  | 4 =>
    chk 3 (f.flag == 0)
    chk 3 f.maskField
    let d ← need 4 (destOf f.dest f.cnt)
    let a ← need 5 (vecOf f.a)
    let b ← need 5 (srcOf f.b)
    let mo ← need 5 (maskOf f.c)
    let o : ShflOp := ⟨m, t, d, a, b, mo⟩
    chk 5 o.bcastWf
    pure (.bcast o)
  | 5 =>
    let d ← need 4 (destOf f.dest f.cnt)
    chk 4 d.okVec
    let a ← need 5 (vecOf f.a)
    chk 5 (f.b == 0)
    let ml ← need 5 (maskOf f.c)
    pure (.matchLanes ⟨m, t, f.flag == 1, d, a, ml⟩)
  | 6 =>
    chk 3 (f.mask == 0 && f.ty == 0)
    let d ← need 4 (destScl f.dest f.cnt)
    let ms ← need 5 (maskOf f.a)
    chk 5 (f.c == 0)
    if f.flag == 1 then
      chk 5 (f.b == 0)
      pure (.ballot d ms none)
    else
      let b ← need 5 (scOf f.b)
      pure (.ballot d ms (some b))
  | 7 | 8 =>
    chk 3 (f.mask == 0 && f.ty == 0 && f.flag == 0)
    let d ← need 4 (destScl f.dest f.cnt)
    let ms ← need 5 (maskOf f.a)
    chk 5 (f.b == 0 && f.c == 0)
    pure (if f.min.toNat == 7 then .any d ms else .all d ms)
  | 9 | 10 =>
    chk 3 (f.flag == 0 && scanTy t && (f.min.toNat == 9 || f.maskField))
    let d ← need 4 (destOf f.dest f.cnt)
    chk 4 (f.min.toNat == 10 || d.okVec)
    let a ← need 5 (vecOf f.a)
    chk 5 (f.b == 0 && f.c.extractLsb' 3 6 == 48)
    let op ← need 5 (combOf (f.c.extractLsb' 0 2).toNat)
    if f.min.toNat == 9 then
      pure (.scan ⟨m, t, d, a, op, f.c.extractLsb' 2 1 == 1⟩)
    else
      chk 5 (f.c.extractLsb' 2 1 == 0)
      pure (.reduce ⟨m, t, d, a, op⟩)
  | 11 =>
    chk 3 (f.flag == 0)
    let d ← need 4 (destOf f.dest f.cnt)
    chk 4 d.okVec
    let a ← need 5 (vecOf f.a)
    chk 5 (f.b == 0 && f.c == 0)
    pure (.mrank ⟨m, t, d, a⟩)
  | x =>
    let mk ← need 2 (shfl20 x)
    chk 3 (f.flag == 0)
    let d ← need 4 (destOf f.dest f.cnt)
    chk 4 d.okVec
    let a ← need 5 (vecOf f.a)
    let b ← need 5 (srcOf f.b)
    let mo ← need 5 (maskOf f.c)
    chk 5 (shflB b)
    pure (mk ⟨m, t, d, a, b, mo⟩)

/-- Major 0x21 (R173). -/
def dec21 (f : Fields) : Dec Instr := do
  chk 2 (f.min.toNat < 7)
  let m := fin16 f.mask
  chk 3 (f.la == 0 && f.ty == 0 && f.flag == 0)
  match f.min.toNat with
  | 3 =>
    let md ← need 4 (mdestOf f.dest f.cnt)
    let ma ← need 5 (maskOf f.a)
    chk 5 (f.b == 0 && f.c == 0)
    pure (.mnot m md ma)
  | 4 | 5 | 6 =>
    let mk ← need 2 (smask21 f.min.toNat)
    chk 3 (f.mask == 0)
    let d ← need 4 (destScl f.dest f.cnt)
    let ma ← need 5 (maskOf f.a)
    chk 5 (f.b == 0 && f.c == 0)
    pure (mk d ma)
  | x =>
    let mk ← need 2 (mask21 x)
    let md ← need 4 (mdestOf f.dest f.cnt)
    let ma ← need 5 (maskOf f.a)
    let mb ← need 5 (maskOf f.b)
    chk 5 (f.c == 0)
    pure (mk m md ma mb)

/-- An optional queue operand: absent 0x000, or a constant 0 to 15 (R174, R303). -/
def queueOf (f : BitVec 9) : Option (Fin 16) :=
  match idxOf f with
  | some k => if h : k.toNat < 16 then some ⟨k.toNat, h⟩ else none
  | none => none

def queueBits (q : Fin 16) : BitVec 9 := BitVec.ofNat 9 (384 + q.val)

/-- Major 0x22 (R174). -/
def dec22 (f : Fields) : Dec Instr := do
  chk 2 (f.min.toNat < 6)
  chk 3 (f.la == 0 && f.mask == 0 && f.ty == 0)
  chk 3 (f.min.toNat < 2 || f.flag == 0)
  let z := f.dest == 0 && f.cnt == 0
  match f.min.toNat with
  | 0 | 1 =>
    chk 4 z
    let a ← need 5 (scOf f.a)
    chk 5 (f.b == 0 && f.c == 0)
    pure (if f.min.toNat == 0 then .cattach (f.flag == 1) a else .cdetach (f.flag == 1) a)
  | 2 =>
    let d ← need 4 (destScl f.dest f.cnt)
    let a ← need 5 (scOf f.a)
    chk 5 (f.b == 0 && f.c == 0)
    pure (.cgrow d a)
  | 3 =>
    chk 4 z
    let a ← need 5 (scOf f.a)
    chk 5 (f.c == 0)
    if f.b == 0 then pure (.rolesw a none)
    else
      let q ← need 5 (queueOf f.b)
      pure (.rolesw a (some q))
  | _ =>
    chk 4 z
    let a ← need 5 (scOf f.a)
    chk 5 (f.b == 0 && f.c == 0)
    pure (if f.min.toNat == 4 then .cwidth a else .cprio a)

/-- Major 0x23 (R303). -/
def dec23 (f : Fields) : Dec Instr := do
  chk 2 (f.min.toNat < 4)
  chk 3 (f.la == 0 && f.ty == 0)
  chk 3 (f.min.toNat == 2 || f.mask == 0)
  chk 3 (f.min.toNat != 2 || f.flag == 0)
  let z := f.dest == 0 && f.cnt == 0
  match f.min.toNat with
  | 0 =>
    chk 4 z
    let q ← need 5 (queueOf f.a)
    let a ← need 5 (scOf f.b)
    chk 5 (f.c == 0)
    pure (.qsend (f.flag == 1) q a)
  | 2 =>
    chk 4 z
    let q ← need 5 (queueOf f.a)
    let e ← need 5 (srcOf f.b)
    let a ← need 5 (srcOf f.c)
    match e, a with
    | .scl e, .scl a => pure (.tspawn (fin16 f.mask) q e (.scl a))
    | .scl e, .vec a => pure (.tspawn (fin16 f.mask) q e (.vec a))
    | _, _ => .error 5
  | _ =>
    let d ← need 4 (destScl f.dest f.cnt)
    let q ← need 5 (queueOf f.a)
    chk 5 (f.b == 0 && f.c == 0)
    pure (if f.min.toNat == 1 then .qrecv (f.flag == 1) d q else .qstat (f.flag == 1) d q)

/-- A format M load (R49, R240); `short` for the typed buffers (R247). -/
def decLoad (tyOk : Ty → Bool) (short : Bool) (mk : LoadOp → Instr) (f : Fields) : Dec Instr := do
  let t := tyOf f.ty
  let m := fin16 f.mask
  chk 3 ((!short || f.la == 0) && tyOk t)
  chk 3 f.maskField
  let d ← need 4 (destOf f.dest f.cnt)
  let base ← need 5 (srcOf f.a)
  let index ← need 5 (srcOf f.b)
  let o : LoadOp := ⟨fin16 f.la, m, t, f.flag == 1, d, base, index, fin16 f.ctr, f.low5⟩
  chk 5 (o.wf tyOk)
  pure (mk o)

/-- A format M store or reduction: count 0, the data in destination-field form (R49, R51, R252). -/
def decStore (tyOk : Ty → Bool) (short : Bool) (mk : StoreOp → Instr) (f : Fields) : Dec Instr := do
  let t := tyOf f.ty
  let m := fin16 f.mask
  chk 3 ((!short || f.la == 0) && tyOk t)
  chk 3 f.maskField
  let x ← need 4 (nameOf f.dest)
  chk 4 (f.cnt == 0)
  let base ← need 5 (srcOf f.a)
  let index ← need 5 (srcOf f.b)
  let o : StoreOp := ⟨fin16 f.la, m, t, f.flag == 1, x, base, index, fin16 f.ctr, f.low5⟩
  chk 5 (o.wf tyOk)
  pure (mk o)

/-- Major 0x2C (R250). -/
def decAtom (f : Fields) : Dec Instr := do
  let (tyOk, mk) ← need 2 (atom2C f.min.toNat)
  let t := tyOf f.ty
  let m := fin16 f.mask
  chk 3 (tyOk t && f.flag == 0)
  chk 3 f.maskField
  let d ← need 4 (destOf f.dest f.cnt)
  let base ← need 5 (srcOf f.a)
  let b ← need 5 (srcOf f.b)
  let sc ← need 5 (scopeOf (f.c.extractLsb' 0 3).toNat)
  let o : AtomOp := ⟨fin16 f.la, m, t, d, base, b, fin16 f.ctr, semOf (f.c.extractLsb' 3 2).toNat, sc⟩
  chk 5 (if f.min == 7 then o.casWf else o.wf tyOk)
  pure (mk o)

/-- Major 0x2D (R252, R254). -/
def dec2D (f : Fields) : Dec Instr := do
  match f.min.toNat with
  | 0 => decStore atomTy false .redAdd f
  | 1 => decStore atomTy false .redMin f
  | 2 => decStore atomTy false .redMax f
  | 3 =>
    chk 3 (f.mask == 0 && f.ty == 0 && f.flag == 0)
    chk 4 (f.dest == 0 && f.cnt == 0)
    chk 5 (f.a == 0 && f.b == 0 && f.low5 == 0)
    pure (.rflush (fin16 f.la) (fin16 f.ctr))
  | _ => .error 2

/-- Major 0x2E (R255). -/
def dec2E (f : Fields) : Dec Instr := do
  chk 2 (f.min.toNat < 2)
  let t := tyOf f.ty
  if f.min == 0 then
    chk 3 (notE2m1 t)
    chk 4 (f.dest == 0 && f.cnt == 0)
    let base ← need 5 (srcOf f.a)
    let index ← need 5 (srcOf f.b)
    let o : PfOp := ⟨fin16 f.la, fin16 f.mask, t, f.flag == 1, base, index, f.low5⟩
    chk 5 (o.wf && f.ctr == 0)
    pure (.pfG o)
  else
    chk 3 (f.ty == 0)
    chk 4 (f.dest == 0 && f.cnt == 0)
    let base ← need 5 (srcOf f.a)
    chk 5 ((match base with | .scl _ | .walker _ => true | _ => false) && f.b == 0 && f.c == 0)
    pure (.pfCode (fin16 f.la) base)

/-- The control field of majors 0x30 and 0x31: 0b11 in bits 8:7 (R256, R261). -/
def ctlOf (f : BitVec 9) : Option (BitVec 7) :=
  if f.extractLsb' 7 2 = 3 then some (f.extractLsb' 0 7) else none

def ctlBits (x : Nat) : BitVec 9 := BitVec.ofNat 9 (384 + x)

/-- Major 0x30 (R256). Bits 6:4 of the control field must be zero for `seal` as for `wait`: R256 does not say so (log entry 135). -/
def dec30 (f : Fields) : Dec Instr := do
  chk 2 (f.min.toNat < 5)
  chk 3 (f.la == 0 && f.mask == 0 && f.ty == 0 && f.flag == 0)
  chk 4 (f.dest == 0 && f.cnt == 0)
  match f.min.toNat with
  | 0 =>
    let c ← need 5 (ctlOf f.a)
    chk 5 (c.extractLsb' 3 4 == 0)
    let sc ← need 5 (scopeOf (c.extractLsb' 0 3).toNat)
    chk 5 (f.b == 0 && f.c == 0)
    pure (.fence sc)
  | 1 =>
    let c ← need 5 (ctlOf f.a)
    chk 5 (c.extractLsb' 4 3 == 0)
    let t ← need 5 (scOf f.b)
    chk 5 (t.nonneg && f.c == 0)
    pure (.wait (c.extractLsb' 0 4).toFin t)
  | 3 =>
    let c ← need 5 (ctlOf f.a)
    chk 5 (c.extractLsb' 4 3 == 0 && f.b == 0 && f.c == 0)
    pure (.seal (c.extractLsb' 0 4).toFin)
  | x =>
    chk 5 (f.a == 0 && f.b == 0 && f.c == 0)
    pure (if x == 2 then .waitall else .ifence)

/-- The optional n of a barrier (R261). -/
def barNOf (f : BitVec 9) : Option (Option SC) :=
  if f = 0 then some none else match scOf f with | some x => some (some x) | none => none

def optScBits : Option SC → BitVec 9
  | none => 0
  | some x => scBits x

/-- Major 0x31 (R261). -/
def dec31 (f : Fields) : Dec Instr := do
  chk 2 (f.min.toNat < 4)
  chk 3 (f.la == 0 && f.mask == 0 && f.ty == 0 && f.flag == 0)
  let z := f.dest == 0 && f.cnt == 0
  chk 4 (f.min == 1 || z)
  let d ← need 4 (if f.min == 1 then destScl f.dest f.cnt else some .sink)
  let c ← need 5 (ctlOf f.a)
  chk 5 (c.extractLsb' 3 1 == 0)
  let l ← need 5 (levelOf (c.extractLsb' 0 3).toNat)
  let tag : Fin 8 := (c.extractLsb' 4 3).toFin
  let n ← need 5 (barNOf f.b)
  match f.min.toNat with
  | 3 =>
    chk 5 ((l == .core || l == .quad) && f.b == 0 && f.c == 0)
    pure (.bardrop l tag)
  | 1 =>
    chk 5 (barN l n)
    let ms ← need 5 (maskOf f.c)
    pure (.barv ⟨l, tag, ms, d, n⟩)
  | x =>
    chk 5 (barN l n && f.c == 0)
    pure (if x == 0 then .bar ⟨l, tag, n⟩ else .bararr ⟨l, tag, n⟩)

/-- Major 0x32 (R266). -/
def dec32 (f : Fields) : Dec Instr := do
  chk 2 (f.min.toNat < 4)
  chk 3 (f.la == 0 && f.mask == 0 && f.ty == 0)
  chk 3 (f.min == 1 || f.flag == 0)
  chk 4 (f.dest == 0 && f.cnt == 0)
  let a ← need 5 (scOf f.a)
  chk 5 (abAddr a)
  match f.min.toNat with
  | 0 =>
    let n ← need 5 (scOf f.b)
    let b ← need 5 (scOf f.c)
    chk 5 (n.nonneg && b.nonneg)
    pure (.abinit a n b)
  | 1 =>
    chk 5 (f.c == 0)
    if f.flag == 0 && f.b == 0 then pure (.abarrive (.arrive a none))
    else
      let b ← need 5 (scOf f.b)
      chk 5 b.nonneg
      pure (.abarrive (if f.flag == 0 then .arrive a (some b) else .expect a b))
  | x =>
    let b ← need 5 (scOf f.b)
    chk 5 (b.nonneg && f.c == 0)
    pure (if x == 2 then .abexpect a b else .abwait a b)

/-- An optional address field: 0x000 means none (R300). -/
def optAf (f : BitVec 9) : Option (Option AField) :=
  if f = 0 then some none else match afOf f with | some x => some (some x) | none => none

def optAfBits : Option AField → BitVec 9
  | none => 0
  | some x => afBits x

/-- The co and ch fields: a scalar name, or `none` for the absent word `z`, 0x180 or 0x000 (R309, R310). -/
def coOf (z : BitVec 9) (f : BitVec 9) : Option (Option (Fin 64)) :=
  if f = z then some none else match srcOf f with | some (.scl n) => some (some n) | _ => none

def coBits (z : BitVec 9) : Option (Fin 64) → BitVec 9
  | none => z
  | some n => BitVec.ofNat 9 (128 + n.val)

/-- Major 0x36 (R309, R310). -/
def dec36 (f : Fields) (w p : Word) : Dec Instr := do
  let (wf, mk) ← need 2 (copy36 f.min.toNat)
  let z : BitVec 9 := if f.min == 3 then 0 else 0x180
  let d ← need 6 (destScl (bitsAt w 22 8) (bitsAt w 18 4))
  let addr ← need 6 (optAf (bitsAt w 9 9))
  let abar ← need 6 (optAf (bitsAt w 0 9))
  let co ← need 6 (coOf z (bitsAt p 18 9))
  let ch ← need 6 (coOf z (bitsAt p 9 9))
  let side ← need 6 (optAf (bitsAt p 0 9))
  let o : CopyOp := ⟨fin16 f.la, fin16 f.mask, bitsAt w 36 8, bitsAt w 35 1, bitsAt w 34 1, fin16 (bitsAt w 30 4), d,
    addr, abar, bitsAt p 48 16, bitsAt p 42 6, bitsAt p 36 6, bitsAt p 32 4, co, ch, side⟩
  chk 6 (bitsAt p 27 5 == 0 && wf o)
  pure (mk o)

/-- A pair of vector names, or both fields 0x000 (R314). -/
def vecPair (used : Bool) (x y : BitVec 9) : Option (Option (Fin 128 × Fin 128)) :=
  if used then
    match vecOf x, vecOf y with
    | some a, some b => some (some (a, b))
    | _, _ => none
  else if x = 0 ∧ y = 0 then some none else none

def vecPairBits1 : Option (Fin 128 × Fin 128) → BitVec 9
  | none => 0
  | some x => BitVec.ofNat 9 x.1.val

def vecPairBits2 : Option (Fin 128 × Fin 128) → BitVec 9
  | none => 0
  | some x => BitVec.ofNat 9 x.2.val

/-- Major 0x37 (R314, R315). -/
def dec37 (f : Fields) (w p : Word) : Dec Instr := do
  let k := fin16 (bitsAt p 60 4)
  chk 2 (f.min.toNat < 4)
  if f.min == 0 then
    let aty := tyOf f.ty
    let bty := tyOf (bitsAt w 36 4)
    let bs := bitsAt w 27 1 == 1
    let aaddr ← need 6 (afOf f.a)
    let baddr ← need 6 (afOf f.b)
    let idx ← need 6 (optAf f.c)
    chk 6 (idx.isSome == (bitsAt w 34 1 == 1))
    chk 6 (bitsAt p 36 24 == 0)
    let scales ← need 6 (vecPair bs (bitsAt p 27 9) (bitsAt p 18 9))
    let specials ← need 6 (vecPair (bs && aty == .e2m1) (bitsAt p 9 9) (bitsAt p 0 9))
    let o : MmaOp := ⟨fin16 f.la, fin16 f.mask, aty, bty, bitsAt w 35 1, bitsAt w 31 3, bitsAt w 28 3, aaddr, baddr, idx,
      k, scales, specials⟩
    chk 6 o.wf
    pure (.mma o)
  else
    let mk ← need 2 (acc37 f.min.toNat)
    chk 6 (bitsAt w 36 8 == 0 && bitsAt w 0 35 == 0 && bitsAt p 0 60 == 0)
    pure (mk ⟨fin16 f.la, fin16 f.mask, bitsAt w 35 1, k⟩)

/-- Major 0x38 (R318, R319). -/
def dec38 (f : Fields) (w p : Word) : Dec Instr := do
  chk 2 (f.min.toNat < 2)
  if f.min == 0 then
    chk 6 (bitsAt w 0 44 == 0 && bitsAt p 0 60 == 0)
    pure (.epi (fin16 f.la) (fin16 f.mask) (fin16 (bitsAt p 60 4)))
  else
    let oty ← need 6 (match (bitsAt w 42 2).toNat with
      | 0 => some OTy.bf16 | 1 => some OTy.e4m3 | 2 => some OTy.e2m1 | _ => none)
    let act ← need 6 (match (bitsAt w 40 2).toNat with
      | 0 => if p = 0 then some Act.none else none
      | 1 => if p = 0 then some Act.relu else none
      | 2 => some (Act.clamp (bitsAt p 32 32) (bitsAt p 0 32))
      | _ => none)
    chk 6 (bitsAt w 36 4 == 0)
    let scale ← need 6 (afOf (bitsAt w 27 9))
    let bias ← need 6 (afOf (bitsAt w 18 9))
    let dest ← need 6 (afOf (bitsAt w 9 9))
    let side ← need 6 (optAf (bitsAt w 0 9))
    let o : EpicfgOp := ⟨fin16 f.la, fin16 f.mask, oty, act, scale, bias, dest, side⟩
    chk 6 o.wf
    pure (.epicfg o)

/-- Major 0x39 (R320). -/
def dec39 (f : Fields) (w p : Word) : Dec Instr := do
  chk 2 (f.min.toNat < 2)
  let k := fin16 (bitsAt w 32 4)
  let g ← need 6 (scOf (bitsAt p 55 9))
  chk 6 (g.nonneg && bitsAt p 0 55 == 0)
  if f.min == 0 then
    let op := (bitsAt w 40 2).toNat
    let kind ← need 6 (match (bitsAt w 42 2).toNat with
      | 0 => (combOf op).map CollKind.allred
      | 1 => if op = 0 then some CollKind.allgat else none
      | 2 => (combOf op).map CollKind.redsc
      | _ => none)
    chk 6 (bitsAt w 27 5 == 0)
    let dst ← need 6 (sclOf f.a)
    let src ← need 6 (sclOf f.b)
    let count ← need 6 (scOf f.c)
    let o : CollOp := ⟨fin16 f.la, fin16 f.mask, kind, tyOf (bitsAt w 36 4), k, dst, src, count, g⟩
    chk 6 o.wf
    pure (.coll o)
  else
    chk 6 (bitsAt w 36 8 == 0 && bitsAt w 0 32 == 0)
    pure (.collwait (fin16 f.la) (fin16 f.mask) k g)
where
  /-- A scalar name in a source field. -/
  sclOf (f : BitVec 9) : Option (Fin 64) :=
    match srcOf f with
    | some (.scl n) => some n
    | _ => none

/-- Major 0x3C (R94). -/
def dec3C (f : Fields) : Dec Instr := do
  chk 2 (f.min.toNat < 10)
  chk 3 (f.la == 0 && f.ty == 0)
  chk 3 (f.min == 3 || f.mask == 0)
  chk 3 (f.min == 1 || f.flag == 0)
  let z := f.dest == 0 && f.cnt == 0
  chk 4 (f.min == 3 || f.min == 5 || f.min == 9 || z)
  let zs := f.a == 0 && f.b == 0 && f.c == 0
  let zb := f.b == 0 && f.c == 0
  match f.min.toNat with
  | 0 => let n ← need 5 (idxOf f.a); chk 5 zb; pure (.trap n)
  | 1 => chk 5 zs; pure (.tret (f.flag == 1))
  | 2 => let n ← need 5 (idxOf f.a); chk 5 zb; pure (.brk n)
  | 3 =>
    chk 3 f.maskField
    let d ← need 4 (destOf f.dest f.cnt)
    let n ← need 5 (idxOf f.a)
    let r ← need 5 (sysRegOf n.toNat)
    chk 5 zb
    pure (.rdsr (fin16 f.mask) d r)
  | 4 =>
    let n ← need 5 (idxOf f.a)
    let r ← need 5 (sysRegOf n.toNat)
    let a ← need 5 (scOf f.b)
    chk 5 (r == .fdone && f.c == 0)
    pure (.wrsr r a)
  | 5 =>
    let d ← need 4 (destScl f.dest f.cnt)
    let n ← need 5 (idxOf f.a)
    chk 5 zb
    pure (.feat d n)
  | 6 => chk 5 zs; pure .nop
  | 7 => let a ← need 5 (scOf f.a); chk 5 zb; pure (.sleep a)
  | 8 =>
    let q ← need 5 (queueOf f.a)
    chk 5 zb
    pure (.prog q)
  | _ =>
    let d ← need 4 (destScl f.dest f.cnt)
    chk 5 zs
    pure (.tstamp d)

/-- Majors of format L, whose instructions take two words (R49, R55). -/
def isLong (maj : Nat) : Bool :=
  maj == 0x07 || maj == 0x0A || maj == 0x15 || (0x36 ≤ maj && maj ≤ 0x39)

/-- The decoder: the first word, and the second where one lies in the block. An answer `.error n` names the step of R59
whose check fails; n = 0 is a second word past the block's end (R31), looked for right after the minor (log entry 100). The type, flag
and destination that stand in a format L body where formats A and B have them fail at steps 3 and 4, those that stand elsewhere in
it at step 6 (log entry 76). -/
def decode (w : Word) (p : Option Word) : Dec Instr :=
  let f := fieldsOf w
  let long (g : Word → Dec Instr) : Dec Instr := match p with | some x => g x | none => .error 0
  match f.maj.toNat with
  | 0x01 => need 2 (alu01 f.min.toNat) >>= fun x => decAlu Ty.isInt id id x f
  | 0x02 => need 2 (imm02 f.min.toNat) >>= fun x => decImm x.1 x.2 f
  | 0x03 => need 2 (cmp03 f.min.toNat) >>= fun x => decCmp x f
  | 0x04 => need 2 (cmp04 f.min.toNat) >>= fun x => decCmpI x f
  | 0x05 => dec05 f
  | 0x06 => (match f.min.toNat with | 0 => decLea .lea f | 1 => decLea .leax f | _ => .error 2)
  | 0x07 => chk 2 (f.min == 0) >>= fun _ => long (dec07 f)
  | 0x08 => dec08 f
  | 0x09 => dec09 f
  | 0x0A => chk 2 (f.min.toNat < 3) >>= fun _ => long (dec0A f w)
  | 0x10 => need 2 (alu10 f.min.toNat) >>= fun x => decAlu Ty.isFp id id x f
  | 0x11 => dec11 f
  | 0x12 => dec12 f
  | 0x13 => dec13 f
  | 0x14 => dec14 f
  | 0x15 => chk 2 (f.min.toNat < 8) >>= fun _ => long (dec15 f w)
  | 0x20 => dec20 f
  | 0x21 => dec21 f
  | 0x22 => dec22 f
  | 0x23 => dec23 f
  | 0x28 => need 2 (ld28 f.min.toNat) >>= fun x => decLoad notE2m1 false x f
  | 0x29 => need 2 (st29 f.min.toNat) >>= fun x => decStore notE2m1 false x f
  | 0x2A =>
    (match f.min.toNat with
     | 0 => decLoad notE2m1 true .ldA f
     | 1 => decStore notE2m1 true .stA f
     | 2 => decLoad notE2m1 true .ldxA f
     | 3 => decStore notE2m1 true .stxA f
     | _ => .error 2)
  | 0x2B =>
    (match f.min.toNat with
     | 0 => decLoad notE2m1 true .ldW f
     | 1 => decLoad crTy true .crpop f
     | 2 => decLoad crTy true .crpeek f
     | _ => .error 2)
  | 0x2C => decAtom f
  | 0x2D => dec2D f
  | 0x2E => dec2E f
  | 0x30 => dec30 f
  | 0x31 => dec31 f
  | 0x32 => dec32 f
  | 0x36 => chk 2 (f.min.toNat < 4) >>= fun _ => long (dec36 f w)
  | 0x37 => chk 2 (f.min.toNat < 4) >>= fun _ => long (dec37 f w)
  | 0x38 => chk 2 (f.min.toNat < 2) >>= fun _ => long (dec38 f w)
  | 0x39 => chk 2 (f.min.toNat < 2) >>= fun _ => long (dec39 f w)
  | 0x3C => dec3C f
  | _ => .error 1

/-- The word of 8 bytes, little-endian (R3, R45). -/
def wordOfBytes : List Byte → Word
  | [] => 0
  | b :: bs => (wordOfBytes bs <<< 8) ||| b.setWidth 64

/-- The bytes of a word, the lowest address first (R3, R45). -/
def bytesOfWord (w : Word) : List Byte := (List.range 8).map (fun i => w.extractLsb' (8 * i) 8)

/-- The instruction at the head of a list of bytes, and the bytes after it: total on any bytes. -/
def decodeBytes (bs : List Byte) : Dec (Instr × List Byte) :=
  if bs.length < 8 then .error 0
  else
    let w := wordOfBytes (bs.take 8)
    let rest := bs.drop 8
    if isLong (fieldsOf w).maj.toNat then
      let p := if rest.length < 8 then none else some (wordOfBytes (rest.take 8))
      (decode w p).map (fun i => (i, rest.drop 8))
    else (decode w none).map (fun i => (i, rest))

/-- The instruction whose bits, numbered from the first word's least significant bit, are `w`: the words laid out as the
hardware stores them and given to the decoder, with zeros for every bit above `nbits`. -/
def decodeTableWord (nbits w : Nat) : Option Instr :=
  let v : BitVec 128 := BitVec.ofNat 128 (w % 2 ^ nbits)
  match decodeBytes (bytesOfWord (v.extractLsb' 0 64) ++ bytesOfWord (v.extractLsb' 64 64)) with
  | .ok x => some x.1
  | .error _ => none

/-- The word of a format A instruction. -/
def wA (maj min : Nat) (la : Fin 16) (mask : Fin 16) (ty : Nat) (flag : Bool) (dest : BitVec 8) (cnt : BitVec 4)
    (a b c : BitVec 9) : Word :=
  wordOf ⟨BitVec.ofNat 6 maj, BitVec.ofNat 6 min, bv4 la, bv4 mask, BitVec.ofNat 4 ty, BitVec.ofBool flag, dest, cnt, a, b, c⟩

/-- Format I: 18 bits below srcA (R48). -/
def wI (maj min : Nat) (mask : Fin 16) (ty : Nat) (flag : Bool) (dest : BitVec 8) (cnt : BitVec 4) (a : BitVec 9)
    (imm : BitVec 18) : Word :=
  wA maj min 0 mask ty flag dest cnt a (imm.extractLsb' 9 9) (imm.extractLsb' 0 9)

/-- Format B, and `movi`: 27 bits (R49, R81). -/
def wB (maj min : Nat) (mask : Fin 16) (cond : Nat) (flag : Bool) (dest : BitVec 8) (cnt : BitVec 4) (off : BitVec 27) : Word :=
  wA maj min 0 mask cond flag dest cnt (off.extractLsb' 18 9) (off.extractLsb' 9 9) (off.extractLsb' 0 9)

/-- Format M (R49): the counter above the five low bits. -/
def wM (maj min : Nat) (la mask : Fin 16) (ty : Ty) (flag : Bool) (dest : BitVec 8) (cnt : BitVec 4) (base index : BitVec 9)
    (k : Fin 16) (low : BitVec 5) : Word :=
  wA maj min la mask ty.code flag dest cnt base index (bv4 k ++ low)

/-- The first word of format L: the common fields above 44 body bits (R49). -/
def wL (maj min : Nat) (la mask : Fin 16) (body : BitVec 44) : Word :=
  BitVec.ofNat 6 maj ++ BitVec.ofNat 6 min ++ bv4 la ++ bv4 mask ++ body

def enc1 (maj min : Nat) (o : Op1) : List Word :=
  [wA maj min 0 o.mask o.ty.code false (destBits o.d) (cntBits o.d) (srcBits o.a) 0 0]
def enc2 (maj min : Nat) (o : Op2) : List Word :=
  [wA maj min 0 o.mask o.ty.code false (destBits o.d) (cntBits o.d) (srcBits o.a) (srcBits o.b) 0]
def enc3 (maj min : Nat) (o : Op3) : List Word :=
  [wA maj min 0 o.mask o.ty.code false (destBits o.d) (cntBits o.d) (srcBits o.a) (srcBits o.b) (srcBits o.c)]
def encI (min : Nat) (o : OpI) : List Word :=
  [wI 0x02 min o.mask o.ty.code false (destBits o.d) (cntBits o.d) (srcBits o.a) o.imm]
def encCmp (min : Nat) (o : CmpOp) : List Word :=
  [wA 0x03 min 0 o.mask o.ty.code o.uns (mdestBits o.md) 1 (srcBits o.a) (srcBits o.b) 0]
def encCmpI (min : Nat) (o : CmpIOp) : List Word :=
  [wI 0x04 min o.mask o.ty.code o.uns (mdestBits o.md) 1 (srcBits o.a) o.imm]
def encFn1 (min : Nat) (o : Fn1) : List Word :=
  [wA 0x11 min o.la o.mask o.ty.code false (destBits o.d) (cntBits o.d) (srcBits o.a) 0 0]

/-- The control field of a conversion (R157). -/
def cvtCtl (sat : Bool) (mode : RMode) (sty : Ty) : BitVec 9 :=
  ctlBits ((if sat then 64 else 0) + 16 * mode.code + sty.code)

def encCvt2 (min : Nat) (o : Cvt2Op) : List Word :=
  [wA 0x12 min 0 o.mask o.dty.code false (destBits o.d) (cntBits o.d) (srcBits o.a) (srcBits o.b) (cvtCtl o.sat o.mode o.sty)]

/-- The words of a streaming operation (R164). -/
def encSxWords (min : Nat) (la : Fin 16) (ty : Ty) (n : BitVec 12) (d a b : BitVec 9) (sd sa sb : BitVec 16)
    (ctl : BitVec 7) : List Word :=
  [wL 0x15 min la 0 (BitVec.ofNat 4 ty.code ++ (0 : BitVec 1) ++ n ++ d ++ a ++ b),
   sd ++ sa ++ sb ++ (0 : BitVec 9) ++ ctl]

def encSx (min : Nat) (o : SxOp) : List Word :=
  encSxWords min o.la o.ty o.n (afBits o.d) (afBits o.a) (afBits o.b) o.sd o.sa o.sb 0

def encShfl (min : Nat) (o : ShflOp) : List Word :=
  [wA 0x20 min 0 o.mask o.ty.code false (destBits o.d) (cntBits o.d) (BitVec.ofNat 9 o.a.val) (srcBits o.b) (maskBits o.mo)]
def encMask (min : Nat) (mask md ma : Fin 16) (mb : BitVec 9) : List Word :=
  [wA 0x21 min 0 mask 0 false (mdestBits md) 1 (maskBits ma) mb 0]
def encSMask (min : Nat) (d : Dest) (ma : Fin 16) : List Word :=
  [wA 0x21 min 0 0 0 false (destBits d) (cntBits d) (maskBits ma) 0 0]
def encLoad (maj min : Nat) (o : LoadOp) : List Word :=
  [wM maj min o.la o.mask o.ty o.scaled (destBits o.d) (cntBits o.d) (srcBits o.base) (srcBits o.index) o.k o.disp]
def encStore (maj min : Nat) (o : StoreOp) : List Word :=
  [wM maj min o.la o.mask o.ty o.scaled (nameBits o.data) 0 (srcBits o.base) (srcBits o.index) o.k o.disp]
def encAtom (min : Nat) (o : AtomOp) : List Word :=
  [wM 0x2C min o.la o.mask o.ty false (destBits o.d) (cntBits o.d) (srcBits o.base) (srcBits o.b) o.k
    (BitVec.ofNat 5 (8 * o.sem.code + o.scope.code))]
def encBar (min : Nat) (o : BarOp) : List Word :=
  [wA 0x31 min 0 0 0 false 0 0 (ctlBits (16 * o.tag.val + o.level.code)) (optScBits o.n) 0]
def encAb (min : Nat) (flag : Bool) (a : SC) (b c : BitVec 9) : List Word :=
  [wA 0x32 min 0 0 0 flag 0 0 (scBits a) b c]
def encCopy (min : Nat) (o : CopyOp) : List Word :=
  let z : BitVec 9 := if min = 3 then 0 else 0x180
  [wL 0x36 min o.la o.mask (o.rows ++ o.chan ++ o.buf ++ bv4 o.k ++ destBits o.d ++ cntBits o.d ++ optAfBits o.addr ++
     optAfBits o.abar),
   o.handle ++ o.slice ++ o.slices ++ o.recv ++ (0 : BitVec 5) ++ coBits z o.co ++ coBits z o.ch ++ optAfBits o.side]
def encAcc (min : Nat) (o : AccOp) : List Word :=
  [wL 0x37 min o.la o.mask ((0 : BitVec 8) ++ o.acc ++ (0 : BitVec 35)), bv4 o.k ++ (0 : BitVec 60)]
def encSys (min : Nat) (flag : Bool) (mask : Fin 16) (d : Dest) (a b : BitVec 9) : List Word :=
  [wA 0x3C min 0 mask 0 flag (destBits d) (cntBits d) a b 0]

def OTy.code : OTy → Nat | .bf16 => 0 | .e4m3 => 1 | .e2m1 => 2
def Act.code : Act → Nat | .none => 0 | .relu => 1 | .clamp _ _ => 2
def Act.payload : Act → Word | .clamp lo hi => lo ++ hi | _ => 0

/-- Kind and op codes of a collective (R320). -/
def CollKind.codes : CollKind → Nat × Nat
  | .allred op => (0, op.code)
  | .allgat => (1, 0)
  | .redsc op => (2, op.code)

/-- The words of an instruction; an event has none. -/
def encode : Instr → List Word

  | .add o => enc2 0x01 0 o
  | .sub o => enc2 0x01 1 o
  | .mul o => enc2 0x01 2 o
  | .mulhi o => enc2 0x01 3 o
  | .mad o => enc3 0x01 4 o
  | .imin o => enc2 0x01 5 o
  | .imax o => enc2 0x01 6 o
  | .iabs o => enc1 0x01 7 o
  | .ineg o => enc1 0x01 8 o
  | .iand o => enc2 0x01 9 o
  | .ior o => enc2 0x01 10 o
  | .ixor o => enc2 0x01 11 o
  | .iandn o => enc2 0x01 12 o
  | .inot o => enc1 0x01 13 o
  | .shl o => enc2 0x01 14 o
  | .shr o => enc2 0x01 15 o
  | .sar o => enc2 0x01 16 o
  | .rotl o => enc2 0x01 17 o
  | .popc o => enc1 0x01 18 o
  | .clz o => enc1 0x01 19 o
  | .ctz o => enc1 0x01 20 o
  | .brev o => enc1 0x01 21 o
  | .bfx o => enc2 0x01 22 o
  | .bfi o => enc3 0x01 23 o
  | .sel o => enc3 0x01 24 o
  | .divq o => enc2 0x01 25 o
  | .remq o => enc2 0x01 26 o
  | .addsat o => enc2 0x01 27 o
  | .subsat o => enc2 0x01 28 o
  | .addi o => encI 0 o
  | .muli o => encI 1 o
  | .andi o => encI 2 o
  | .ori o => encI 3 o
  | .xori o => encI 4 o
  | .shli o => encI 5 o
  | .shri o => encI 6 o
  | .sari o => encI 7 o
  | .mini o => encI 8 o
  | .maxi o => encI 9 o
  | .cmpEq o => encCmp 0 o
  | .cmpNe o => encCmp 1 o
  | .cmpLt o => encCmp 2 o
  | .cmpLe o => encCmp 3 o
  | .cmpGt o => encCmp 4 o
  | .cmpGe o => encCmp 5 o
  | .cmpiEq o => encCmpI 0 o
  | .cmpiNe o => encCmpI 1 o
  | .cmpiLt o => encCmpI 2 o
  | .cmpiLe o => encCmpI 3 o
  | .cmpiGt o => encCmpI 4 o
  | .cmpiGe o => encCmpI 5 o
  | .mov o => enc1 0x05 0 o
  | .movi o => [wB 0x05 1 o.mask o.ty.code false (destBits o.d) (cntBits o.d) o.imm]
  | .drop x c => [wA 0x05 2 0 0 0 false (nameBits x) c 0 0 0]
  | .hold x c => [wA 0x05 3 0 0 0 false (nameBits x) c 0 0 0]
  | .mmov m md (.mask ms) => [wA 0x05 4 0 m 0 false (mdestBits md) 1 (maskBits ms) 0 0]
  | .mmov m md (.value t a) => [wA 0x05 4 0 m t.code true (mdestBits md) 1 (srcBits a) 0 0]
  | .msel o => [wA 0x05 5 0 o.mask o.ty.code false (destBits o.d) (cntBits o.d) (srcBits o.a) (srcBits o.b) (maskBits o.mc)]
  | .lea o => enc3 0x06 0 o
  | .leax o => enc3 0x06 1 o
  | .movl o => [wL 0x07 0 0 o.mask (BitVec.ofNat 4 o.ty.code ++ (0 : BitVec 1) ++ destBits o.d ++ cntBits o.d ++ (0 : BitVec 27)), o.imm]
  | .br off => [wB 0x08 0 0 0 false 0 0 off]
  | .brd mc neg off => [wB 0x08 1 0 mc.val neg 0 0 off]
  | .brnz x off => [wB 0x08 2 0 0 false (nameBits (.scl x)) 0 off]
  | .brz x off => [wB 0x08 3 0 0 false (nameBits (.scl x)) 0 off]
  | .call d off => [wB 0x08 4 0 0 false (destBits d) (cntBits d) off]
  | .callx d t => [wA 0x08 5 0 0 0 false (destBits d) (cntBits d) 0 0 (srcBits (.scl t))]
  | .ret x => [wB 0x08 6 0 0 false (nameBits (.scl x)) 0 0]
  | .exit => [wB 0x08 7 0 0 false 0 0 0]
  | .brw w e s off => [wB 0x09 0 0 (4 * e.val) s (BitVec.ofNat 8 w.val) 0 off]
  | .wset o => [wL 0x0A 0 0 0 (BitVec.ofNat 3 o.w.val ++ scBits o.base ++ o.c2 ++ o.t2), o.c1 ++ o.t1 ++ o.c0 ++ o.t0]
  | .wrd d w sel => [wL 0x0A 1 0 0 (BitVec.ofNat 3 w.val ++ sel ++ destBits d ++ cntBits d ++ (0 : BitVec 27)), 0]
  | .wend w => [wL 0x0A 2 0 0 (BitVec.ofNat 3 w.val ++ (0 : BitVec 41)), 0]
  | .fadd o => enc2 0x10 0 o
  | .fsub o => enc2 0x10 1 o
  | .fmul o => enc2 0x10 2 o
  | .fma o => enc3 0x10 3 o
  | .fmin o => enc2 0x10 4 o
  | .fmax o => enc2 0x10 5 o
  | .fabs o => enc1 0x10 6 o
  | .fneg o => enc1 0x10 7 o
  | .fcopysign o => enc2 0x10 8 o
  | .fclamp o => enc3 0x10 9 o
  | .fmax3 o => enc3 0x10 10 o
  | .fmin3 o => enc3 0x10 11 o
  | .fdiv o => [wA 0x11 0 o.la o.mask o.ty.code false (destBits o.d) (cntBits o.d) (srcBits o.a) (srcBits o.b) 0]
  | .frcp o => encFn1 1 o
  | .frsq o => encFn1 2 o
  | .fsqrt o => encFn1 3 o
  | .fexp2 o => encFn1 4 o
  | .flog2 o => encFn1 5 o
  | .fsin o => encFn1 6 o
  | .fcos o => encFn1 7 o
  | .ftanh o => encFn1 8 o
  | .cvt o => [wA 0x12 0 0 o.mask o.dty.code false (destBits o.d) (cntBits o.d) (srcBits o.a) 0 (cvtCtl o.sat o.mode o.sty)]
  | .cvtsc o => encCvt2 1 o
  | .cvtpk o => encCvt2 2 o
  | .fcmp o => [wA 0x13 0 0 o.mask o.ty.code false (mdestBits o.md) 1 (srcBits o.a) (srcBits o.b) (ctlBits (16 * o.e.toNat + o.cc.code))]
  | .fclass o => [wA 0x13 1 0 o.mask o.ty.code false (destBits o.d) (cntBits o.d) (srcBits o.a) (elemBits o.e) 0]
  | .fisnan o => [wA 0x13 2 0 o.mask o.ty.code false (mdestBits o.md) 1 (srcBits o.a) (elemBits o.e) 0]
  | .dot2 o => enc3 0x14 0 o
  | .dot4 o => enc3 0x14 1 o
  | .dot8 o => enc3 0x14 2 o
  | .sxAdd o => encSx 0 o
  | .sxMul o => encSx 1 o
  | .sxFma o => encSx 2 o
  | .sxMax o => encSx 3 o
  | .sxMin o => encSx 4 o
  | .sxCvt o => encSxWords 5 o.la o.dty o.n (afBits o.d) (afBits o.a) 0 o.sd o.sa 0 ((cvtCtl o.sat o.mode o.sty).setWidth 7)
  | .sxExp2 o => encSxWords 6 o.la o.ty o.n (afBits o.d) (afBits o.a) 0 o.sd o.sa 0 0
  | .sxSum o => encSxWords 7 o.la o.ty o.n (afBits o.d) (afBits o.a) 0 0 o.sa 0 0
  | .shflIdx o => encShfl 0 o
  | .shflUp o => encShfl 1 o
  | .shflDn o => encShfl 2 o
  | .shflXor o => encShfl 3 o
  | .bcast o => encShfl 4 o
  | .matchLanes o => [wA 0x20 5 0 o.mask o.ty.code o.cnt (destBits o.d) (cntBits o.d) (BitVec.ofNat 9 o.a.val) 0 (maskBits o.ml)]
  | .ballot d ms none => [wA 0x20 6 0 0 0 true (destBits d) (cntBits d) (maskBits ms) 0 0]
  | .ballot d ms (some b) => [wA 0x20 6 0 0 0 false (destBits d) (cntBits d) (maskBits ms) (scBits b) 0]
  | .any d ms => [wA 0x20 7 0 0 0 false (destBits d) (cntBits d) (maskBits ms) 0 0]
  | .all d ms => [wA 0x20 8 0 0 0 false (destBits d) (cntBits d) (maskBits ms) 0 0]
  | .scan o => [wA 0x20 9 0 o.mask o.ty.code false (destBits o.d) (cntBits o.d) (BitVec.ofNat 9 o.a.val) 0 (ctlBits ((if o.excl then 4 else 0) + o.op.code))]
  | .reduce o => [wA 0x20 10 0 o.mask o.ty.code false (destBits o.d) (cntBits o.d) (BitVec.ofNat 9 o.a.val) 0 (ctlBits o.op.code)]
  | .mrank o => [wA 0x20 11 0 o.mask o.ty.code false (destBits o.d) (cntBits o.d) (BitVec.ofNat 9 o.a.val) 0 0]
  | .mand m md ma mb => encMask 0 m md ma (maskBits mb)
  | .mor m md ma mb => encMask 1 m md ma (maskBits mb)
  | .mxor m md ma mb => encMask 2 m md ma (maskBits mb)
  | .mnot m md ma => encMask 3 m md ma 0
  | .mpop d ma => encSMask 4 d ma
  | .mfirst d ma => encSMask 5 d ma
  | .mlast d ma => encSMask 6 d ma
  | .cattach q t => [wA 0x22 0 0 0 0 q 0 0 (scBits t) 0 0]
  | .cdetach q t => [wA 0x22 1 0 0 0 q 0 0 (scBits t) 0 0]
  | .cgrow d n => [wA 0x22 2 0 0 0 false (destBits d) (cntBits d) (scBits n) 0 0]
  | .rolesw r none => [wA 0x22 3 0 0 0 false 0 0 (scBits r) 0 0]
  | .rolesw r (some q) => [wA 0x22 3 0 0 0 false 0 0 (scBits r) (queueBits q) 0]
  | .cwidth n => [wA 0x22 4 0 0 0 false 0 0 (scBits n) 0 0]
  | .cprio p => [wA 0x22 5 0 0 0 false 0 0 (scBits p) 0 0]
  | .qsend y q a => [wA 0x23 0 0 0 0 y 0 0 (queueBits q) (scBits a) 0]
  | .qrecv y d q => [wA 0x23 1 0 0 0 y (destBits d) (cntBits d) (queueBits q) 0 0]
  | .tspawn m q e (.scl a) => [wA 0x23 2 0 m 0 false 0 0 (queueBits q) (srcBits (.scl e)) (srcBits (.scl a))]
  | .tspawn m q e (.vec a) => [wA 0x23 2 0 m 0 false 0 0 (queueBits q) (srcBits (.scl e)) (srcBits (.vec a))]
  | .qstat c d q => [wA 0x23 3 0 0 0 c (destBits d) (cntBits d) (queueBits q) 0 0]
  | .ldG o => encLoad 0x28 0 o
  | .ldR o => encLoad 0x28 1 o
  | .ldH o => encLoad 0x28 2 o
  | .ldC o => encLoad 0x28 3 o
  | .stG o => encStore 0x29 0 o
  | .stR o => encStore 0x29 1 o
  | .stH o => encStore 0x29 2 o
  | .ldA o => encLoad 0x2A 0 o
  | .stA o => encStore 0x2A 1 o
  | .ldxA o => encLoad 0x2A 2 o
  | .stxA o => encStore 0x2A 3 o
  | .ldW o => encLoad 0x2B 0 o
  | .crpop o => encLoad 0x2B 1 o
  | .crpeek o => encLoad 0x2B 2 o
  | .atomAdd o => encAtom 0 o
  | .atomMin o => encAtom 1 o
  | .atomMax o => encAtom 2 o
  | .atomAnd o => encAtom 3 o
  | .atomOr o => encAtom 4 o
  | .atomXor o => encAtom 5 o
  | .atomExch o => encAtom 6 o
  | .atomCas o => encAtom 7 o
  | .atomInc o => encAtom 8 o
  | .redAdd o => encStore 0x2D 0 o
  | .redMin o => encStore 0x2D 1 o
  | .redMax o => encStore 0x2D 2 o
  | .rflush la k => [wA 0x2D 3 la 0 0 false 0 0 0 0 (bv4 k ++ (0 : BitVec 5))]
  | .pfG o => [wA 0x2E 0 o.la o.mask o.ty.code o.scaled 0 0 (srcBits o.base) (srcBits o.index) ((0 : BitVec 4) ++ o.disp)]
  | .pfCode la b => [wA 0x2E 1 la 0 0 false 0 0 (srcBits b) 0 0]
  | .fence sc => [wA 0x30 0 0 0 0 false 0 0 (ctlBits sc.code) 0 0]
  | .wait k t => [wA 0x30 1 0 0 0 false 0 0 (ctlBits k.val) (scBits t) 0]
  | .waitall => [wA 0x30 2 0 0 0 false 0 0 0 0 0]
  | .seal k => [wA 0x30 3 0 0 0 false 0 0 (ctlBits k.val) 0 0]
  | .ifence => [wA 0x30 4 0 0 0 false 0 0 0 0 0]
  | .bar o => encBar 0 o
  | .barv o => [wA 0x31 1 0 0 0 false (destBits o.d) (cntBits o.d) (ctlBits (16 * o.tag.val + o.level.code)) (optScBits o.n) (maskBits o.ms)]
  | .bararr o => encBar 2 o
  | .bardrop l t => [wA 0x31 3 0 0 0 false 0 0 (ctlBits (16 * t.val + l.code)) 0 0]
  | .abinit a n b => encAb 0 false a (scBits n) (scBits b)
  | .abarrive (.arrive a c) => encAb 1 false a (optScBits c) 0
  | .abarrive (.expect a b) => encAb 1 true a (scBits b) 0
  | .abexpect a b => encAb 2 false a (scBits b) 0
  | .abwait a p => encAb 3 false a (scBits p) 0
  | .cpy o => encCopy 0 o
  | .cpyMc o => encCopy 1 o
  | .cpyst o => encCopy 2 o
  | .cpyfill o => encCopy 3 o
  | .mma o =>
    [wL 0x37 0 o.la o.mask (tyBits o.aty ++ tyBits o.bty ++ o.acc ++ BitVec.ofBool o.idx.isSome ++ o.unit ++ o.sel ++
       BitVec.ofBool o.scales.isSome ++ afBits o.aaddr ++ afBits o.baddr ++ optAfBits o.idx),
     bv4 o.k ++ (0 : BitVec 24) ++ vecPairBits1 o.scales ++ vecPairBits2 o.scales ++ vecPairBits1 o.specials ++
       vecPairBits2 o.specials]
  | .mcl o => encAcc 1 o
  | .mclr o => encAcc 2 o
  | .mrd o => encAcc 3 o
  | .epi la m k => [wL 0x38 0 la m 0, bv4 k ++ (0 : BitVec 60)]
  | .epicfg o =>
    [wL 0x38 1 o.la o.mask (BitVec.ofNat 2 o.oty.code ++ BitVec.ofNat 2 o.act.code ++ (0 : BitVec 4) ++ afBits o.scale ++
       afBits o.bias ++ afBits o.dest ++ optAfBits o.side), o.act.payload]
  | .coll o =>
    [wL 0x39 0 o.la o.mask (BitVec.ofNat 2 o.kind.codes.1 ++ BitVec.ofNat 2 o.kind.codes.2 ++ tyBits o.ty ++ bv4 o.k ++
       (0 : BitVec 5) ++ srcBits (.scl o.dst) ++ srcBits (.scl o.src) ++ scBits o.count),
     scBits o.group ++ (0 : BitVec 55)]
  | .collwait la m k g => [wL 0x39 1 la m ((0 : BitVec 8) ++ bv4 k ++ (0 : BitVec 32)), scBits g ++ (0 : BitVec 55)]
  | .trap n => encSys 0 false 0 .sink (idxBits n) 0
  | .tret s => encSys 1 s 0 .sink 0 0
  | .brk n => encSys 2 false 0 .sink (idxBits n) 0
  | .rdsr m d r => encSys 3 false m d (ctlBits r.code) 0
  | .wrsr r a => encSys 4 false 0 .sink (ctlBits r.code) (scBits a)
  | .feat d n => encSys 5 false 0 d (idxBits n) 0
  | .nop => encSys 6 false 0 .sink 0 0
  | .sleep a => encSys 7 false 0 .sink (scBits a) 0
  | .prog n => encSys 8 false 0 .sink (queueBits n) 0
  | .tstamp d => encSys 9 false 0 d 0 0
  | .functionResultWrite .. | .atomicPerformed .. | .barrierRelease .. | .abwaitRelease .. | .sleepExpiry ..
  | .loadDataArrival .. | .storePerformed .. | .translationPassed .. | .remoteAccess .. | .pageResponse ..
  | .joinComplete .. | .rejoin .. | .trapEntry .. | .spill .. | .spillRestore .. | .roleSwitch ..
  | .taskStrandForm .. | .cgrowAnswer .. | .blockFetch .. | .insertedDelayExpiry .. | .copyStart ..
  | .copyRowDelivery .. | .copyComplete .. | .latchFill .. | .passStart .. | .passEnd .. | .tileClosed ..
  | .epilogueStart .. | .epilogueComplete .. | .collectiveComplete .. | .quarantineRelease | .doorbell ..
  | .launch .. | .chunkGrant .. | .cohortPlacement .. | .launchCompletion .. | .configure .. | .sealPartition ..
  | .releasePartition .. | .preempt .. | .drainEnd .. | .restore .. | .asidCreate .. | .asidDestroy ..
  | .writeRangeEntry .. | .pagesWrite .. | .pagesInvalidate .. | .writeTensorRecord .. | .writeGroupEntry ..
  | .writeExportEntry .. | .bindBridgeSender .. | .bindBridgeReceiver .. | .unbindBridge .. | .setQueue ..
  | .setOverflowArea .. | .bindPodGroup .. | .unbindPodGroup .. | .loadCodeObject .. | .enrolKey ..
  | .withdrawKey .. | .setPowerCap .. | .cancelLaunch .. | .semaphoreAcquire .. | .semaphoreFree ..
  | .controlBlockWrite .. | .traceControlWrite .. | .registerWrite .. | .causalTrialGo .. | .causalTrialEnd ..
  | .stopWrite .. | .resumeWrite .. | .breakpointHit .. | .sample .. | .powerOnReset | .linkDown ..
  | .semaphoreLinkFree .. | .dieFence .. | .masterElection .. | .stackSelfRefresh .. | .stackResume ..
  | .stackFence .. | .firmwareHandover .. | .shanovLinkFailure .. | .podGroupLive .. | .hbmChannelSparing ..
  | .refreshPostponementLimit .. => []

end Sys2Proof
end

