-- ==== Sys2Proof/Machine/State.lean ====
section
/-! DEFINITION. The state of the machine: one package, everything the manual gives it, as plain data (R10, R20). Tables are
lists of (key, entry) pairs with rising keys. -/
namespace Sys2Proof.Machine

/-- Ways the machine could stop. The manual gives it none: every fault of the text is a trap, a failed unit or the end of a
launch, and each of these is a next state. -/
inductive Fault where
  /-- Raised by no step (safe). -/
  | noFault
  deriving DecidableEq, Repr

/-- An instruction without a meaning. -/
inductive Refusal where
  /-- Raised by an arm of `exec` that has no meaning yet (safe: nothing is claimed of it). -/
  | notModelled (mnemonic : String)
  deriving DecidableEq, Repr

/-- A table by number. -/
abbrev Tbl (α : Type) := List (Nat × α)

/-- Bytes by address, in the one canonical form: addresses strictly rising, no byte 0 listed (an address that is not
listed reads as 0: R190 for windows, R384 for stacks, log entry 2 for memory outside the package). -/
structure Memory where
  cells : List Host.Cell
  deriving DecidableEq, Repr

/-- A walker (R43). -/
structure Walker where
  base : Word
  c0 : Nat
  c1 : Nat
  c2 : Nat
  t0 : BitVec 20
  t1 : BitVec 20
  t2 : BitVec 20
  i0 : Nat
  i1 : Nat
  i2 : Nat
  e0 : Bool
  e1 : Bool
  e2 : Bool
  deriving DecidableEq, Repr

/-- One lane's fault: lane, cause code (R330) and address. -/
structure LFault where
  lane : Nat
  cause : Nat
  addr : Word
  deriving DecidableEq, Repr

/-- A record of a counted name (R22). `rid` is the storage it holds slabs of, shared by views (R133); `vals` has one value
per lane of the strand, or one value for a scalar. -/
structure Rec where
  rid : Nat
  wide : Bool
  /-- reads left; none is a held record -/
  count : Option Nat
  vals : List Word
  /-- accesses in flight that this record still waits for, and on which lanes (R21, R132, R138) -/
  pend : List (Nat × LaneSet)
  /-- lanes absent from a lane-divided record (R336) -/
  absent : LaneSet
  /-- lanes left without data by a failed access (R238, R343) -/
  failed : List LFault
  /-- the units of those accesses, by lane -/
  units : Tbl Nat
  /-- address of the instruction that created it (R409) -/
  maker : Word
  deriving DecidableEq, Repr

/-- A code block: the address of its header, the header word and the LEN words that follow (R30). -/
structure Block where
  base : Word
  hdr : Word
  words : List Word
  deriving DecidableEq, Repr

/-- The lookahead window of a long-latency instruction (R36 to R38). `undo` gives back the names it read and wrote; `walkers` holds
the walkers it read as they would stand had it not issued. -/
structure Window where
  pc : Word
  la : Nat
  /-- window positions passed so far -/
  idx : Nat
  /-- bit i − 1: the i-th window instruction has completed -/
  done : BitVec 32
  complete : Bool
  reads : List Name
  writes : List Name
  undo : List (Name × Option Rec)
  walkers : Tbl Walker
  flight : Nat
  deriving DecidableEq, Repr

/-- A trap (R339): cause, %fpc, %fdone, %faddr per lane (no entry reads 0), %tcode; the step of R59 for the trace (R404),
the window length, and the lowest faulting lane (R342). -/
structure Trap where
  cause : Nat
  fpc : Word
  fdone : BitVec 32
  faddr : Tbl Word
  tcode : Nat
  step : Nat
  win : Nat
  lane : Nat
  /-- the block it was taken in, which `tret` re-enters (R39) -/
  blk : Block
  /-- the completed window that the faulting instruction stands in (R37) -/
  rest : Option Window
  /-- the names' check at a join was still to be made (R138) -/
  joinCheck : Bool
  deriving DecidableEq, Repr

/-- Where a path restarts after a trap or a page request: the instruction, the window bits already done, and the window's length
(R39). -/
structure Redo where
  pc : Word
  done : BitVec 32
  win : Nat
  deriving DecidableEq, Repr

/-- What gives back the names, the walkers and the handler mode that a transferring instruction changed, when its target is no header
(R33). -/
structure Undo where
  names : List (Name × Option Rec)
  walkers : Tbl Walker
  handler : Option Trap
  deriving DecidableEq, Repr

/-- What a path waits for, or that it can issue (R151). -/
inductive Status where
  | ready
  /-- waiting for the block at `addr` (R32, R33); `undo` gives back what the transferring instruction did when the target is
  no header; a fall-through traps at the word entered -/
  | fetch (addr : Word) (fall : Bool) (origin : Word) (undo : Undo)
  /-- waiting for the word at its pc, which could not be fetched with the start of its block (R344) -/
  | refetch
  /-- at the join of a split, since a clock (R137, R415) -/
  | join (split since : Nat)
  /-- a parent at the rejoin point of one of its fragments (R335) -/
  | rejoinWait
  /-- a fragment at its rejoin point -/
  | atRejoin
  /-- at a route tag in a phase (R262), with the destination of `barv` -/
  | barrier (level : Level) (tag : Nat) (phase : Nat) (d : Option Dest)
  /-- at an arrival barrier (R270): address, parity, generation, the names whose reads its return takes, and once a test has ended
  the wait the clock of its end and the cause it raises, 0 for none -/
  | abwait (addr : Nat) (parity : Bool) (gen : Nat) (names : List Name) (due : Option (Nat × Nat))
  | sleep (till : Nat)
  /-- parked for page requests: page and host port of each still unanswered, and whether one was refused (R338) -/
  | pages (open_ : List (Nat × Nat)) (refused : List Nat)
  /-- parked for the debugger (R412) -/
  | debug
  /-- a trap is raised and not entered (R340) -/
  | trapped
  /-- an arm waiting on the divergence stack, with where it goes on (R134) -/
  | stacked (addr : Word) (fall : Bool) (origin : Word)
  /-- `rolesw` has freed the path's records and waits for an element of a queue (R177) -/
  | roleWait (role : Nat) (q : Nat)
  /-- it waited at a bridge that has been zeroed, and raises QUEUEERR once no long-latency instruction before can fault any more (R38,
  R374) -/
  | queueErr
  /-- `cgrow` waits for its answer (R176) -/
  | grow (d : Dest) (req : Nat)
  deriving DecidableEq, Repr

/-- A page request of a fetch: page and host port, the address fetched, and whether the host has refused it. -/
structure CodeReq where
  page : Nat
  port : Nat
  addr : Word
  refused : Bool
  deriving DecidableEq, Repr

/-- A path (R20, R131), an arm of a split (R132) or a fragment (R334). -/
structure Path where
  pc : Word
  blk : Block
  lanes : LaneSet
  v : Tbl Rec
  sc : Tbl Rec
  /-- m1 to m15; m0 is `lanes` -/
  masks : Tbl LaneSet
  walkers : Tbl Walker
  slot : Option Nat
  frag : Nat
  parent : Option Nat
  /-- rejoin point of a fragment: a header, or none for the next barrier or exit (R335) -/
  rejoin : Option Word
  /-- open splits it is an arm of, innermost first; true for arm T -/
  arms : List (Nat × Bool)
  status : Status
  trap : Option Trap
  /-- the trap being handled: in handler mode (R339) -/
  handler : Option Trap
  window : Option Window
  redo : Option Redo
  /-- order of its last issue (R151) -/
  last : Nat
  /-- not ready before this clock (R410) -/
  hold : Nat
  /-- the points that it has met and passes once, breakpoint n as n, watchpoint n as 8 + n, with the instruction (R412) -/
  pass : List (Nat × Word)
  /-- its last attempt to issue failed for want of slabs (R148) -/
  starved : Bool
  /-- since when it is blocked at a yieldable queue operation (R297) -/
  blocked : Option Nat
  /-- code objects loaded before its launch started or its last `ifence`, and those of them whose status writes happen before that: it
  fetches no other text (R394) -/
  codeFrom : Nat
  codeOk : Nat
  /-- the LIVE and SLIVE check of the join it enters is still to be made (R138) -/
  joinCheck : Bool
  /-- the page request that its fetch has out (R338, R344) -/
  asked : Option CodeReq
  deriving DecidableEq, Repr

/-- A split on the divergence stack (R134). -/
structure Split where
  join : Word
  top : Bool
  /-- arms, and paths of arms, that have exited: their accesses stand before what follows the join (R210) -/
  gone : List Nat
  deriving DecidableEq, Repr

/-- A failed unit's fault (R258): the cause, whether it strikes lanes, and where. -/
structure Fail where
  unit : Nat
  ctr : Nat
  order : Nat
  cause : Nat
  lanes : List LFault
  word : Word
  deriving DecidableEq, Repr

/-- A unit of an arrival counter (R242): one operation, or one batch of copies (R259). `pod`: the `wait` that retires it acquires at
`.pod` (R322). -/
structure CUnit where
  id : Nat
  order : Nat
  /-- operations still to complete -/
  left : Nat
  batch : Bool
  open_ : Bool
  ordinal : Nat
  pc : Word
  fails : List Fail
  pod : Bool
  deriving DecidableEq, Repr

/-- An arrival counter (R242): its units in order, how many batches it has had (R286), and whether its next `wait` acquires at `.pod`
for a unit that is complete (R322). -/
structure Counter where
  units : List CUnit
  batches : Nat
  pod : Bool
  deriving DecidableEq, Repr

/-- What a global access does. -/
inductive AKind where
  /-- a load, with the target classes it may reach, and whether it may use the caches (R244) -/
  | load (cls : List Nat) (cached : Bool)
  | store (cls : List Nat)
  | atomic (op : AtomK) (sem : Sem) (scope : Scope)
  | red (op : Comb)
  | flush
  | func
  deriving DecidableEq, Repr

/-- One lane's part of an access: virtual address, place (space × 2^64 + address), cache policy, race-detect mark, operand
values, the value bound (of a store: set once it is performed), the cause it failed with, and of a store whether its home L2 holds it
already and the copy in its own die does not yet (R207), and whether the other strands of its core do not see it yet (R206, R226). -/
structure LaneAcc where
  lane : Nat
  va : Word
  pa : Nat
  policy : Nat
  rd : Bool
  data : Word
  swap : Word
  val : Option Word
  bad : Option Nat
  home : Bool
  held : Bool
  op : Comb
  ty : Ty
  deriving DecidableEq, Repr

/-- An access or a function result in flight (R36, R245, R246, R251, R153). -/
structure Flight where
  kind : AKind
  /-- the paths whose program order it stands in: the issuer, and those that split off after it (R209) -/
  paths : List Nat
  pc : Word
  issued : Nat
  ticket : Nat
  ctr : Option Nat
  unit : Nat
  ty : Ty
  d : Option Name
  lanes : LaneSet
  accs : List LaneAcc
  /-- translation and protection have passed (R36); its place in the core's order of accesses -/
  passed : Bool
  seq : Nat
  /-- one more than the rank of the widest release of its path since it was accepted (R206, R212) -/
  pub : Nat
  deriving DecidableEq, Repr

/-- A strand (R127). -/
structure Strand where
  width : Nat
  launch : Nat
  cohort : Nat
  number : Nat
  linear : Nat
  index : Nat
  role : Option Nat
  armature : Nat
  entry : Word
  paths : Tbl Path
  splits : Tbl Split
  counters : Tbl Counter
  fails : List Fail
  flights : Tbl Flight
  tagsCore : BitVec 8
  tagsQuad : BitVec 8
  exited : LaneSet
  /-- release ordinal and last release at each scope (R220) -/
  o : Nat
  lastRel : List Nat
  spilled : Bool
  started : Bool
  task : Bool
  /-- no trap is entered before this clock (R340) -/
  trapFrom : Nat
  /-- its frame in the quarry of its launch (R148, R149) -/
  frame : Nat
  /-- next path and split number -/
  next : Nat
  deriving DecidableEq, Repr

/-- A path's arrival at, or drop from, a route tag in its current phase (R262, R263): its lanes, their number, and its vote. -/
structure Arrival where
  core : Nat
  slot : Nat
  path : Nat
  lanes : LaneSet
  n : Nat
  drop : Bool
  waits : Bool
  votes : Nat
  deriving DecidableEq, Repr

/-- The release of a waiting path (R143, R263): from which clock, with which vote sum, with the acquire or without, and the
phase. -/
structure Release where
  core : Nat
  slot : Nat
  path : Nat
  from_ : Nat
  votes : Nat
  acq : Bool
  phase : Nat
  deriving DecidableEq, Repr

/-- A route tag (R141, R264): the expected lanes of the current phase (none: unset, at the levels that count), the phase bit,
the arrivals of the phase, the releases not yet taken, the number of phases completed. -/
structure Tag where
  expected : Option Nat
  phase : Bool
  arrivals : List Arrival
  releases : List Release
  phases : Nat
  /-- an event has reached it since its last completion test (R143) -/
  dirty : Bool
  deriving DecidableEq, Repr

/-- A tile of a C-ring (R194, R292): values row by row, whether it is closed, and the slot that it begins in. -/
structure Tile where
  wide : Bool
  vals : List Word
  closed : Bool
  slot : Nat
  deriving DecidableEq, Repr

/-- The configuration of `epi` (R293, R318). -/
structure EpiCfg where
  oty : OTy
  act : Act
  scale : Nat
  bias : Nat
  dest : Nat
  side : Nat
  deriving DecidableEq, Repr

/-- An event at an arrival barrier (R269): `abinit` with its n and b, an expectation, an arrival, a byte post with the generation
its copy captured, a failed delivery. -/
inductive AbEvent where
  | init (n bytes : Nat)
  | expect (bytes : Nat)
  | arrive (n : Nat)
  | post (bytes : Nat) (gen : Option Nat)
  | fail
  deriving DecidableEq, Repr

/-- A cohort on one core (R140, R190): its windows, ring and tags. -/
structure Cohort where
  launch : Nat
  number : Nat
  quad : Bool
  task : Bool
  strands : Nat
  ended : Nat
  asize : Nat
  wsize : Nat
  a : Memory
  w : Memory
  slots : Nat
  tiles : Tbl Tile
  nextTile : Nat
  nextClaim : Nat
  accs : Nat
  epicfg : Option EpiCfg
  prio : Nat
  tags : Tbl Tag
  queues : Bool
  /-- has run only IDEM blocks and nothing R349 excludes -/
  discardable : Bool
  /-- events of this clock at arrival barriers, with the address, which its end applies in their order (R269) -/
  abEvents : List (Nat × AbEvent)
  /-- the clock of the last change of its attached strands on this core, and how many there were before it (R102) -/
  csPrev : Option (Nat × Nat)
  /-- the clock of the last `cprio` of the cohort, and the strand slot it came from (R179) -/
  prioKey : Option (Nat × Nat)
  deriving DecidableEq, Repr

/-- The resolved description of a copy (R309 to R313). -/
structure CopyDesc where
  kind : Nat
  rows : Nat
  wbuf : Bool
  handle : Nat
  addr : Nat
  abar : Option Nat
  side : Option Nat
  recv : BitVec 4
  co : Word
  ch : Word
  deriving DecidableEq, Repr

/-- One slice of a copy and the unit it completes (R283). -/
structure Slice where
  slot : Nat
  index : Nat
  ctr : Nat
  unit : Nat
  d : Option Name
  cnt : BitVec 4
  desc : CopyDesc
  order : Nat
  flight : Nat
  deriving DecidableEq, Repr

/-- A tensor record (R277). -/
structure Tensor where
  base : Word
  ty : Ty
  layout : Nat
  fill : Word
  ext : List Nat
  stride : List (BitVec 64)
  sbase : Word
  xbase : Word
  deriving DecidableEq, Repr

/-- A row that a copy has read and not delivered (R281): its bytes and those of its scales and specials, or for a copy out the bytes to
write with their addresses and the bits to keep, and how many bytes it counts for. -/
structure RowData where
  bytes : List Byte
  side : Option (List Byte × List Byte)
  puts : List (Nat × Nat × Byte)
  len : Nat
  deriving DecidableEq, Repr

/-- An accepted copy (R281), or one whose slices are still assembling. `row` rows are delivered, `posted` bytes posted to the
barriers (R284), `ahead` are rows read after them, `failedAt` are the receivers it failed at and `detail` why it failed as a whole (R286); `page` is the page that
a request is out for, `refused` that the host refused it. -/
structure Copy where
  cohort : Nat
  n : Nat
  slices : List Slice
  tensor : Tensor
  asid : Nat
  part : Nat
  ticket : Nat
  /-- generation of the barrier captured at each receiving core, by quad position -/
  gens : Tbl Nat
  tile : Option Nat
  started : Bool
  row : Nat
  ahead : List RowData
  posted : Nat
  failedAt : BitVec 4
  detail : Nat
  page : Option Nat
  refused : Bool
  deriving DecidableEq, Repr

/-- A copy channel (R281, R282). -/
structure Chan where
  queue : List Copy
  wp : Nat
  deriving DecidableEq, Repr

/-- A named queue (R295, R308). -/
structure Queue where
  cohort : Nat
  kind : Nat
  base : Nat
  cap : Nat
  occ : Nat
  head : Nat
  tail : Nat
  high : Nat
  low : Nat
  reserve : Bool
  reserved : Word
  err : Bool
  ring : Word
  dev : Nat
  core : Nat
  /-- since when the occupancy has been at or below L, at or above H -/
  lowSince : Nat
  highSince : Nat
  lastSwitch : Nat
  /-- the clock of the last take with how many slots it and others of that clock have freed (R305), and that clock with the strand slot
  of the take (R295) -/
  took : Nat × Nat
  acted : Nat × Nat
  deriving DecidableEq, Repr

/-- A task ring as its target core's scheduler holds it (R298). `srcCore` and `srcQ` say where the heads of a ring of another device
are written back to; `err` is the queue's error bit (R299). -/
structure TaskRing where
  srcDev : Nat
  srcCore : Nat
  srcQ : Nat
  launch : Nat
  base : Word
  cap : Nat
  head : Nat
  tail : Nat
  since : Nat
  err : Bool
  /-- slots past the head whose tasks have been taken or discarded already, as indices -/
  taken : List Nat
  deriving DecidableEq, Repr

/-- A partial of a reduction (R252). -/
structure Partial where
  launch : Nat
  linear : Nat
  core : Nat
  number : Nat
  va : Word
  pa : Nat
  op : Comb
  ty : Ty
  val : Word
  ticket : Nat
  deriving DecidableEq, Repr

/-- An accepted `epi` (R293, R319): its tile and configuration, and the scales and biases read at its start. -/
structure EpiCmd where
  cohort : Nat
  slot : Nat
  ctr : Nat
  unit : Nat
  tile : Nat
  cfg : EpiCfg
  started : Option Nat
  scales : List Word
  biases : List Word
  ticket : Nat
  deriving DecidableEq, Repr

/-- A packet of this clock (R405): strand slot and path byte, the path whose address the stream must know (none for START), its
address, the paths it fixes, its type, the bytes after the delta, its clock, and whether it is the START of a strand. -/
structure Packet where
  part : Nat
  slot : Nat
  byte : Nat
  mine : Option (Nat × Nat)
  pc : Word
  new : List (Nat × Nat)
  ty : Nat
  rest : List Byte
  clk : Nat
  /-- a strand starts in the slot -/
  starts : Bool
  deriving DecidableEq, Repr

/-- The debug block of a core and its tracer (R403 to R408). `buf` holds the packets of the clock, which its end puts in order, and
earlier ones while the stack that they go to holds accesses back (R237). -/
structure Debug where
  ctl : Word
  slots : Word
  tbase : Word
  tsize : Word
  twp : Word
  trd : Word
  tloss : Word
  /-- clock of the last delta-carrying packet; packets since the last SYNC; drops not yet reported -/
  lastClk : Nat
  sinceSync : Nat
  drops : Nat
  /-- paths whose address the stream has given since its last SYNC or LOSS (R406, R416): slot and path -/
  known : List (Nat × Nat)
  /-- the strand slot of the last sample, and by strand slot which of its path slots is sampled next (R408) -/
  sampleSlot : Nat
  sampleNext : BitVec 48
  sampledAt : Nat
  buf : List Packet
  deriving DecidableEq, Repr

/-- A pipe of a core (R73, R153): the clock from which it is free, and the instruction that occupies it (R409). -/
structure PipeSt where
  free : Nat
  pc : Word
  deriving DecidableEq, Repr

/-- A streaming operation under way (R166): the strand slot and the path that issued it, its cohort, its scalars, the next segment and
the clock of it, the sums of `sx.sum` so far, and the A-buffer as it was at its issue, for its being undone (R345). -/
structure Stream where
  slot : Nat
  path : Nat
  key : Nat
  op : Instr
  vals : List Nat
  seg : Nat
  clk : Nat
  acc : List Nat
  was : Memory
  deriving DecidableEq, Repr

/-- A core (R12). -/
structure Core where
  strands : Tbl Strand
  cohorts : Tbl Cohort
  l1 : Tbl (List Byte)
  ibuf : Tbl Block
  chan0 : Chan
  chan1 : Chan
  abuf : List Partial
  queues : Tbl Queue
  rings : Tbl TaskRing
  epis : List EpiCmd
  prog : Tbl Nat
  progStop : Bool
  pmc : Tbl Nat
  dbg : Debug
  /-- last issue: slot, path, consecutive issues, and the clock after it, before which nothing issues (R21, R151) -/
  lastSlot : Nat
  lastPath : Nat
  run : Nat
  nextClk : Nat
  /-- the clock from which the 256 clocks without an issue count (R148) -/
  idleFrom : Nat
  vecPipe : PipeSt
  sclPipe : PipeSt
  memPipe : PipeSt
  stream : Option Stream
  halted : Bool
  /-- code objects loaded before the last acquire of the core, whose status writes it may have followed (R394) -/
  synced : Nat
  deriving DecidableEq, Repr

/-- An accumulator (R287): its element type and values row by row; an empty one is not in its table. -/
structure Acc where
  wide : Bool
  vals : List Word
  deriving DecidableEq, Repr

/-- What a reservation entry does (R288). -/
inductive MKind where
  | mma (o : MmaOp) (aaddr baddr : Nat) (idx : Option Nat) (sa sb xa xb : List Word)
  | close | clear | read
  deriving DecidableEq, Repr

/-- A reservation entry of a quad's matrix engine (R288). -/
structure Entry where
  core : Nat
  cohort : Nat
  slot : Nat
  ctr : Nat
  unit : Nat
  acc : Nat
  wide : Bool
  kind : MKind
  prio : Nat
  /-- passes granted to others since it was posted (R289) -/
  passed : Nat
  /-- an `mma` whose pass runs, or a close that writes: since when -/
  started : Option Nat
  /-- the tile a close writes -/
  tile : Nat
  ticket : Nat
  /-- the clock it was posted in (R288) -/
  posted : Nat
  deriving DecidableEq, Repr

/-- A quad (R13, R287 to R292). -/
structure Quad where
  accs : Tbl Acc
  entries : List (Nat × Entry)
  /-- the pass under way: entry, start, rows of A and of B -/
  pass : Option (Nat × Nat × List (List Byte) × List (List Byte))
  /-- the operand latch: the entry it fills for, the clock its fill started in, the row numbers, and the rows gathered so far (R290) -/
  latch : Option (Nat × Nat × List Nat × List (List Byte))
  /-- quad-level route tags of the cohorts on the quad -/
  tags : Tbl (Tbl Tag)
  deriving DecidableEq, Repr

/-- A conflict tag (R221): strand identities as numbers, 0 for none. -/
structure CTag where
  writer : Nat
  wo : Nat
  wmask : BitVec 32
  r0 : Nat
  o0 : Nat
  m0 : BitVec 32
  r1 : Nat
  o1 : Nat
  m1 : BitVec 32
  ovf : Bool
  deriving DecidableEq, Repr

/-- A collective as this member's die engine holds it (R294, R321), with the group as its entry gave it at acceptance. -/
structure Coll where
  m : Nat
  rank : Nat
  members : List Nat
  core : Nat
  slot : Nat
  ctr : Nat
  unit : Nat
  wait : Bool
  kind : CollKind
  ty : Ty
  dst : Word
  src : Word
  count : Nat
  asid : Nat
  pos : Nat
  launch : Nat
  ticket : Nat
  deriving DecidableEq, Repr

/-- A die distributor's share of one launch (R360). -/
structure Dist where
  /-- runs of cohort numbers held, first and length, in rising order: reissued ones first -/
  chunks : List (Nat × Nat)
  /-- the clock at which its request reached the master -/
  asked : Option Nat
  deriving DecidableEq, Repr

/-- A compute die (R10). -/
structure Die where
  /-- non-home copies of sectors (R187) -/
  copies : Tbl (List Byte)
  fenced : Bool
  l2Fault : Bool
  /-- by partition: the last queue whose cohort was placed (R356) -/
  lastQ : Tbl Nat
  deriving DecidableEq, Repr

/-- A host command queue (R355). -/
structure HQueue where
  set_ : Bool
  dev : Bool
  base : Nat
  logc : Nat
  asid : Option Nat
  head : Nat
  tail : Nat
  errors : Nat
  running : Option Nat
  /-- descriptors of launch commands that have been fetched and not started (R356) -/
  waiting : List Nat
  deriving DecidableEq, Repr

/-- An entry of a group table (R294). -/
structure Group where
  valid : Bool
  m : Nat
  rank : Nat
  members : List Nat
  queue : List Coll
  pos : Nat
  deriving DecidableEq, Repr

/-- An entry of an export table (R368). -/
structure Export where
  valid : Bool
  r : Bool
  w : Bool
  base : Nat
  limit : Nat
  first : Nat
  last : Nat
  local_ : Nat
  deriving DecidableEq, Repr

/-- A pod barrier group slot (R372). -/
structure PodSlot where
  key : Nat
  m : Nat
  rank : Nat
  members : List Nat
  live : Bool
  deriving DecidableEq, Repr

/-- A role of a kernel (R296, R391): its entry, input and output queue, live-in offsets, strands at launch. -/
structure Role where
  entry : Option Word
  inq : Option Nat
  outq : Option Nat
  argw : List Nat
  strands : Nat
  deriving DecidableEq, Repr

/-- A queue table entry (R391). -/
structure QEntry where
  q : Nat
  kind : Nat
  base : Nat
  logc : Nat
  high : Nat
  low : Nat
  ring : Word
  dev : Nat
  core : Nat
  deriving DecidableEq, Repr

/-- A kernel of a verified code object, as its tables give it (R390). -/
structure Kernel where
  entry : Word
  trap : Option Word
  attach : Option Word
  width : Nat
  armature : Nat
  aset : BitVec 8
  alevel : Bool
  roles : List Role
  queues : List QEntry
  tasks : List (Word × Nat)
  deriving DecidableEq, Repr

/-- A launch (R357). -/
structure Launch where
  part : Nat
  queue : Nat
  desc : Nat
  kernel : Kernel
  args : Word
  cohorts : Nat
  spc : Nat
  quad : Bool
  reissuable : Bool
  pmax : Nat
  pinit : Nat
  acc : Nat
  asid : Nat
  awin : Nat
  wwin : Nat
  cslots : Nat
  grow : Nat
  chunk : Nat
  podgrp : Option Nat
  qbase : Word
  qsize : Nat
  done : Word
  ordinal : Nat
  /-- cohorts handed out, placed, ended, reissued; strands grown, growth counter -/
  granted : Nat
  placed : Nat
  ended : Nat
  reissued : Nat
  grown : Nat
  counter : Nat
  tasks : Nat
  /-- code objects loaded before it started (R394) -/
  loads : Nat
  /-- shares of the die distributors, by die (R360) -/
  dists : Tbl Dist
  /-- die and package tags (R264) -/
  dieTags : Tbl (Tbl Tag)
  pkgTags : Tbl Tag
  /-- set when it is over but its completion is not posted: status and fault record -/
  ending : Option (Nat × List Byte)
  deriving DecidableEq, Repr

/-- A stop in force (R412). -/
structure Stop where
  src : Nat
  n : Nat
  core : Nat
  slot : Nat
  byte : Nat
  met : Nat
  /-- its halt at instruction boundaries has been made (R345) -/
  halted : Bool
  deriving DecidableEq, Repr

/-- What opcode 0x0013 saved (R347): the cores and quads of the partition, its launches, the pod tags of its groups, the order of its
overflow slots, %clock with the clock that it was read in, a stop in force and STOPST. The bytes that lie in the save area are free
values drawn from `draw` on, `size` of them; an area that holds them is this save, wherever the driver has moved it. `abroad`: made on
another device (R350); `uid` is past every identity in it. -/
structure Saved where
  part : Nat
  quads : Nat
  pairs : Nat
  shares : List Nat
  cores : List (Nat × Core)
  quadsS : List (Nat × Quad)
  launches : Tbl Launch
  /-- collectives in progress, by group -/
  colls : Tbl (List Coll)
  pods : Tbl (Tbl Tag)
  ovfOrder : List Nat
  clock : Nat
  since : Nat
  stop : Option Stop
  stopst : Word
  draw : Nat
  size : Nat
  abroad : Bool
  uid : Nat
  deriving DecidableEq, Repr

/-- A partition (R17, R379). -/
structure Partition where
  quads : BitVec 128
  pairs : BitVec 8
  shares : List Nat
  configured : Bool
  sealed : Bool
  /-- being pre-empted or released (R345, R382), with base and size of the save area; `saved` once its drain has ended -/
  preempt : Option (Nat × Nat)
  saved : Bool
  loc : Bool
  cqbase : Word
  cqcap : Nat
  pevt : BitVec 6
  queues : Tbl HQueue
  keys : Tbl (List Byte)
  exports : Tbl Export
  groups : Tbl Group
  pods : Tbl PodSlot
  ovfBase : Nat
  ovfSize : Nat
  /-- slots of the overflow area in use, oldest first -/
  ovfOrder : List Nat
  /-- the oldest ticket of the partial in a slot (R201) -/
  ovfTickets : Tbl Nat
  cap : Nat
  clock0 : Nat
  /-- what %clock was when the partition was saved, counted on from clock0 (R350) -/
  ahead : Nat
  ordinals : Nat
  kernels : List (Nat × Kernel)
  stop : Option Stop
  stopst : Word
  bps : Tbl Word
  wps : Tbl (Word × Word × Word)
  ctlo : Word
  cthi : Word
  ctd : Word
  ctdur : Word
  ctstat : Word
  trial : Option Nat
  refused : Nat
  master : Nat
  electing : Option Nat
  /-- the port whose keys the table holds (R385) -/
  owner : Option Nat
  deriving DecidableEq, Repr

/-- An address space (R196). -/
structure Asid where
  part : Nat
  root : Nat
  ranges : Nat
  tensors : Nat
  ntensors : Nat
  deriving DecidableEq, Repr

/-- A semaphore (R376). -/
structure Sema where
  held : Bool
  port : Nat
  tag : BitVec 16
  /-- the clock in which it was acquired, for a tie -/
  wonAt : Option Nat
  deriving DecidableEq, Repr

/-- A vector of a port's MSI-X table (R381): message address and data, its mask and its pending bit. -/
structure MsixVec where
  addr : Word
  data : BitVec 32
  masked : Bool
  pending : Bool
  deriving DecidableEq, Repr

/-- A fabric routing entry or a PCIe DMA window of the hub die (R382, R383): the partition it serves and what it holds. -/
structure HubEntry where
  part : Nat
  value : Word
  deriving DecidableEq, Repr

/-- A bridge (R373): its two ends as they were bound, its ring, the clock of the last take with how many slots it and others of that
clock have freed (R305), and the clock of the last send or take with its place in the order of that clock (R295). -/
structure Bridge where
  sender : Option (Nat × Nat)
  receiver : Option (Nat × Nat)
  cap : Nat
  ring : List Word
  took : Nat × Nat
  acted : Nat × Nat
  deriving DecidableEq, Repr

/-- A stack of memory (R237). -/
structure Stack where
  refresh : Option Nat
  fenced : Bool
  deriving DecidableEq, Repr

/-- A strand of another device as its home device knows it (R220, R368): the core it runs on there, and the release ordinals of its last
releases at each scope. -/
structure RemRel where
  core : Nat
  rel : List Nat
  deriving DecidableEq, Repr

/-- The package: what lies outside the core in focus, and the units that serve all of it. -/
structure Device where
  mem : Memory
  ctags : Tbl CTag
  /-- strands of other devices that conflict tags may name (R221, R368) -/
  remRel : Tbl RemRel
  /-- page-table pages: ASID, page, and the page that points to it (R7, R199) -/
  tables : List (Nat × Nat × Nat)
  /-- code objects loaded so far; the texts that lie mapped: number of the load, ASID, first byte and byte past the end (R394, R398) -/
  loads : Nat
  texts : List (Nat × Nat × Nat × Nat)
  cores : Tbl Core
  quads : Tbl Quad
  dies : Tbl Die
  parts : Tbl Partition
  asids : Tbl Asid
  launches : Tbl Launch
  nextLaunch : Nat
  sems : Tbl Sema
  tieLast : Option Nat
  links : Tbl (Option Nat)
  devt : BitVec 6
  /-- MSI-X tables: vector n of port p at 64p + n (R381) -/
  vectors : Tbl MsixVec
  /-- fabric routing entries and PCIe DMA windows (R382, R383) -/
  routes : Tbl HubEntry
  windows : Tbl HubEntry
  /-- rates set at the egress limiters: fabric ports 0 to 31, eight to a die, then the host ports (R383); one that is not set lets the
  line rate through (log entry 119) -/
  egress : Tbl Nat
  /-- the thermal cap, as far as it has been lowered (R383) -/
  thermal : Option Nat
  /-- the cap of the module's power in watts (R16, R383) -/
  moduleCap : Nat
  bridges : Tbl Bridge
  /-- pod tags by group key (R372) -/
  podTags : Tbl (Tbl Tag)
  hbmStacks : Tbl Stack
  ticket : Nat
  quarantine : List (Nat × List (Nat × Nat))
  /-- saves, by a number of the model's own (R347) -/
  saves : Tbl Saved
  fwSlot : Bool
  /-- MSI-X signals sent: port and vector (R381) -/
  msix : List (Nat × Nat)
  /-- page requests sent: port and page (R338) -/
  pageReqs : List (Nat × Nat)
  /-- stores to device registers, in order (R183): address and data -/
  regWrites : List (Nat × Word)
  /-- task tails written across the fabric: device, core, tail (R298) -/
  fabricTails : List (Nat × Nat × Nat)
  /-- task heads written back to spawning devices: device, core, queue, head, and whether the queue's error bit is set (R298, R299) -/
  fabricHeads : List (Nat × Nat × Nat × Nat × Bool)
  /-- task rings whose target is a core of another device, as this device's spawners share them; `srcDev` and `srcCore` name the target
  (R298) -/
  farRings : Tbl TaskRing
  /-- registers that the ports have read: port, offset, and the value answered (R7, R403) -/
  portReads : List (Nat × Nat × Word)
  /-- devices to which no route remains (R369) -/
  cut : List Nat
  /-- replies to remote requests (R368): device, and the data, or none where the access was refused or has failed -/
  replies : List (Nat × Option (List Byte))
  deriving DecidableEq, Repr

/-- What acts next (log entry 5). -/
inductive Agent where
  /-- the core named issues the next instruction of the path that R151 chooses -/
  | core (core : Nat)
  | event (i : Instr)
  /-- a member partition on another device arrives at a pod tag (R372) -/
  | podArrival (key tag lanes n : Nat)
  /-- a host or another device writes its memory -/
  | outside (addr : Nat) (data : List Byte)
  /-- the scheduler of a core hears of a ring of another device, or the head of a ring that this device spawns into comes back
  from another (R298) -/
  | taskRing (core ring : Nat) (r : TaskRing)
  | taskHead (ring head : Nat) (err : Bool)
  /-- a store passes translation, as by TRANSLATION_PASSED, of which the other strands of its core see the lanes named only later, when they
  are shown, or performed (R206, R226) -/
  | storeHeld (p : PRef) (lanes : List Nat)
  | storeSeen (core slot flight : Nat) (lanes : List Nat)
  /-- lanes of a store reach their home before the copy in the own die (R207) -/
  | storeHome (core slot flight : Nat) (lanes : List Nat)
  /-- a strand of another device has released at `.pod` or `.sys`, or has ended or been pre-empted there (R222, R224, R368) -/
  | remoteStrand (dev sid : Nat) (rel : Option RemRel)
  /-- a sector leaves an L1, a die's copies, or a conflict tag is lost (R188) -/
  | evictL1 (core sector : Nat)
  | evictCopy (die sector : Nat)
  | evictTag (sector : Nat)
  /-- the controller of a partition carries out what is due: a command, an election, the end of a trial -/
  | control (part : Nat)
  /-- the tracer of a core takes a sample; the hub frees the semaphores of a port whose link is down -/
  | sampler (core : Nat)
  | hub (port : Nat)
  /-- a save made on another device, which the driver moves here (R350); its bytes come by `outside` -/
  | migrate (x : Saved)
  /-- a port writes a vector of its MSI-X table, or reads a register of its space (R381, R7) -/
  | vector (port n : Nat) (addr : Word) (data : BitVec 32) (masked : Bool)
  | portRead (port offset : Nat)
  /-- a port sets a routing entry, a DMA window, the rate of an egress limiter, the thermal cap, or the cap of the module's power (R377,
  R383) -/
  | route (port n : Nat) (e : HubEntry)
  | dmaWindow (port n : Nat) (e : HubEntry)
  | egressRate (port n rate : Nat)
  | thermalCap (port cap : Nat)
  | moduleCap (port cap : Nat)
  /-- a block leaves a core's instruction buffer -/
  | evictCode (core key : Nat)
  /-- the copy that runs on a channel reads its next row ahead of delivering those before it (R281) -/
  | rowRead (core chan : Nat)
  deriving DecidableEq, Repr

/-- A turn of the schedule: the clocks that pass first, then the agent. -/
structure Turn where
  dt : Nat
  agent : Agent
  deriving DecidableEq, Repr

/-- The machine. The core, strand and path in focus are held beside the package while they act; `focus` names where they
came from, and the tables hold their state as of when they were last put back (log entry 4). -/
structure State where
  dev : Device
  core : Core
  strand : Strand
  path : Path
  focus : Option (Nat × Nat × Nat)
  clock : Nat
  /-- counter of identities handed out: storage, flights, units, order of issue -/
  uid : Nat
  /-- counter of free values drawn (log entry 6) -/
  draws : Nat
  turns : List Turn
  deriving DecidableEq, Repr

def Memory.empty : Memory := ⟨[]⟩
def Chan.reset : Chan := ⟨[], 0⟩
def Debug.reset : Debug := ⟨0, 0, 0, 0, 0, 0, 0, 0, 0, 0, [], 47, 0, 0, []⟩

/-- A core as it comes up: nothing resident, every register of the debug block 0 (R387, R403). -/
def Core.reset : Core where
  strands := []
  cohorts := []
  l1 := []
  ibuf := []
  chan0 := .reset
  chan1 := .reset
  abuf := []
  queues := []
  rings := []
  epis := []
  prog := []
  progStop := false
  pmc := []
  dbg := .reset
  lastSlot := 47
  lastPath := 0
  run := 0
  nextClk := 0
  idleFrom := 0
  vecPipe := ⟨0, 0⟩
  sclPipe := ⟨0, 0⟩
  memPipe := ⟨0, 0⟩
  stream := none
  halted := false
  synced := 0

def Block.empty : Block := ⟨0, 0, []⟩

/-- A path without a record, walker or mask, which owns nothing (R421, log entry 3). -/
def Path.empty : Path where
  pc := 0
  blk := .empty
  lanes := 0
  v := []
  sc := []
  masks := []
  walkers := []
  slot := none
  frag := 0
  parent := none
  rejoin := none
  arms := []
  status := .ready
  trap := none
  handler := none
  window := none
  redo := none
  last := 0
  hold := 0
  pass := []
  starved := false
  blocked := none
  codeFrom := 0
  codeOk := 0
  joinCheck := false
  asked := none

def Strand.empty : Strand where
  width := 32
  launch := 0
  cohort := 0
  number := 0
  linear := 0
  index := 0
  role := none
  armature := 1
  entry := 0
  paths := []
  splits := []
  counters := []
  fails := []
  flights := []
  tagsCore := 0
  tagsQuad := 0
  exited := 0
  o := 0
  lastRel := [0, 0, 0, 0, 0, 0]
  spilled := false
  started := false
  task := false
  trapFrom := 0
  frame := 0
  next := 1

/-- An unconfigured partition, its registers zero (R379, R387). -/
def Partition.reset : Partition where
  quads := 0
  pairs := 0
  shares := [0, 0, 0, 0]
  configured := false
  sealed := false
  preempt := none
  saved := false
  loc := false
  cqbase := 0
  cqcap := 0
  pevt := 0
  queues := []
  keys := []
  exports := []
  groups := []
  pods := []
  ovfBase := 0
  ovfSize := 0
  ovfOrder := []
  ovfTickets := []
  cap := 2700
  clock0 := 0
  ahead := 0
  ordinals := 0
  kernels := []
  stop := none
  stopst := 0
  bps := []
  wps := []
  ctlo := 0
  cthi := 0
  ctd := 0
  ctdur := 0
  ctstat := 0
  trial := none
  refused := 0
  master := 0
  electing := none
  owner := none

/-- The package after power-on reset (R387): every semaphore free, every partition unconfigured, the current ticket 1 (R201),
both host links up. Tables list only what differs from their reset entry. -/
def Device.reset : Device where
  mem := .empty
  ctags := []
  remRel := []
  tables := []
  loads := 0
  texts := []
  cores := []
  quads := []
  dies := []
  parts := []
  asids := []
  launches := []
  nextLaunch := 1
  sems := []
  tieLast := none
  links := []
  devt := 0
  vectors := []
  routes := []
  windows := []
  egress := []
  thermal := none
  moduleCap := 2700
  bridges := []
  podTags := []
  hbmStacks := []
  ticket := 1
  quarantine := []
  saves := []
  fwSlot := false
  msix := []
  pageReqs := []
  regWrites := []
  fabricTails := []
  fabricHeads := []
  farRings := []
  portReads := []
  cut := []
  replies := []

/-- The machine right after reset: no path exists, so nothing is in focus. -/
def State.reset : State where
  dev := .reset
  core := .reset
  strand := .empty
  path := .empty
  focus := none
  clock := 0
  uid := 1
  draws := 0
  turns := []

end Sys2Proof.Machine
end

