-- ==== Sys2Proof/Machine/Ops.lean ====
section
/-! DEFINITION. The named operations over tables, memory, lane sets, records, traps and the flow of control that every
meaning is written with. -/
namespace Sys2Proof.Machine

/-! ### Tables -/

def tget {α : Type} : Tbl α → Nat → Option α
  | [], _ => none
  | (k, x) :: r, n => if k = n then some x else tget r n

def tset {α : Type} : Tbl α → Nat → α → Tbl α
  | [], n, x => [(n, x)]
  | (k, y) :: r, n, x => if n < k then (n, x) :: (k, y) :: r else if n = k then (n, x) :: r else (k, y) :: tset r n x

def tdel {α : Type} (t : Tbl α) (n : Nat) : Tbl α := t.filter (·.1 != n)

def tgetD {α : Type} (t : Tbl α) (n : Nat) (d : α) : α := (tget t n).getD d

/-- Change an entry that is there. -/
def tmod {α : Type} (t : Tbl α) (n : Nat) (f : α → α) : Tbl α := t.map fun e => if e.1 = n then (e.1, f e.2) else e

/-! ### Bytes and memory -/

/-- The number that bytes hold, the first least significant (R3). -/
def leNat : List Byte → Nat
  | [] => 0
  | b :: r => b.toNat + 256 * leNat r

/-- The low n bytes of a number, the least significant first (R3). -/
def leBytes : Nat → Nat → List Byte
  | 0, _ => []
  | n + 1, x => BitVec.ofNat 8 x :: leBytes n (x / 256)

/-- Bytes at consecutive addresses. -/
def runAt : Nat → List Byte → List Host.Cell
  | _, [] => []
  | a, b :: r => (a, b) :: runAt (a + 1) r

/-- What one address reads as: 0 where nothing is listed (log entry 2). -/
def Memory.get (m : Memory) (a : Nat) : Byte := tgetD m.cells a 0

/-- n bytes from an address. -/
def Memory.read (m : Memory) (a n : Nat) : List Byte := (List.range n).map fun i => m.get (a + i)

/-- Write bytes from an address, keeping the canonical form. -/
def Memory.write (m : Memory) (a : Nat) (bs : List Byte) : Memory :=
  ⟨m.cells.filter (·.1 < a) ++ (runAt a bs).filter (·.2 != 0) ++ m.cells.filter (a + bs.length ≤ ·.1)⟩

def Memory.nat (m : Memory) (a n : Nat) : Nat := leNat (m.read a n)

/-- Strictly rising addresses from a bound on, and no byte 0. -/
def cellsWf : Nat → List Host.Cell → Bool
  | _, [] => true
  | lo, (a, b) :: r => lo ≤ a && b != 0 && cellsWf (a + 1) r

/-- The canonical form of a memory. -/
def Memory.wf (m : Memory) : Bool := cellsWf 0 m.cells

/-! ### Spaces: a place is space × 2^64 + address. Space 0 is the stacks (R184), 1 and 2 host memory behind ports 0 and 1,
3 and 4 device registers, 5 + d the fabric space of device d (R368). -/

def place (space : Nat) (a : Nat) : Nat := space * 2 ^ 64 + a % 2 ^ 64
def spaceOf (p : Nat) : Nat := p / 2 ^ 64

/-! ### Lane sets -/

def laneBit (l : Nat) : LaneSet := BitVec.ofNat 1024 (2 ^ l)
def allLanes (w : Nat) : LaneSet := BitVec.ofNat 1024 (2 ^ w - 1)
def lanesOf (w : Nat) (m : LaneSet) : List Nat := (List.range w).filter fun l => m.getLsbD l
def ofLanes (ls : List Nat) : LaneSet := ls.foldl (fun m l => m ||| laneBit l) 0
def countLanes (w : Nat) (m : LaneSet) : Nat := (lanesOf w m).length

/-- A mask register as the path reads it: m0 is its lane set, and bits outside its lane set are zero (R20, R79). -/
def Path.mask (p : Path) (m : Fin 16) : LaneSet := if m = 0 then p.lanes else tgetD p.masks m.val 0 &&& p.lanes

def Path.setMask (p : Path) (m : Fin 16) (x : LaneSet) : Path := { p with masks := tset p.masks m.val (x &&& p.lanes) }

/-! ### Entries of the package's tables -/

def Device.coreAt (d : Device) (c : Nat) : Core := tgetD d.cores c .reset
def Device.partAt (d : Device) (p : Nat) : Partition := tgetD d.parts p .reset
def Device.setPart (d : Device) (p : Nat) (x : Partition) : Device := { d with parts := tset d.parts p x }
def Quad.empty : Quad := ⟨[], [], none, none, []⟩
def Device.quadAt (d : Device) (q : Nat) : Quad := tgetD d.quads q .empty
def Device.setQuad (d : Device) (q : Nat) (x : Quad) : Device := { d with quads := tset d.quads q x }
def Die.empty : Die := ⟨[], false, false, []⟩
def Device.dieAt (d : Device) (i : Nat) : Die := tgetD d.dies i .empty
def Device.setDie (d : Device) (i : Nat) (x : Die) : Device := { d with dies := tset d.dies i x }
def Kernel.empty : Kernel := ⟨0, none, none, 32, 1, 0, false, [], [], []⟩
def Launch.empty : Launch where
  part := 0
  queue := 0
  desc := 0
  kernel := .empty
  args := 0
  cohorts := 0
  spc := 0
  quad := false
  reissuable := false
  pmax := 0
  pinit := 0
  acc := 0
  asid := 0
  awin := 0
  wwin := 0
  cslots := 0
  grow := 0
  chunk := 1
  podgrp := none
  qbase := 0
  qsize := 0
  done := 0
  ordinal := 0
  granted := 0
  placed := 0
  ended := 0
  reissued := 0
  grown := 0
  counter := 0
  tasks := 0
  loads := 0
  dists := []
  dieTags := []
  pkgTags := []
  ending := none
def Device.launchAt (d : Device) (l : Nat) : Launch := tgetD d.launches l .empty
def Cohort.empty : Cohort where
  launch := 0
  number := 0
  quad := false
  task := false
  strands := 0
  ended := 0
  asize := 0
  wsize := 0
  a := .empty
  w := .empty
  slots := 0
  tiles := []
  nextTile := 0
  nextClaim := 0
  accs := 0
  epicfg := none
  prio := 0
  tags := []
  queues := false
  discardable := false
  abEvents := []
  csPrev := none
  prioKey := none
def Tag.empty : Tag := ⟨none, false, [], [], 0, false⟩

/-- Die, quad and position of a package core number (R11). -/
def dieOf (c : Nat) : Nat := c / 128
def quadOf (c : Nat) : Nat := c / 4
def posOf (c : Nat) : Nat := c % 4

/-- The stack pair of a physical address, and its home die (R184, R185). -/
def pairOf (pa : Nat) : Nat := pa / 2 ^ 37
def homeDie (pa : Nat) : Nat := pairOf pa / 2

/-- The stack of a physical address, near 0 to 7 and far 8 to 15. -/
def stackOf (pa : Nat) : Nat := pairOf pa + (if pa % 2 ^ 37 < 2 ^ 36 then 0 else 8)

/-- Is the address backed by a stack (R184)? -/
def backed (pa : Nat) : Bool := pa < 2 ^ 40 && pa % 2 ^ 36 < 48 * 10 ^ 9

/-! ### Focus -/

/-- Put the core, strand and path in focus back into their tables. -/
def State.flush (s : State) : State :=
  match s.focus with
  | none => s
  | some (c, sl, p) =>
    let st := { s.strand with paths := tset s.strand.paths p s.path }
    let co := { s.core with strands := tset s.core.strands sl st }
    { s with dev := { s.dev with cores := tset s.dev.cores c co }, core := co, strand := st, focus := none }

/-- Take a path into focus, if it exists. -/
def State.load (s : State) (c sl p : Nat) : Option State :=
  let s := s.flush
  let co := s.dev.coreAt c
  match tget co.strands sl with
  | none => none
  | some st =>
    match tget st.paths p with
    | none => none
    | some pa => some { s with core := co, strand := st, path := pa, focus := some (c, sl, p) }

def State.coreNo (s : State) : Nat := match s.focus with | some (c, _, _) => c | none => 0
def State.slotNo (s : State) : Nat := match s.focus with | some (_, sl, _) => sl | none => 0
def State.pathNo (s : State) : Nat := match s.focus with | some (_, _, p) => p | none => 0
def State.launch (s : State) : Launch := s.dev.launchAt s.strand.launch
def State.asid (s : State) : Nat := s.launch.asid
def State.partNo (s : State) : Nat := s.launch.part
def State.part (s : State) : Partition := s.dev.partAt s.partNo
def State.cohort (s : State) : Cohort := tgetD s.core.cohorts s.strand.cohort .empty
def State.setCohort (s : State) (x : Cohort) : State :=
  { s with core := { s.core with cohorts := tset s.core.cohorts s.strand.cohort x } }

/-- %clock: clocks since the partition was configured, but for those it has been saved for (R102, R350). -/
def Partition.now (p : Partition) (clock : Nat) : Nat := clock + p.ahead - p.clock0

def State.now (s : State) : Nat := s.part.now s.clock

/-- The paths of the strand in focus, that of the focus as it stands. -/
def State.paths (s : State) : Tbl Path := tset s.strand.paths s.pathNo s.path

/-- The strands of the core in focus, that of the focus as it stands. -/
def State.strands (s : State) : Tbl Strand := tset s.core.strands s.slotNo { s.strand with paths := s.paths }

/-- Act on another path of the strand in focus, then come back to the one in focus. -/
def State.withPath (s : State) (p : Nat) (f : State → State) : State :=
  match s.focus, tget s.strand.paths p with
  | some (c, sl, me), some q =>
    if p = me then f s
    else
      let s1 := f { s with strand := { s.strand with paths := s.paths }, path := q, focus := some (c, sl, p) }
      let ps := s1.paths
      { s1 with strand := { s1.strand with paths := ps }, path := tgetD ps me s.path, focus := some (c, sl, me) }
  | _, _ => s

/-! ### Control flow by early end: a meaning that stalls or traps ends with the state it leaves. -/

abbrev Ex := Except State

/-- The instruction does not issue: nothing changes (R21, R151). -/
def stall {α : Type} (s : State) : Ex α := .error s

/-- A meaning's outcome: always a next state. -/
def Ex.out : Ex State → Host.Outcome State Fault Refusal
  | .ok s => .next s
  | .error s => .next s

/-- A condition without which the instruction waits at issue. -/
def waitFor (b : Bool) (s : State) : Ex Unit := if b then .ok () else .error s

/-- Bytes of a quarry frame (R149). -/
def frameBytes (armature : Nat) : Nat := 128 * armature + 8192

/-! ### Records and the value pool -/

def Path.get (p : Path) : Name → Option Rec
  | .vec n => tget p.v n.val
  | .scl n => tget p.sc n.val

def Path.put (p : Path) (n : Name) (r : Rec) : Path :=
  match n with
  | .vec n => { p with v := tset p.v n.val r }
  | .scl n => { p with sc := tset p.sc n.val r }

def Path.del (p : Path) (n : Name) : Path :=
  match n with
  | .vec n => { p with v := tdel p.v n.val }
  | .scl n => { p with sc := tdel p.sc n.val }

/-- Put back what a name held. -/
def Path.restore (p : Path) (n : Name) : Option Rec → Path
  | some r => p.put n r
  | none => p.del n

/-- Live: reads are left, or its data has not arrived (R25). -/
def Rec.live (r : Rec) : Bool := r.count != some 0 || !r.pend.isEmpty

/-- Reads that can still be taken: none is as many as wanted (R22). -/
def Rec.has (r : Rec) (n : Nat) : Bool :=
  match r.count with
  | none => true
  | some k => n ≤ k

/-- Take n reads. -/
def Rec.take (r : Rec) (n : Nat) : Rec := { r with count := r.count.map (· - n) }

/-- Keep a record while it is live, and free it otherwise (R23). -/
def Path.settle (p : Path) (n : Name) (r : Rec) : Path := if r.live then p.put n r else p.del n

/-- Slabs of one vector record (R22). -/
def slabSize (width : Nat) (wide : Bool) : Nat := width / 32 * (if wide then 2 else 1)

/-- The storage that the paths of a strand hold, each once (R133), with its slabs. -/
def storages (st : Strand) : Tbl Nat :=
  st.paths.foldl (fun acc p => p.2.v.foldl (fun a r => tset a r.2.rid (slabSize st.width r.2.wide)) acc) []

/-- Slabs held by a strand; a spilled one holds none (R148). -/
def slabsHeld (st : Strand) : Nat := if st.spilled then 0 else (storages st).foldl (fun n e => n + e.2) 0

/-- Slabs free in the pool of a core (R12). -/
def slabsUsed (sts : Tbl Strand) : Nat := sts.foldl (fun n e => n + slabsHeld e.2) 0

def slabsFree (sts : Tbl Strand) : Nat := 2048 - slabsUsed sts

/-- Does the strand stand in the table of its core for its accesses alone, its last path having exited (R41, R90, R127)? -/
def Strand.gone (st : Strand) : Bool := st.paths.isEmpty

/-- The oldest resident strand, with its slot: lowest linear identifier (R146); of two launches' strands with the same one, that of
the lower slot (log entry 82). -/
def oldest (sts : Tbl Strand) : Option (Nat × Strand) :=
  sts.foldl (fun o e => if e.2.spilled || e.2.gone then o else
    match o with
    | none => some e
    | some x => if e.2.linear < x.2.linear then some e else o) none

/-- The plinth (R147). -/
def plinth (sts : Tbl Strand) : Nat :=
  match oldest sts with
  | none => 0
  | some x => x.2.armature - slabsHeld x.2

/-- Does an older resident strand wait for slabs, so that a stalled allocation of this one is not granted yet (R147)? -/
def olderStarved (sts : Tbl Strand) (linear : Nat) : Bool :=
  sts.any fun e => !e.2.spilled && e.2.linear < linear && e.2.paths.any (·.2.starved)

/-- Can the strand in focus be granted n slabs (R147)? The oldest strand within its armature is refused only when slabs are
lacking; anything else is served above the plinth; stalled allocations in ascending linear identifier. -/
def State.slabsOk (s : State) (n : Nat) : Bool :=
  let sts := s.strands
  let st := { s.strand with paths := s.paths }
  let isOld := match oldest sts with | some x => x.1 == s.slotNo | none => false
  if isOld && slabsHeld st + n ≤ s.strand.armature then n ≤ slabsFree sts
  else n + plinth sts ≤ slabsFree sts && !(s.path.starved && olderStarved sts s.strand.linear)

/-! ### Counts of the performance counters (R414) -/

def Core.count (c : Core) (i n : Nat) : Core := { c with pmc := tset c.pmc i ((tgetD c.pmc i 0 + n) % 2 ^ 64) }

/-! ### Interrupt signals (R381) -/

/-- The port that holds a semaphore. -/
def Device.holder (d : Device) (n : Nat) : Option Nat :=
  match tget d.sems n with
  | some x => if x.held then some x.port else none
  | none => none

/-- A vector as reset leaves it: masked, as the PCIe capability has it (log entry 88). -/
def MsixVec.reset : MsixVec := ⟨0, 0, true, false⟩

/-- An event of vector n on a port: it is signalled, or sets the pending bit of a masked vector. -/
def Device.send (d : Device) (port n : Nat) : Device :=
  let v := tgetD d.vectors (64 * port + n) .reset
  if v.masked then { d with vectors := tset d.vectors (64 * port + n) { v with pending := true } }
  else { d with msix := d.msix ++ [(port, n)] }

/-- A port writes a vector of its table: one that it unmasks is signalled when it is pending. -/
def Device.setVector (d : Device) (port n : Nat) (addr : Word) (data : BitVec 32) (masked : Bool) : Device :=
  let v := tgetD d.vectors (64 * port + n) .reset
  let d := { d with vectors := tset d.vectors (64 * port + n) ⟨addr, data, masked, v.pending && masked⟩ }
  if v.pending && !masked then d.send port n else d

/-- Vector 8p + q on the port of the partition's owner. -/
def Device.signal (d : Device) (p q : Nat) : Device :=
  match d.holder p with
  | some port => d.send port (8 * p + q)
  | none => d

/-- Set a bit of PEVT, and signal vector 8p when it becomes set. -/
def Device.pevent (d : Device) (p bit : Nat) : Device :=
  let x := d.partAt p
  if x.pevt.getLsbD bit then d
  else (d.setPart p { x with pevt := x.pevt ||| BitVec.ofNat 6 (2 ^ bit) }).signal p 0

/-- Set a bit of DEVT, and signal vector 0 on the holder of semaphore 8, or on both ports. -/
def Device.devent (d : Device) (bit : Nat) : Device :=
  if d.devt.getLsbD bit then d
  else
    let ports := match d.holder 8 with | some p => [p] | none => [0, 1]
    ports.foldl (fun d p => d.send p 0) { d with devt := d.devt ||| BitVec.ofNat 6 (2 ^ bit) }

/-! ### The tracer (R403 to R407) -/

/-- The path byte of a packet (R404). -/
def pathByte (p : Path) : Nat := p.frag % 8 + 8 * p.slot.getD 0

def Debug.on (d : Debug) (bit : Nat) : Bool := d.ctl.getLsbD 0 && d.ctl.getLsbD bit

/-- Append bytes to the stream's ring (R407). -/
def streamBytes (m : Memory) (d : Debug) (bs : List Byte) : Memory :=
  let n := d.tsize.toNat
  if n = 0 then m
  else
    let off := d.twp.toNat % n
    let first := bs.take (n - off)
    (m.write (d.tbase.toNat + off) first).write d.tbase.toNat (bs.drop (n - off))

/-- Write one packet with what must go before it, or drop and count it (R406, R407). `body` gets the delta; `pc` is the
address for a PC packet; `mine` is the path, none for START and for packets of no path; `new` are paths it fixes. -/
def emit (m : Memory) (d : Debug) (clk : Nat) (clock : Nat) (slot byte : Nat) (mine : Option (Nat × Nat)) (pc : Word)
    (new : List (Nat × Nat)) (body : Nat → List Byte) : Memory × Debug × Bool :=
  let delta := clock - d.lastClk
  let syncn := (d.ctl.toNat / 2 ^ 16) % 256
  let loss := d.drops != 0
  let sync := loss || (syncn != 0 && syncn ≤ d.sinceSync) || 65535 < delta
  let known := if sync then [] else d.known
  let pcDue := match mine with | some k => !known.contains k | none => false
  let pre := (if loss then 0x50#8 :: leBytes 4 (min d.drops 0xFFFFFFFF) else []) ++
    (if sync then 0x10#8 :: leBytes 8 clk else []) ++
    (if pcDue then 0x70#8 :: BitVec.ofNat 8 slot :: BitVec.ofNat 8 byte :: leBytes 8 pc.toNat else [])
  let bs := pre ++ body (if sync then 0 else delta)
  if d.twp.toNat + bs.length - d.trd.toNat ≤ d.tsize.toNat then
    (streamBytes m d bs,
     { d with twp := d.twp + BitVec.ofNat 64 bs.length, lastClk := clock, drops := 0,
              sinceSync := (if sync then 0 else d.sinceSync) + (if pcDue then 2 else 1),
              known := known ++ (match mine with | some k => if known.contains k then [] else [k] | none => []) ++ new },
     false)
  else
    (m, { d with tloss := d.tloss + 1, drops := d.drops + 1 }, d.tloss == 0)

/-- The order of the packets of a clock (R405), of which `all` are among those of the core: ascending strand slot, then path byte, and a TRAP after
the packets of instructions of its path; packets that agree in this stay in the order in which they came. -/
def Packet.key (all : List Packet) (p : Packet) : Nat :=
  let trap := p.ty = 0x60
  let byte := if trap then all.foldl (fun b q => if q.clk = p.clk && q.slot = p.slot && q.byte % 16 = p.byte % 16 then max b q.byte else b) p.byte else p.byte
  (p.slot * 256 + byte) * 2 + if trap then 1 else 0

def insertPacket (all : List Packet) (p : Packet) : List Packet → List Packet
  | [] => [p]
  | q :: r => if p.clk < q.clk || (p.clk = q.clk && p.key all ≤ q.key all) then p :: q :: r else q :: insertPacket all p r

/-- The sectors of the stream's ring that the tracer of a core has just written leave the copies of its die, which its stores would have
changed as memory (R207, R407). -/
def Device.traced (d : Device) (core part : Nat) (before after : Debug) : Device :=
  let n := after.twp.toNat - before.twp.toNat
  let secs := (List.range n).map fun i => part * 2 ^ 128 + (after.tbase.toNat + (before.twp.toNat + i) % after.tsize.toNat) / 32
  let di := d.dieAt (dieOf core)
  d.setDie (dieOf core) { di with copies := di.copies.filter fun e => !secs.contains e.1 }

/-- Write one packet; one of type 0 is not written, and only fixes paths; one of type 0x10 is the SYNC packet that a stream starts with
(R403). A START packet, written or not, ends what the stream knew of earlier strands of its slot (R406). -/
def writePacket (core : Nat) (acc : Device × Debug) (p : Packet) : Device × Debug :=
  let acc := if p.starts then (acc.1, { acc.2 with known := acc.2.known.filter (·.1 != p.slot) }) else acc
  let now := (acc.1.partAt p.part).now p.clk
  if p.ty = 0 then (acc.1, { acc.2 with known := acc.2.known ++ p.new })
  else if p.ty = 0x10 then
    let g := { acc.2 with twp := acc.2.twp + 9 }
    ((({ acc.1 with mem := streamBytes acc.1.mem acc.2 (0x10#8 :: leBytes 8 now) }) : Device).traced core p.part acc.2 g, g)
  else
  let r := emit acc.1.mem acc.2 now p.clk p.slot (p.byte % 16) p.mine p.pc p.new
    fun delta => BitVec.ofNat 8 p.ty :: leBytes 2 delta ++ p.rest
  let dev := ({ acc.1 with mem := r.1 } : Device).traced core p.part acc.2 r.2.1
  (if r.2.2 then dev.pevent p.part 1 else dev, r.2.1)

/-- Does the stack of a place hold its accesses back (R237)? -/
def Device.paused (d : Device) (p : Nat) : Bool :=
  spaceOf p == 0 && match tget d.hbmStacks (stackOf p) with | some x => x.refresh.isSome && !x.fenced | none => false

/-- The packets of the clock that ends enter the streams of their cores, once the stack of the buffer takes writes (R237, R405, R407). -/
def Device.writePackets (d : Device) : Device :=
  d.cores.foldl (fun d c => match c.2.dbg.buf with
    | [] => d
    | b :: bs =>
      if d.paused c.2.dbg.tbase.toNat then d else
      let r := ((b :: bs).foldr (insertPacket (b :: bs)) []).foldl (writePacket c.1) (d, { c.2.dbg with buf := [] })
      { r.1 with cores := tset r.1.cores c.1 { c.2 with dbg := r.2 } }) d

/-- A packet of the path in focus: first byte, path-byte bits 6:4, the bytes after the path byte. `mine` is the path that must be known
to the stream before it. Where its kind is not traced, the paths that it creates need no PC packet all the same: they did not exist before
the last SYNC or LOSS (R416). -/
def State.traceAs (s : State) (mine : Option Nat) (bit ty hi : Nat) (pc : Word) (new : List Nat) (rest : List Byte) : State :=
  let d := s.core.dbg
  let on := d.on bit
  if d.on 0 && d.slots.getLsbD s.slotNo && (on || !new.isEmpty) then
    let b := pathByte s.path + 16 * hi
    let p : Packet := {
      part := s.partNo, slot := s.slotNo, byte := b, mine := mine.map fun p => (s.slotNo, p), pc := pc
      new := new.map fun p => (s.slotNo, p), ty := if on then ty else 0
      rest := [BitVec.ofNat 8 s.slotNo, BitVec.ofNat 8 b] ++ rest, clk := s.clock, starts := false }
    { s with core := { s.core with dbg := { d with buf := d.buf ++ [p] } } }
  else s

/-- The same of the path in focus itself. -/
def State.trace (s : State) (bit ty hi : Nat) (pc : Word) (new : List Nat) (rest : List Byte) : State :=
  s.traceAs (some s.pathNo) bit ty hi pc new rest

/-- The summary and the non-empty mask words of a lane set, as packets 0x33 and 0x36 carry them (R129, R404). -/
def laneBytes (m : LaneSet) : List Byte :=
  let words := (List.range 32).map fun j => (m.extractLsb' (32 * j) 32).toNat
  let summary := (List.range 32).foldl (fun n j => n + (if words.getD j 0 = 0 then 0 else 2 ^ j)) 0
  leBytes 4 summary ++ (words.filter (· != 0)).flatMap (leBytes 4)

/-! ### Block headers (R30) -/

def hdrMarker (h : Word) : Nat := (h.extractLsb' 58 6).toNat
def hdrLen (h : Word) : Nat := (h.extractLsb' 48 10).toNat
def hdrRcv (h : Word) : BitVec 16 := h.extractLsb' 32 16
def hdrLive (h : Word) : BitVec 8 := h.extractLsb' 16 8
def hdrSlive (h : Word) : BitVec 4 := h.extractLsb' 12 4
def hdrPf (h : Word) : Nat := (h.extractLsb' 8 4).toNat
def hdrIdem (h : Word) : Bool := h.getLsbD 0
def hdrJoinb (h : Word) : Bool := h.getLsbD 1
def hdrFragt (h : Word) : Bool := h.getLsbD 2
def hdrNosplit (h : Word) : Bool := h.getLsbD 3
def hdrBterm (h : Word) : Bool := h.getLsbD 4

/-- The reserved bits of a header: 31:24 and 7:5. -/
def hdrReserved (h : Word) : Bool := h.extractLsb' 24 8 != 0 || h.extractLsb' 5 3 != 0

/-- A virtual address as a number: 57 bits (R20). -/
def va57 (a : Word) : Nat := a.toNat % 2 ^ 57

/-- The reconvergence block's header of a block, none for RCV 0 (R30). -/
def Block.rcv (b : Block) : Option Word :=
  if hdrRcv b.hdr = 0 then none else some (b.base + ((hdrRcv b.hdr).signExtend 64 <<< 3))

/-- The address after a block, where the next one's header lies (R31). Its words may be fewer than LEN: the rest could not be fetched
yet (R344). -/
def Block.stop (b : Block) : Word := b.base + BitVec.ofNat 64 (8 * (hdrLen b.hdr + 1))

/-- Are all its words there? -/
def Block.whole (b : Block) : Bool := b.words.length == hdrLen b.hdr

/-- The word of a block at an address, if the address lies among its instruction words. -/
def Block.wordAt (b : Block) (pc : Word) : Option Word :=
  let off := (pc - b.base).toNat
  if off % 8 = 0 && 0 < off then b.words[off / 8 - 1]? else none

/-- Majors of format L (R46): 0x07, 0x0A, 0x15 and 0x36 to 0x39. -/
def isFormatL (w : Word) : Bool :=
  let m := (w.extractLsb' 58 6).toNat
  m == 0x07 || m == 0x0A || m == 0x15 || (0x36 ≤ m && m ≤ 0x39)

/-- Long-latency majors (R35). -/
def longMajor (m : Nat) : Bool :=
  m = 0x11 || m = 0x15 || m = 0x28 || m = 0x29 || m = 0x2C || m = 0x2D || m = 0x2E || (0x36 ≤ m && m ≤ 0x39)

/-- The major of an instruction word. -/
def majorOf (w : Word) : Nat := (w.extractLsb' 58 6).toNat

/-- The declared window of the instruction at an address: LA of a long-latency one (R36, R46). -/
def Block.laAt (b : Block) (pc : Word) : Nat :=
  match b.wordAt pc with
  | some w => if longMajor (majorOf w) then (w.extractLsb' 48 4).toNat else 0
  | none => 0

/-- Words an instruction takes. -/
def wordLen (w : Word) : Nat := if isFormatL w then 2 else 1

/-- The last instruction of a block, found by walking its words with the number of words as bound. -/
def lastInstr : List Word → Option Word
  | [] => none
  | [w] => some w
  | w :: x :: r =>
    if isFormatL w then (match r with | [] => some w | _ => lastInstr r) else lastInstr (x :: r)

/-! ### Raising a trap (R330, R331, R339, R340) -/

/-- Lowest cause among the faults of one instruction (R339). -/
def lowCause (fs : List LFault) : Nat := fs.foldl (fun c f => min c f.cause) 0xFF

def lowLane (fs : List LFault) : Nat := fs.foldl (fun c f => min c f.lane) 1023

/-- The trap of lane faults. -/
def laneTrap (pc : Word) (blk : Block) (done : BitVec 32) (win : Nat) (fs : List LFault) : Trap where
  cause := lowCause fs
  fpc := pc
  fdone := done
  faddr := fs.foldl (fun t f => tset t f.lane f.addr) []
  tcode := 0
  step := 0
  win := win
  lane := lowLane fs
  blk := blk
  rest := none
  joinCheck := false

/-- The trap of a whole path. -/
def pathTrap (cause : Nat) (pc : Word) (blk : Block) : Trap where
  cause := cause
  fpc := pc
  fdone := 0
  faddr := []
  tcode := 0
  step := 0
  win := 0
  lane := 0
  blk := blk
  rest := none
  joinCheck := false

/-- A path takes a trap: it stops at the faulting instruction until its entry comes (R340). A completed window that the instruction
stands in binds it and those after it when the trap returns (R37). -/
def Path.trapped (p : Path) (t : Trap) : Path :=
  { p with status := .trapped, trap := some { t with rest := p.window.filter fun w => w.complete && w.idx < w.la, joinCheck := p.joinCheck }, window := none }

/-- The window instructions of the long-latency instruction at an address that have completed in an earlier attempt (R38, R39). -/
def Path.doneAt (p : Path) (pc : Word) : BitVec 32 := match p.redo with | some r => if r.pc = pc then r.done else 0 | none => 0

/-- The trap of the whole path at its next instruction: a long-latency one declares a window, of which instructions may have
completed in an earlier attempt (R38, R39). -/
def Path.trapHere (p : Path) (cause : Nat) : Trap :=
  { pathTrap cause p.pc p.blk with
    win := p.blk.laAt p.pc
    fdone := p.doneAt p.pc }

/-- The window of the path is open and its long-latency instruction may still fault: nothing later may trap first (R38, R58). -/
def Path.windowOpen (p : Path) : Bool :=
  match p.window with
  | some w => !w.complete
  | none => false

/-- A fault of the instruction at the path's pc that traps the whole path: nothing of the instruction takes effect. Inside
an open window it is held until the long-latency instruction has completed (log entry 10). -/
def raise {α : Type} (cause : Nat) (s : State) : Ex α :=
  if s.path.windowOpen then .error s
  else .error { s with path := s.path.trapped (s.path.trapHere cause) }

/-- The same with %tcode, and with the step of R59. -/
def raiseWith {α : Type} (cause tcode step : Nat) (s : State) : Ex α :=
  if s.path.windowOpen then .error s
  else
    let t : Trap := { s.path.trapHere cause with tcode := tcode, step := step }
    .error { s with path := s.path.trapped t }

/-- The same with an address on every lane of the path (COPYERR, R286) or on the lanes given. -/
def raiseAddr {α : Type} (cause : Nat) (fs : List LFault) (s : State) : Ex α :=
  if s.path.windowOpen then .error s
  else
    let h := s.path.trapHere cause
    let t : Trap := { laneTrap s.path.pc s.path.blk h.fdone h.win fs with cause := cause }
    .error { s with path := s.path.trapped t }

/-- Cause codes (R330). -/
def cIllop := 0x01
def cHdr := 0x02
def cExname := 0x03
def cNamebusy := 0x04
def cCntjoin := 0x05
def cMaskeng := 0x06
def cAlign := 0x07
def cPage := 0x08
def cProt := 0x09
def cAtomio := 0x0A
def cRace := 0x0B
def cFetch := 0x0C
def cFragx := 0x0D
def cBarinit := 0x0E
def cAberr := 0x0F
def cCopyerr := 0x10
def cMemerr := 0x11
def cLinkerr := 0x12
def cTrapi := 0x14
def cBreak := 0x15
def cWatch := 0x16
def cPriv := 0x17
def cQueueerr := 0x18

/-- Free fragment index of the strand (R333). -/
def freeFrag (paths : Tbl Path) : Option Nat :=
  ((List.range 8).drop 1).find? fun k => !paths.any fun p => p.2.frag == k

/-- Fragment entries in use on the core: distinct (slot, index) pairs. -/
def fragEntries (sts : Tbl Strand) : Nat :=
  sts.foldl (fun n e => n + (((List.range 8).drop 1).filter fun k => e.2.paths.any fun p => p.2.frag == k).length) 0

/-- A new path stands in the order of the accesses that its parent made before it (R209). -/
def Strand.inherit (st : Strand) (parent child : Nat) : Strand :=
  { st with flights := st.flights.map fun f =>
      (f.1, if f.2.paths.contains parent then { f.2 with paths := f.2.paths ++ [child] } else f.2) }

/-- How the lanes of a fault wait: a page request for each distinct page when every one went through a host-demand entry
(R338), else the handler; WATCH in stop mode for the debugger (R412). `demand` lists page and port, `points` the points met. -/
def parkOrTrap (p : Path) (t : Trap) (demand : List (Nat × Nat)) (points : List Nat) : Path :=
  if !points.isEmpty then { p with
    status := .debug, window := none, redo := some ⟨t.fpc, t.fdone, t.win⟩, pass := p.pass ++ points.map fun n => (n, t.fpc) }
  else if demand.isEmpty then p.trapped t
  else { p with status := .pages demand [], trap := some t, window := none, redo := some ⟨t.fpc, t.fdone, t.win⟩ }

/-- A failure without the lanes on which it has been raised; none when no lane is left. -/
def Fail.cut (u : Nat) (ls : LaneSet) (f : Fail) : Option Fail :=
  if f.unit = u then
    let r := f.lanes.filter fun l => !ls.getLsbD l.lane
    if r.isEmpty then none else some { f with lanes := r }
  else some f

/-- The failure of a unit has been raised on some lanes at a reader, and no wait raises it there again (R238). -/
def Strand.clearFail (st : Strand) (u : Nat) (ls : LaneSet) : Strand :=
  { st with fails := st.fails.filterMap (Fail.cut u ls),
            counters := st.counters.map fun c => (c.1, { c.2 with units := c.2.units.map fun x =>
              { x with fails := x.fails.filterMap (Fail.cut u ls) } }) }

/-- Units and lanes with a failure that is not raised yet. -/
def Strand.failing (st : Strand) : List (Nat × Nat) :=
  (st.fails ++ st.counters.flatMap fun c => c.2.units.flatMap (·.fails)).flatMap fun f => f.lanes.map fun l => (f.unit, l.lane)

/-- A strand as it was before an instruction, without the failures that the instruction has raised. -/
def Strand.raised (st after : Strand) : Strand :=
  (st.failing.filter fun u => !after.failing.contains u).foldl (fun st u => st.clearFail u.1 (laneBit u.2)) st

/-- Lane faults of one instruction (R331 to R333). `s0` is the state before the instruction, with its reads restored; `s1` the
state after it, with its effect on the other lanes only. All lanes, NOSPLIT, no free entry or too few slabs: the path does not
split and takes the trap whole; FRAGT turns a missing entry into FRAGX. The done mask holds the window instructions that an earlier attempt completed as well
(R38, R39). -/
def splitLanes (s0 s1 : State) (pc : Word) (done : BitVec 32) (fs : List LFault) (demand : List (Nat × Nat))
    (points : List Nat) : Ex State :=
  if fs.isEmpty then .ok s1
  else if s0.path.windowOpen then .error s0
  else
    let l := ofLanes (fs.map (·.lane)) &&& s0.path.lanes
    let t := laneTrap pc s0.path.blk (done ||| s0.path.doneAt pc) (s0.path.blk.laAt pc) fs
    let reqs := s0.dev.pageReqs ++ demand.map fun d => (d.2, d.1)
    let whole : State := { s0 with
      path := parkOrTrap { s0.path with pc := pc } t demand points, strand := s0.strand.raised s1.strand
      dev := { s0.dev with pageReqs := reqs } }
    if l = s0.path.lanes || hdrNosplit s0.path.blk.hdr then .error whole
    else
      match freeFrag s0.paths, decide (fragEntries s0.strands < 64) with
      | some k, true =>
        let frag : Path := { s0.path with
          pc := pc, lanes := l, frag := k, slot := none, parent := some s0.pathNo, arms := []
          v := s0.path.v.filter fun e => l &&& ~~~e.2.absent != 0, sc := s0.path.sc.filter fun e => l &&& ~~~e.2.absent != 0
          rejoin := if hdrJoinb s0.path.blk.hdr then none else s0.path.blk.rcv
          masks := s0.path.masks.map fun m => (m.1, m.2 &&& l), last := 0, blocked := none }
        let frag := parkOrTrap frag t demand points
        let rest : Path := { s1.path with lanes := s1.path.lanes &&& ~~~l,
                                          masks := s1.path.masks.map fun m => (m.1, m.2 &&& ~~~l) }
        let st := { s1.strand with paths := tset s1.strand.paths s1.strand.next frag, next := s1.strand.next + 1 }
        let st := st.inherit s0.pathNo s1.strand.next
        let s2 := { s1 with path := rest, strand := st,
                            dev := { s1.dev with pageReqs := reqs } }
        if slabsUsed s2.strands ≤ slabsUsed s0.strands || slabsUsed s2.strands + plinth s2.strands ≤ 2048 then
          let s3 := { s2 with core := s2.core.count 5 1 }
          .ok (s3.trace 1 0x36 k pc [s1.strand.next] (laneBytes l))
        else .error whole
      | _, _ =>
        if hdrFragt s0.path.blk.hdr then
          .error { s0 with path := { s0.path with pc := pc }.trapped { t with cause := cFragx } }
        else .error whole

/-! ### Blocks and transfers (R31 to R33, R137, R335) -/

def codeKey (asid : Nat) (a : Word) : Nat := asid * 2 ^ 64 + va57 a

/-- Undo what the transferring instruction did to names. -/
def Path.undo (p : Path) (u : Undo) : Path :=
  let p := u.names.foldl (fun p e => p.restore e.1 e.2) p
  let p := match u.handler with | some t => { p with handler := some t } | none => p
  { p with walkers := u.walkers.foldl (fun t w => tset t w.1 w.2) p.walkers }

def Undo.nothing : Undo := ⟨[], [], none⟩

/-- A transfer to a word that is no header traps at the transferring instruction, which then has no effect (R33). -/
def Path.noHeader (p : Path) (origin : Word) (u : Undo) : Path :=
  ({ p.undo u with pc := origin }).trapped (pathTrap cHdr origin p.blk)

/-- Does a header fail a check on entry (R32)? -/
def Block.illHeader (b : Block) : Bool :=
  hdrLen b.hdr = 0 || hdrReserved b.hdr ||
    (hdrBterm b.hdr && (match lastInstr b.words with | some w => w.extractLsb' 58 6 != 0x31#6 | none => true))

/-- Can the check of a header on entry not be made yet: it sets BTERM, and the last instruction of its block has not been fetched (R32,
R344)? -/
def Block.untested (b : Block) : Bool :=
  hdrMarker b.hdr = 0x3F && hdrBterm b.hdr && !hdrReserved b.hdr && !b.whole

/-- Does a name of the group live in the table: names 16g to 16g + 15? -/
def groupLive (t : Tbl Rec) (g : Nat) : Bool := t.any fun e => e.1 / 16 = g && e.2.live

/-- LIVE and SLIVE of a header against the names that are live (R138). -/
def liveMatches (h : Word) (p : Path) : Bool :=
  ((List.range 8).all fun g => (hdrLive h).getLsbD g == groupLive p.v g) &&
  ((List.range 4).all fun g => (hdrSlive h).getLsbD g == groupLive p.sc g)

/-- A path enters a block and checks its header (R32). A fall-through onto a word that is no header traps there with HDR. -/
def Path.enter (p : Path) (b : Block) (fall : Bool) (origin : Word) (u : Undo) : Path :=
  if hdrMarker b.hdr ≠ 0x3F then
    if fall then ({ p with pc := b.base }).trapped (pathTrap cHdr b.base p.blk) else p.noHeader origin u
  else if b.illHeader then ({ p with pc := b.base }).trapped (pathTrap cIllop b.base p.blk)
  else { p with status := .ready, blk := b, pc := b.base + 8, asked := none }

/-- The LIVE and SLIVE check of a merged path at the header of its join, which is made before the path goes on from there: into the
block, to the join of an enclosing split that lies there too, or to a rejoin point. Where the header also fails a check of R32,
CNTJOIN wins: which does is not stated (R138, R139; log entry 117). -/
def Path.joinFails (p : Path) (b : Block) : Bool := p.joinCheck && hdrMarker b.hdr = 0x3F && !liveMatches b.hdr p

/-- Does a fragment of this path still have to come to this rejoin point (R335)? -/
def fragsAt (paths : Tbl Path) (me : Nat) (a : Word) : Bool :=
  paths.any fun q => q.2.frag != 0 && q.2.parent == some me && q.2.rejoin == some a

/-- The arms from the split on whose join lies at this address, innermost first. -/
def armsAt (splits : Tbl Split) (a : Word) : List (Nat × Bool) → Option (List (Nat × Bool))
  | [] => none
  | e :: r => if (tget splits e.1).any (·.join == a) then some (e :: r) else armsAt splits a r

/-- Has the path in focus issued in this clock? -/
def State.justIssued (s : State) : Bool :=
  s.core.nextClk == s.clock + 1 && s.core.lastSlot == s.slotNo && s.core.lastPath == s.pathNo

/-- Where the path in focus stops at a header, if it does: a parent waits at a rejoin point of its fragments (R335), a fragment
stops at its own, an arm at its join (R137). An arm that falls through arrives in the clock after its last instruction issues
(R415). -/
def State.halt (s : State) (a : Word) (fall : Bool) : Option Path :=
  let p := s.path
  if fragsAt s.paths s.pathNo a then some { p with pc := a, status := .rejoinWait }
  else if p.frag != 0 && p.rejoin == some a && s.strand.paths.any (fun q => some q.1 == p.parent) && p.arms.isEmpty then
    some { p with pc := a, status := .atRejoin }
  else match armsAt s.strand.splits a p.arms with
    | some (e :: r) => some { p with pc := a, arms := e :: r, status := .join e.1 (if fall && s.justIssued then s.clock + 1 else s.clock) }
    | _ => none

/-- Does an address lie in text that was loaded after what the path may fetch: it fetches it only after its `ifence` (R394)? -/
def Device.newText (d : Device) (asid : Nat) (p : Path) (a : Word) : Bool :=
  d.texts.any fun t => t.2.1 = asid && t.2.2.1 ≤ va57 a && va57 a < t.2.2.2 && (p.codeFrom < t.1 || p.codeOk < t.1)

/-- The block at an address as the path in focus finds it in the instruction buffer; an address with a bit of 63:57 set is fetched, which
raises FETCH (log entry 18). -/
def State.buffered (s : State) (a : Word) : Option Block :=
  if 2 ^ 57 ≤ a.toNat || s.dev.newText s.asid s.path a then none else tget s.core.ibuf (codeKey s.asid a)

/-- The path in focus comes to a block that lies in the buffer: it stops at its header, or enters it, once the block is whole where the
check of its header needs its last word. -/
def State.comeTo (s : State) (a : Word) (b : Block) (fall : Bool) (origin : Word) (u : Undo) : State :=
  match s.halt a fall with
  | some p => { s with path := p }
  | none => { s with path := if b.untested then { s.path with pc := a, status := .fetch a fall origin u } else s.path.enter b fall origin u }

/-- The path of the focus enters the header at an address, by fall-through or by a transfer from `origin`. A transfer looks at the
word there first (R33), and so does a merged path whose check is to be made (R138): they wait for the block to lie in the instruction
buffer. Then the path stops there or enters the block. -/
def State.goTo (s : State) (a : Word) (fall : Bool) (origin : Word) (u : Undo) : State :=
  if a.toNat % 8 ≠ 0 then { s with path := s.path.noHeader origin u }
  else match s.buffered a with
    | some b =>
      if !fall && hdrMarker b.hdr ≠ 0x3F then { s with path := s.path.noHeader origin u }
      else if s.path.joinFails b then
        { s with path := ({ s.path with pc := a, joinCheck := false }).trapped (pathTrap cCntjoin a s.path.blk) }
      else ({ s with path := { s.path with joinCheck := false } } : State).comeTo a b fall origin u
    | none =>
      match (if fall && !s.path.joinCheck then s.halt a fall else none) with
      | some p => { s with path := p }
      | none => { s with path := { s.path with pc := a, status := .fetch a fall origin u } }

/-! ### Completing an instruction -/

/-- Does a causal trial of the partition run: the clock of its end has not come (R410)? -/
def Partition.trialRuns (p : Partition) (clock : Nat) : Bool := match p.trial with | some t => clock < t | none => false

/-- The instruction has issued: the core's issue state (R151), the counter of instructions (R414), the causal trial's delay
(R410), and what makes a cohort no longer discardable (R349). -/
def State.issued (s : State) : State :=
  let major := match s.path.blk.wordAt s.path.pc with | some w => (w.extractLsb' 58 6).toNat | none => 0
  let idem := hdrIdem s.path.blk.hdr && major != 0x22 && major != 0x23 && major != 0x39
  let co := s.cohort
  let same := s.core.lastSlot == s.slotNo && s.core.lastPath == s.pathNo && s.core.nextClk == s.clock && s.core.run < 8
  let part := s.part
  let slow := part.trialRuns s.clock && !(part.ctlo ≤ s.path.pc && s.path.pc < part.cthi)
  let core := { (s.core.count 6 1) with
    lastSlot := s.slotNo, lastPath := s.pathNo, run := if same then s.core.run + 1 else 1, nextClk := s.clock + 1,
    idleFrom := s.clock,
    cohorts := if co.discardable && !idem then tset s.core.cohorts s.strand.cohort { co with discardable := false }
               else s.core.cohorts }
  { s with core := core, uid := s.uid + 1,
           path := { s.path with last := s.uid, pass := s.path.pass.filter (·.2 != s.path.pc), redo := none, blocked := none, starved := false,
                                 hold := if slow then s.clock + 1 + part.ctd.toNat % 64 else s.path.hold } }

/-- Mark the next window position as done, and close a window that has completed and run out (R36, R38). -/
def Path.windowStep (p : Path) : Path :=
  match p.window with
  | none => p
  | some w =>
    if w.idx < w.la then
      let w := { w with idx := w.idx + 1, done := w.done ||| BitVec.ofNat 32 (2 ^ w.idx) }
      { p with window := if w.complete && w.la ≤ w.idx then none else some w }
    else p

/-- Move the pc on by the instruction at it. -/
def Path.nextPc (p : Path) : Word :=
  p.pc + BitVec.ofNat 64 (8 * (match p.blk.wordAt p.pc with | some w => wordLen w | none => 1))

/-- Skip the window instructions whose done bits are set already (R39). -/
def Path.skipDone : Nat → Path → Path
  | 0, p => p
  | fuel + 1, p =>
    match p.window with
    | none => p
    | some w =>
      if w.idx < w.la && w.done.getLsbD w.idx then
        let win := if w.complete && w.la ≤ w.idx + 1 then none else some { w with idx := w.idx + 1 }
        Path.skipDone fuel { p with pc := p.nextPc, window := win }
      else p

/-- The path goes on after the instruction at its pc; off the end of the block it enters the next (R31), once its long-latency
instruction can no longer fault (R38). -/
def State.advance (s : State) : State :=
  let p := Path.skipDone 16 { s.path with pc := s.path.nextPc }
  let s := { s with path := p }
  if p.pc = p.blk.stop && !p.windowOpen then s.goTo p.pc true p.pc .nothing else s

/-- A short instruction has completed: it counts as issued, takes its place in an open window, and the path goes on. -/
def State.done (s : State) : State :=
  let s := s.issued
  ({ s with path := s.path.windowStep }).advance

/-- Is the instruction at the pc the last of its block (R86)? -/
def Path.atEnd (p : Path) : Bool := p.nextPc == p.blk.stop

/-! ### Taking an exception and returning from it (R339, R340, R96) -/

/-- A path enters handler mode at the handler's header: %cause, %fpc, %fdone, %faddr and %tcode hold the trap's values. -/
def State.takeTrap (s : State) (t : Trap) (h : Word) : State :=
  let s := s.trace 3 0x60 0 t.fpc [] (BitVec.ofNat 8 t.cause :: BitVec.ofNat 8 t.step :: leBytes 8 t.fpc.toNat)
  let p := { s.path with handler := some t, trap := none, redo := none, status := .ready, window := none, joinCheck := false }
  match s.buffered h with
  | some b => { s with path := if b.untested then { p with pc := h, status := .fetch h false h .nothing } else p.enter b false h .nothing }
  | none => { s with path := { p with pc := h, status := .fetch h false h .nothing } }

/-- Does the address name an instruction word of the block, fetched or not? -/
def Block.covers (b : Block) (pc : Word) : Bool :=
  let off := (pc - b.base).toNat
  off % 8 = 0 && 0 < off && off ≤ 8 * hdrLen b.hdr

/-- The done mask of a trap, without bits beyond the declared window (R38, R97). -/
def Trap.doneMask (t : Trap) : BitVec 32 := t.fdone &&& BitVec.ofNat 32 (2 ^ t.win - 1)

/-- Return to the trapped instruction, to be executed again with the window bits of %fdone (R39) and in the completed window that it
stands in (R37), or by a transfer from `origin` to the address itself when it is no instruction of the block the trap was taken
in. -/
def State.returnTo (s : State) (t : Trap) (origin : Word) : State :=
  let p := { s.path with handler := none }
  if t.blk.covers t.fpc then
    { s with path := { p with pc := t.fpc, blk := t.blk, status := .ready, window := t.rest, redo := some ⟨t.fpc, t.doneMask, t.win⟩ } }
  else ({ s with path := { p with joinCheck := t.joinCheck } }).goTo t.fpc false origin ⟨[], [], s.path.handler⟩

end Sys2Proof.Machine
end

