-- ==== Sys2Proof/Machine/Operands.lean ====
section
/-! DEFINITION. Reading source operands and writing destinations: counted reads (R23, R24), walkers (R43, R44), special
registers (R42), inline constants (R50), records (R22, R25 to R27), and the shapes of the register instructions (R69, R70). -/
namespace Sys2Proof.Machine

/-- An operand's value: one for every lane, or one per lane. -/
inductive Val where
  | one (w : Word)
  | per (ws : List Word)
  deriving DecidableEq, Repr

def Val.at (v : Val) (l : Nat) : Word :=
  match v with
  | .one w => w
  | .per ws => ws.getD l 0

/-- The 64 bits of a stride of 20 signed bits times an index. -/
def strideBy (t : BitVec 20) (i : Nat) : Word := t.signExtend 64 * BitVec.ofNat 64 i

/-- The address a walker yields (R43). -/
def Walker.addr (w : Walker) : Word := w.base + strideBy w.t0 w.i0 + strideBy w.t1 w.i1 + strideBy w.t2 w.i2

/-- A walker after a read (R43). -/
def Walker.step (w : Walker) : Walker :=
  if w.i0 + 1 ≠ w.c0 then { w with i0 := w.i0 + 1 }
  else if w.i1 + 1 ≠ w.c1 then { w with i0 := 0, e0 := true, i1 := w.i1 + 1 }
  else if w.i2 + 1 ≠ w.c2 then { w with i0 := 0, e0 := true, i1 := 0, e1 := true, i2 := w.i2 + 1 }
  else { w with i0 := 0, e0 := true, i1 := 0, e1 := true, i2 := 0, e2 := true }

/-- A walker that the window's instruction read, as it would stand had that not issued, goes on with the path's own (R38). -/
def Window.onWalker (w : Window) (n : Nat) (f : Walker → Option Walker) : Window :=
  { w with walkers := w.walkers.filterMap fun e => if e.1 = n then (f e.2).map fun x => (n, x) else some e }

/-- Change a walker of the path (R43, R91 to R93); `f` says what the change makes of it, none for unset. -/
def Path.onWalker (p : Path) (n : Nat) (x : Option Walker) (f : Walker → Option Walker) : Path :=
  { p with walkers := (match x with | some x => tset p.walkers n x | none => tdel p.walkers n),
           window := p.window.map fun w => w.onWalker n f }

/-- A read of a walker moves it on (R44). -/
def Path.stepWalker (p : Path) (n : Nat) (x : Walker) : Path := p.onWalker n (some x.step) fun y => some y.step

/-- The cores a cohort occupies: its own, or the four of its quad (R140). -/
def State.cohortCores (s : State) : List Core :=
  let here : Core := { s.core with strands := tset s.core.strands s.slotNo s.strand }
  if s.cohort.quad then
    (List.range 4).map fun i =>
      let c := 4 * quadOf s.coreNo + i
      if c = s.coreNo then here else s.dev.coreAt c
  else [here]

/-- Strands of a cohort on one core that are attached to at least one tag. -/
def Core.attachedOf (c : Core) (launch key : Nat) : Nat :=
  (c.strands.filter fun e => e.2.launch == launch && e.2.cohort == key && !e.2.gone &&
    (e.2.tagsCore != 0 || e.2.tagsQuad != 0)).length

/-- %csize: strands of the cohort attached to at least one tag (R175), as they were before the changes of this clock (R102). -/
def State.csize (s : State) : Nat :=
  (s.cohortCores.map fun c =>
    match (tgetD c.cohorts s.strand.cohort .empty).csPrev with
    | some (t, n) => if t = s.clock then n else c.attachedOf s.strand.launch s.strand.cohort
    | none => c.attachedOf s.strand.launch s.strand.cohort).foldl (· + ·) 0

/-- The strand in focus attaches, detaches or ends: what %csize reads in this clock is kept (R102). -/
def State.noteCsize (s : State) : State :=
  let co := s.cohort
  match co.csPrev with
  | some (t, _) => if t = s.clock then s else keep co
  | none => keep co
where
  keep (co : Cohort) : State :=
    s.setCohort { co with csPrev := some (s.clock, ({ s.core with strands := s.strands }).attachedOf s.strand.launch s.strand.cohort) }

/-- A special register as a source (R42). -/
def State.special (s : State) (n : Fin 16) : Val :=
  match n.val with
  | 0 => .per ((List.range s.strand.width).map fun l => BitVec.ofNat 64 l)
  | 1 => .one (BitVec.ofNat 64 s.strand.width)
  | 2 => .one (BitVec.ofNat 64 s.slotNo)
  | 3 => .one (BitVec.ofNat 64 s.strand.number)
  | 4 => .one (BitVec.ofNat 64 s.csize)
  | 5 => .one (BitVec.ofNat 64 (s.coreNo % 128))
  | 6 => .one (BitVec.ofNat 64 (quadOf s.coreNo % 32))
  | 7 => .one (BitVec.ofNat 64 (dieOf s.coreNo))
  | 8 => .one (BitVec.ofNat 64 s.partNo)
  | 9 => .one (BitVec.ofNat 64 s.path.frag)
  | 10 => .one (BitVec.ofNat 64 s.now)
  | 11 => .one (BitVec.ofNat 64 s.core.chan0.wp)
  | 12 => .one (BitVec.ofNat 64 s.core.chan1.wp)
  | 13 => .one (match s.path.handler with | some t => BitVec.ofNat 64 t.cause | none => 0)
  | 14 => .one (match s.path.handler with | some t => t.fpc | none => 0)
  | _ => .per ((List.range s.strand.width).map fun l =>
      match s.path.handler with | some t => tgetD t.faddr l 0 | none => 0)

/-- The value of a record: for a vector one per lane, for a scalar one for all. -/
def Rec.val (r : Rec) : Name → Val
  | .vec _ => .per r.vals
  | .scl _ => .one (r.vals.headD 0)

/-- The counted names among sources (R23). -/
def srcName : Src → Option Name
  | .vec n => some (.vec n)
  | .scl n => some (.scl n)
  | _ => none

def scName : SC → Option Name
  | .scl n => some (.scl n)
  | .const _ => none

def afName : AField → Option Name
  | .scl n => some (.scl n)
  | .const _ => none

/-- Has every counted name its record, with as many reads left as are made of it (R24)? -/
def Path.hasReads (p : Path) (ns : List Name) : Bool :=
  ns.all fun n => match p.get n with | some r => r.has (ns.count n) && r.count != some 0 | none => false

/-- Is the data of every name present (R21)? -/
def Path.present (p : Path) (ns : List Name) : Bool :=
  ns.all fun n => match p.get n with | some r => r.pend.isEmpty | none => true

/-- Use up one read of each name, freeing records whose last read is taken. -/
def Path.takeReads (p : Path) (ns : List Name) : Path :=
  ns.foldl (fun p n => match p.get n with | some r => p.settle n (r.take 1) | none => p) p

/-- Lanes among `en` whose data is absent (EXNAME, R336) or was lost (R238) in one of the names. -/
def Path.laneFaults (p : Path) (ns : List Name) (w : Nat) (en : LaneSet) : List LFault :=
  ns.flatMap fun n => match p.get n with
    | some r =>
      ((lanesOf w (r.absent &&& en)).map fun l => ⟨l, cExname, 0⟩) ++ r.failed.filter fun f => en.getLsbD f.lane
    | none => []

/-- Failures that the reads of the names raise on lanes among `en` are raised, of each lane that of the unit it lost its data by (R238). -/
def State.clearFails (s : State) (ns : List Name) (en : LaneSet) : State :=
  ns.foldl (fun s' n => match s.path.get n with
    | some r => (r.units.filter fun e => en.getLsbD e.1 && r.failed.any (·.lane == e.1)).foldl
        (fun (s' : State) e => { s' with strand := s'.strand.clearFail e.2 (laneBit e.1) }) s'
    | none => s') s

/-- Are all walkers named set (R44)? -/
def Path.walkersSet (p : Path) (ws : List (Fin 8)) : Bool := ws.all fun w => (tget p.walkers w.val).isSome

def srcWalkers (srcs : List (Src × Ty)) : List (Fin 8) :=
  srcs.filterMap fun e => match e.1 with | .walker w => some w | _ => none

/-- Values of sources in order; a walker read twice yields two addresses (R44). -/
def readVals (s : State) : List (Src × Ty) → Path → List Val × Path
  | [], p => ([], p)
  | (src, t) :: r, p =>
    let (v, p) : Val × Path := match src with
      | .vec n => (match s.path.get (.vec n) with | some x => x.val (.vec n) | none => .one 0, p)
      | .scl n => (match s.path.get (.scl n) with | some x => x.val (.scl n) | none => .one 0, p)
      | .walker w => (match tget p.walkers w.val with
          | some x => (.one x.addr, p.stepWalker w.val x)
          | none => (.one 0, p))
      | .special n => (s.special n, p)
      | .const c => (.one (constVal t c), p)
    let q := readVals s r p
    (v :: q.1, q.2)

/-- Check, then take, the counted reads of an instruction (R24): EXNAME with no effect, a stall while data is missing. Answers the
values, the lanes among `en` that fault on a name, and the state with the reads taken. `more` are counted reads whose values
are not wanted here. EXNAME of one name is raised before the data of another is waited for: which comes first is not stated (log
entry 116). -/
def readSrcs (srcs : List (Src × Ty)) (more : List Name) (en : LaneSet) (s : State) :
    Ex (List Val × List LFault × State) :=
  let ns := srcs.filterMap (fun e => srcName e.1) ++ more
  if !s.path.hasReads ns || !s.path.walkersSet (srcWalkers srcs) then raise cExname s
  else if !s.path.present ns then stall s
  else
    let q := readVals s srcs s.path
    let fs := s.path.laneFaults ns s.strand.width en
    let s1 := if fs.isEmpty then s else s.clearFails ns en
    .ok (q.1, fs, { s1 with path := q.2.takeReads ns })

/-- The count of a record from its count field (R22). -/
def countOf (c : BitVec 4) : Option Nat := if c = 15 then none else some c.toNat

def low32 (w : Word) : Word := w &&& 0xFFFFFFFF#64

/-- A value at the width of its record. -/
def fit (wide : Bool) (w : Word) : Word := if wide then w else low32 w

/-- A new record. -/
def newRec (s : State) (wide : Bool) (cnt : BitVec 4) (vals : List Word) (pc : Word) : Rec where
  rid := s.uid
  wide := wide
  count := countOf cnt
  vals := vals
  pend := []
  absent := 0
  failed := []
  units := []
  maker := pc

/-- The name a destination creates a record for, with its count field. -/
def destName : Dest → Option (Name × BitVec 4)
  | .sink => none
  | .vec n c => some (.vec n, c)
  | .scl n c => some (.scl n, c)

/-- Can the destination be written: NAMEBUSY where it is live once the reads are taken (R25, R70), a stall while slabs are
lacking (R29). `s0` is the state before the instruction. -/
def checkDest (d : Dest) (wide : Bool) (s0 s : State) : Ex Unit :=
  match d with
  | .sink => .ok ()
  | .vec n _ =>
    if (s.path.get (.vec n)).any Rec.live then raise cNamebusy s0
    else if s.slabsOk (slabSize s.strand.width wide) then .ok ()
    else .error { s0 with path := { s0.path with starved := true } }
  | .scl n _ => if (s.path.get (.scl n)).any Rec.live then raise cNamebusy s0 else .ok ()

/-- Create the destination's record: for a vector the value of each enabled lane and zero elsewhere (R27), for a scalar one
value. -/
def writeDest (d : Dest) (wide : Bool) (en : LaneSet) (f : Nat → Word) (s : State) : State :=
  match d with
  | .sink => s
  | .vec n c =>
    let vals := (List.range s.strand.width).map fun l => if en.getLsbD l then fit wide (f l) else 0
    { s with path := s.path.put (.vec n) (newRec s wide c vals s.path.pc), uid := s.uid + 1 }
  | .scl n c =>
    { s with path := s.path.put (.scl n) (newRec s wide c [fit wide (f 0)] s.path.pc), uid := s.uid + 1 }

/-- The lanes an instruction with this destination acts on: once per path for a scalar, the mask's lanes otherwise (R69). -/
def State.enabled (s : State) (d : Dest) (m : Fin 16) : LaneSet := if d.isScl then s.path.lanes else s.path.mask m

/-- Lanes without those that fault. -/
def without (en : LaneSet) (fs : List LFault) : LaneSet := en &&& ~~~(ofLanes (fs.map (·.lane)))

/-- A register instruction (R69, R70): reads, then its destination, lane by lane. `f` gets the lane and the values of its
sources on it. -/
def regOpL (d : Dest) (m : Fin 16) (wide : Bool) (srcs : List (Src × Ty)) (f : Nat → List Word → Word) (s : State) :
    Ex State := do
  let en := s.enabled d m
  let r ← readSrcs srcs [] en s
  checkDest d wide s r.2.2
  let s2 := writeDest d wide (without en r.2.1) (fun l => f l (r.1.map (·.at l))) r.2.2
  let s3 ← splitLanes s s2 s.path.pc 0 r.2.1 [] []
  .ok s3.done

/-- The same where the lane's number plays no part. -/
def regOp (d : Dest) (m : Fin 16) (wide : Bool) (srcs : List (Src × Ty)) (f : List Word → Word) (s : State) : Ex State :=
  regOpL d m wide srcs (fun _ => f) s

/-- An instruction that writes a mask register from counted sources (R78, R79). -/
def maskOp (md : Fin 16) (m : Fin 16) (srcs : List (Src × Ty)) (f : List Word → Bool) (s : State) : Ex State := do
  let en := s.path.mask m
  let r ← readSrcs srcs [] en s
  let good := without en r.2.1
  let bits := ofLanes ((lanesOf s.strand.width good).filter fun l => f (r.1.map (·.at l)))
  let s2 := { r.2.2 with path := r.2.2.path.setMask md bits }
  let s3 ← splitLanes s s2 s.path.pc 0 r.2.1 [] []
  .ok s3.done

/-- An instruction that reads scalars or constants, once for its path, and acts with their values, after lanes that lack one have
left the path (R331, R336). -/
def scalarOp (srcs : List (Src × Ty)) (act : List Word → State → Ex State) (s : State) : Ex State := do
  let r ← readSrcs srcs [] s.path.lanes s
  let s1 ← splitLanes s r.2.2 s.path.pc 0 r.2.1 [] []
  act (r.1.map (·.at 0)) s1

/-- Sweeps of a vector instruction: mask words with an enabled lane (R130). -/
def sweeps (w : Nat) (m : LaneSet) : Nat := ((List.range (w / 32)).filter fun j => m.extractLsb' (32 * j) 32 != 0).length

def scSrc : SC → Src
  | .scl n => .scl n
  | .const c => .const c

/-- A scalar destination written with one value. -/
def setScalar (d : Dest) (wide : Bool) (x : Word) (s0 s : State) : Ex State := do
  checkDest d wide s0 s
  .ok (writeDest d wide s.path.lanes (fun _ => x) s)

end Sys2Proof.Machine
end

