-- ==== Sys2Proof/Machine/Flags.lean ====
section
/-! DEFINITION. Conditions. The machine has no flag register (R72, R113): what a comparison, a class test or a vote finds goes into
mask bits or into a record. Here are the integer and float conditions and the classes. -/
namespace Sys2Proof.Machine

/-- The unsigned value of a source at the width of a type (R71). -/
def natAt (t : Ty) (x : Word) : Nat := x.toNat % 2 ^ t.bits

/-- The two's complement value at that width. -/
def sintAt (t : Ty) (x : Word) : Int :=
  let n := natAt t x
  if n < 2 ^ (t.bits - 1) then (n : Int) else (n : Int) - (2 ^ t.bits : Nat)

/-- The value of a source in its type: signed for i types (R74). -/
def intAt (t : Ty) (x : Word) : Int := if t.isSigned then sintAt t x else natAt t x

/-- A result formed at the width of the type, extended to its record (R71). -/
def extendTo (t : Ty) (n : Nat) : Word :=
  let n := n % 2 ^ t.bits
  if t.bits < 32 && t.isSigned && 2 ^ (t.bits - 1) ≤ n then BitVec.ofNat 64 (n + (2 ^ 32 - 2 ^ t.bits)) else BitVec.ofNat 64 n

/-- An exact integer narrowed to the type. -/
def narrow (t : Ty) (x : Int) : Word := extendTo t (x % (2 ^ t.bits : Nat)).toNat

/-- The integer conditions (R78); `uns` makes an i type compare unsigned. -/
def condInt (c : Cond) (t : Ty) (uns : Bool) (a b : Word) : Bool :=
  let x : Int := if uns then natAt t a else intAt t a
  let y : Int := if uns then natAt t b else intAt t b
  match c with
  | .eq => x == y
  | .ne => x != y
  | .lt => x < y
  | .le => x ≤ y
  | .gt => y < x
  | .ge => y ≤ x

/-- The float conditions (R161). -/
def condFloat (c : FCond) (a b : FVal) : Bool :=
  let ord := !a.isNan && !b.isNan
  match c with
  | .eq => eqV a b
  | .ne => !eqV a b
  | .lt => ltV a b
  | .le => ltV a b || eqV a b
  | .gt => ltV b a
  | .ge => ltV b a || eqV a b
  | .ord => ord
  | .uno => !ord

/-- The class bit of a code (R162). -/
def classBit (t : Ty) (c : Nat) : Nat :=
  match valueOf t c with
  | .nan => 8
  | .inf neg => if neg then 0 else 7
  | .fin neg m _ =>
    if t = .e8m0 then 6
    else if m = 0 then (if neg then 3 else 4)
    else if m < 2 ^ manBits t then (if neg then 2 else 5)
    else (if neg then 1 else 6)

end Sys2Proof.Machine
end

