-- ==== Sys2Proof/Machine/Integer.lean ====
section
/-! DEFINITION. Integer arithmetic, major 0x01, and its immediate forms, major 0x02 (R69 to R77). -/
namespace Sys2Proof.Machine

/-- One source. -/
def op1 (o : Op1) (f : Word → Word) (s : State) : Ex State :=
  regOp o.d o.mask o.ty.wide [(o.a, o.ty)] (fun v => f (v.getD 0 0)) s

/-- Two sources. -/
def op2 (o : Op2) (f : Word → Word → Word) (s : State) : Ex State :=
  regOp o.d o.mask o.ty.wide [(o.a, o.ty), (o.b, o.ty)] (fun v => f (v.getD 0 0) (v.getD 1 0)) s

/-- Three sources. -/
def op3 (o : Op3) (f : Word → Word → Word → Word) (s : State) : Ex State :=
  regOp o.d o.mask o.ty.wide [(o.a, o.ty), (o.b, o.ty), (o.c, o.ty)]
    (fun v => f (v.getD 0 0) (v.getD 1 0) (v.getD 2 0)) s

/-- The immediate of format I as the second source, sign-extended (R77). -/
def opI (o : OpI) (f : Word → Word → Word) (s : State) : Ex State :=
  regOp o.d o.mask o.ty.wide [(o.a, o.ty)] (fun v => f (v.getD 0 0) (o.imm.signExtend 64)) s

/-! ### Results on one lane (R74 to R76) -/

def aAdd (t : Ty) (a b : Word) : Word := narrow t (natAt t a + natAt t b)
def aSub (t : Ty) (a b : Word) : Word := narrow t ((natAt t a : Int) - natAt t b)
def aMul (t : Ty) (a b : Word) : Word := narrow t (natAt t a * natAt t b)
def aMulhi (t : Ty) (a b : Word) : Word := narrow t (intAt t a * intAt t b / (2 ^ t.bits : Nat))
def aMad (t : Ty) (a b c : Word) : Word := narrow t (natAt t a * natAt t b + natAt t c)
def aMin (t : Ty) (a b : Word) : Word := narrow t (min (intAt t a) (intAt t b))
def aMax (t : Ty) (a b : Word) : Word := narrow t (max (intAt t a) (intAt t b))
def aAbs (t : Ty) (a : Word) : Word := narrow t (intAt t a).natAbs
def aNeg (t : Ty) (a : Word) : Word := narrow t (-(natAt t a : Int))
def aAnd (t : Ty) (a b : Word) : Word := extendTo t (natAt t a &&& natAt t b)
def aOr (t : Ty) (a b : Word) : Word := extendTo t (natAt t a ||| natAt t b)
def aXor (t : Ty) (a b : Word) : Word := extendTo t (natAt t a ^^^ natAt t b)
def aNot (t : Ty) (a : Word) : Word := extendTo t (2 ^ t.bits - 1 - natAt t a)
def aAndn (t : Ty) (a b : Word) : Word := extendTo t (natAt t a &&& (2 ^ t.bits - 1 - natAt t b))

/-- The shift amount: bits 7:0 of b (R75). -/
def shAmt (b : Word) : Nat := b.toNat % 256

def aShl (t : Ty) (a b : Word) : Word := extendTo t (natAt t a * 2 ^ shAmt b)
def aShr (t : Ty) (a b : Word) : Word := extendTo t (natAt t a / 2 ^ shAmt b)
/-- Arithmetic shift, filling with bit w − 1 for every type. -/
def aSar (t : Ty) (a b : Word) : Word := narrow t (sintAt t a / (2 ^ shAmt b : Nat))
def aRotl (t : Ty) (a b : Word) : Word :=
  let n := shAmt b % t.bits
  extendTo t (natAt t a * 2 ^ n + natAt t a / 2 ^ (t.bits - n))

/-- The bits of a source, the least significant first. -/
def bitsOf (t : Ty) (a : Word) : List Bool := (List.range t.bits).map fun i => (natAt t a).testBit i
def ofBits (bs : List Bool) : Nat := bs.foldr (fun b n => (if b then 1 else 0) + 2 * n) 0

def aPopc (t : Ty) (a : Word) : Word := extendTo t ((bitsOf t a).count true)
def aClz (t : Ty) (a : Word) : Word := extendTo t ((bitsOf t a).reverse.takeWhile (!·)).length
def aCtz (t : Ty) (a : Word) : Word := extendTo t ((bitsOf t a).takeWhile (!·)).length
def aBrev (t : Ty) (a : Word) : Word := extendTo t (ofBits (bitsOf t a).reverse)

/-- Position and length of a field descriptor (R75), a source taken at the width (R71), and limited to it. -/
def fieldPos (t : Ty) (b : Word) : Nat := min (natAt t b % 256) t.bits
def fieldLen (t : Ty) (b : Word) : Nat := min (natAt t b / 256 % 256) (t.bits - fieldPos t b)

def aBfx (t : Ty) (a b : Word) : Word :=
  let l := fieldLen t b
  let f := natAt t a / 2 ^ fieldPos t b % 2 ^ l
  if l = 0 then 0
  else narrow t (if t.isSigned && 2 ^ (l - 1) ≤ f then (f : Int) - (2 ^ l : Nat) else f)

def aBfi (t : Ty) (a b c : Word) : Word :=
  let p := fieldPos t c
  let l := fieldLen t c
  let y := natAt t b
  extendTo t (y % 2 ^ p + (natAt t a % 2 ^ l) * 2 ^ p + y / 2 ^ (p + l) * 2 ^ (p + l))

def aSel (t : Ty) (a b c : Word) : Word := extendTo t (if natAt t c ≠ 0 then natAt t a else natAt t b)
/-- Quotient toward zero; all ones for a zero divisor (R76). -/
def aDivq (t : Ty) (a b : Word) : Word :=
  if natAt t b = 0 then extendTo t (2 ^ t.bits - 1) else narrow t (Int.tdiv (intAt t a) (intAt t b))
/-- Remainder with the sign of a; the dividend for a zero divisor (R76). -/
def aRemq (t : Ty) (a b : Word) : Word :=
  if natAt t b = 0 then extendTo t (natAt t a) else narrow t (Int.tmod (intAt t a) (intAt t b))
def aAddsat (t : Ty) (a b : Word) : Word := narrow t (clampInt t (intAt t a + intAt t b))
def aSubsat (t : Ty) (a b : Word) : Word := narrow t (clampInt t (intAt t a - intAt t b))

/-! ### Major 0x01 -/

abbrev Out := Host.Outcome State Fault Refusal

def execAdd (o : Op2) (s : State) : Out := (op2 o (aAdd o.ty) s).out
def execSub (o : Op2) (s : State) : Out := (op2 o (aSub o.ty) s).out
def execMul (o : Op2) (s : State) : Out := (op2 o (aMul o.ty) s).out
def execMulhi (o : Op2) (s : State) : Out := (op2 o (aMulhi o.ty) s).out
def execMad (o : Op3) (s : State) : Out := (op3 o (aMad o.ty) s).out
def execMin (o : Op2) (s : State) : Out := (op2 o (aMin o.ty) s).out
def execMax (o : Op2) (s : State) : Out := (op2 o (aMax o.ty) s).out
def execAbs (o : Op1) (s : State) : Out := (op1 o (aAbs o.ty) s).out
def execNeg (o : Op1) (s : State) : Out := (op1 o (aNeg o.ty) s).out
def execAnd (o : Op2) (s : State) : Out := (op2 o (aAnd o.ty) s).out
def execOr (o : Op2) (s : State) : Out := (op2 o (aOr o.ty) s).out
def execXor (o : Op2) (s : State) : Out := (op2 o (aXor o.ty) s).out
def execAndn (o : Op2) (s : State) : Out := (op2 o (aAndn o.ty) s).out
def execNot (o : Op1) (s : State) : Out := (op1 o (aNot o.ty) s).out
def execShl (o : Op2) (s : State) : Out := (op2 o (aShl o.ty) s).out
def execShr (o : Op2) (s : State) : Out := (op2 o (aShr o.ty) s).out
def execSar (o : Op2) (s : State) : Out := (op2 o (aSar o.ty) s).out
def execRotl (o : Op2) (s : State) : Out := (op2 o (aRotl o.ty) s).out
def execPopc (o : Op1) (s : State) : Out := (op1 o (aPopc o.ty) s).out
def execClz (o : Op1) (s : State) : Out := (op1 o (aClz o.ty) s).out
def execCtz (o : Op1) (s : State) : Out := (op1 o (aCtz o.ty) s).out
def execBrev (o : Op1) (s : State) : Out := (op1 o (aBrev o.ty) s).out
def execBfx (o : Op2) (s : State) : Out := (op2 o (aBfx o.ty) s).out
def execBfi (o : Op3) (s : State) : Out := (op3 o (aBfi o.ty) s).out
def execSel (o : Op3) (s : State) : Out := (op3 o (aSel o.ty) s).out
def execDivq (o : Op2) (s : State) : Out := (op2 o (aDivq o.ty) s).out
def execRemq (o : Op2) (s : State) : Out := (op2 o (aRemq o.ty) s).out
def execAddsat (o : Op2) (s : State) : Out := (op2 o (aAddsat o.ty) s).out
def execSubsat (o : Op2) (s : State) : Out := (op2 o (aSubsat o.ty) s).out

/-! ### Major 0x02 -/

def execAddi (o : OpI) (s : State) : Out := (opI o (aAdd o.ty) s).out
def execMuli (o : OpI) (s : State) : Out := (opI o (aMul o.ty) s).out
def execAndi (o : OpI) (s : State) : Out := (opI o (aAnd o.ty) s).out
def execOri (o : OpI) (s : State) : Out := (opI o (aOr o.ty) s).out
def execXori (o : OpI) (s : State) : Out := (opI o (aXor o.ty) s).out
def execShli (o : OpI) (s : State) : Out := (opI o (aShl o.ty) s).out
def execShri (o : OpI) (s : State) : Out := (opI o (aShr o.ty) s).out
def execSari (o : OpI) (s : State) : Out := (opI o (aSar o.ty) s).out
def execMini (o : OpI) (s : State) : Out := (opI o (aMin o.ty) s).out
def execMaxi (o : OpI) (s : State) : Out := (opI o (aMax o.ty) s).out

end Sys2Proof.Machine
end

