-- ==== Sys2Proof/Machine/Float.lean ====
section
/-! DEFINITION. Floating-point arithmetic, major 0x10, classes, 0x13, and small dot products, 0x14 (R152 to R154, R161 to R163,
R110 to R115, R121, R123). -/
namespace Sys2Proof.Machine

/-! ### One element, as codes of its type -/

def fAdd (t : Ty) (a b : Nat) : Nat := rne t (addV (valueOf t a) (valueOf t b))
def fSub (t : Ty) (a b : Nat) : Nat := rne t (addV (valueOf t a) (valueOf t b).flip)
def fMul (t : Ty) (a b : Nat) : Nat := rne t (mulV (valueOf t a) (valueOf t b))
/-- a × b + c in one rounding. A product of zeros keeps its sign in the sum (R112). -/
def fFma (t : Ty) (a b c : Nat) : Nat := rne t (addV (mulV (valueOf t a) (valueOf t b)) (valueOf t c))
def fMin (t : Ty) (a b : Nat) : Nat := rne t (minV (valueOf t a) (valueOf t b))
def fMax (t : Ty) (a b : Nat) : Nat := rne t (maxV (valueOf t a) (valueOf t b))
/-- The sign bit alone (R110). -/
def fAbs (t : Ty) (a : Nat) : Nat := a % 2 ^ (t.bits - 1)
def fNeg (t : Ty) (a : Nat) : Nat := (a + 2 ^ (t.bits - 1)) % 2 ^ t.bits
def fCopysign (t : Ty) (a b : Nat) : Nat := a % 2 ^ (t.bits - 1) + b / 2 ^ (t.bits - 1) * 2 ^ (t.bits - 1)
def fClamp (t : Ty) (a b c : Nat) : Nat := fMin t (fMax t a b) c
def fMax3 (t : Ty) (a b c : Nat) : Nat := fMax t (fMax t a b) c
def fMin3 (t : Ty) (a b c : Nat) : Nat := fMin t (fMin t a b) c

/-! ### Major 0x10: every element of every lane -/

def fop1 (o : Op1) (f : Nat → Nat) (s : State) : Ex State := op1 o (eachElem o.ty f) s
def fop2 (o : Op2) (f : Nat → Nat → Nat) (s : State) : Ex State := op2 o (eachElem2 o.ty f) s
def fop3 (o : Op3) (f : Nat → Nat → Nat → Nat) (s : State) : Ex State := op3 o (eachElem3 o.ty f) s

def execFadd (o : Op2) (s : State) : Out := (fop2 o (fAdd o.ty) s).out
def execFsub (o : Op2) (s : State) : Out := (fop2 o (fSub o.ty) s).out
def execFmul (o : Op2) (s : State) : Out := (fop2 o (fMul o.ty) s).out
def execFma (o : Op3) (s : State) : Out := (fop3 o (fFma o.ty) s).out
def execFmin (o : Op2) (s : State) : Out := (fop2 o (fMin o.ty) s).out
def execFmax (o : Op2) (s : State) : Out := (fop2 o (fMax o.ty) s).out
def execFabs (o : Op1) (s : State) : Out := (fop1 o (fAbs o.ty) s).out
def execFneg (o : Op1) (s : State) : Out := (fop1 o (fNeg o.ty) s).out
def execFcopysign (o : Op2) (s : State) : Out := (fop2 o (fCopysign o.ty) s).out
def execFclamp (o : Op3) (s : State) : Out := (fop3 o (fClamp o.ty) s).out
def execFmax3 (o : Op3) (s : State) : Out := (fop3 o (fMax3 o.ty) s).out
def execFmin3 (o : Op3) (s : State) : Out := (fop3 o (fMin3 o.ty) s).out

/-! ### Major 0x13 -/

def elemCode (t : Ty) (x : Word) (j : Nat) : FVal := valueOf t (elemOf t x j)

def execFcmp (o : FcmpOp) (s : State) : Out :=
  (maskOp o.md o.mask [(o.a, o.ty), (o.b, o.ty)] (fun v =>
    condFloat o.cc (elemCode o.ty (v.getD 0 0) o.e.toNat) (elemCode o.ty (v.getD 1 0) o.e.toNat)) s).out

def elemIdx (e : Option (BitVec 3)) : Nat := match e with | some x => x.toNat | none => 0

def execFclass (o : FclassOp) (s : State) : Out :=
  (regOp o.d o.mask false [(o.a, o.ty)] (fun v =>
    BitVec.ofNat 64 (2 ^ classBit o.ty (elemOf o.ty (v.getD 0 0) (elemIdx o.e)))) s).out

def execFisnan (o : FisnanOp) (s : State) : Out :=
  (maskOp o.md o.mask [(o.a, o.ty)] (fun v => (elemCode o.ty (v.getD 0 0) (elemIdx o.e)).isNan) s).out

/-! ### Major 0x14: fused sums of products (R123, R163) -/

/-- The products of the elements, and the f32 addend, in one rounding to f32. -/
def dotFloat (t : Ty) (a b c : Word) : Word :=
  let ps := (List.range t.elems).map fun j => mulV (elemCode t a j) (elemCode t b j)
  BitVec.ofNat 64 (rne .f32 (sumV (ps ++ [valueOf .f32 (c.toNat % 2 ^ 32)])))

/-- Bytes 0 to 3, signed for i8, and the i32 addend, modulo 2^32. -/
def dotInt (t : Ty) (a b c : Word) : Word :=
  let byte := fun (x : Word) (j : Nat) => intAt t (x >>> (8 * j))
  narrow .n32 ((List.range 4).foldl (fun n j => n + byte a j * byte b j) (natAt .n32 c : Int))

def dotOp (o : Op3) (f : Word → Word → Word → Word) (s : State) : Ex State :=
  regOp o.d o.mask false [(o.a, o.ty), (o.b, o.ty), (o.c, if o.ty.isInt then .i32 else .f32)]
    (fun v => f (v.getD 0 0) (v.getD 1 0) (v.getD 2 0)) s

/-- A constant a or b of the integer form fills every byte (R163). -/
def fillBytes (src : Src) (x : Word) : Word :=
  match src with
  | .const _ => packElems .e4m3 (List.replicate 4 (x.toNat % 256))
  | _ => x

def execDot2 (o : Op3) (s : State) : Out := (dotOp o (dotFloat o.ty) s).out
def execDot4 (o : Op3) (s : State) : Out :=
  (dotOp o (fun a b c => if o.ty.isInt then dotInt o.ty (fillBytes o.a a) (fillBytes o.b b) c else dotFloat o.ty a b c) s).out
def execDot8 (o : Op3) (s : State) : Out := (dotOp o (dotFloat o.ty) s).out

end Sys2Proof.Machine
end

