-- ==== Sys2Proof/Machine/Convert.lean ====
section
/-! DEFINITION. Conversions, major 0x12 (R157 to R160). -/
namespace Sys2Proof.Machine

/-- `cvt` of one value (R158): element 0 of a float source; a packed result as element 0. -/
def cvtVal (dt st : Ty) (mode : RMode) (sat : Bool) (x : Word) : Word :=
  if dt.isInt then
    if st.isInt then (if sat then narrow dt (clampInt dt (intAt st x)) else narrow dt (intAt st x))
    else narrow dt (toInt dt mode (elemCode st x 0))
  else if st.isInt then BitVec.ofNat 64 (roundV dt mode sat (ofInt (intAt st x)))
  else BitVec.ofNat 64 (cvtFloat dt st mode sat (elemOf st x 0))

def execCvt (o : CvtOp) (s : State) : Out :=
  (regOp o.d o.mask o.dty.wide [(o.a, o.sty)] (fun v => cvtVal o.dty o.sty o.mode o.sat (v.getD 0 0)) s).out

/-- `cvtsc` (R159): the value times 2^(E − 127), in one rounding; E = 0xFF gives NaN. -/
def cvtscVal (dt st : Ty) (mode : RMode) (sat : Bool) (x e : Word) : Word :=
  BitVec.ofNat 64 (roundV dt mode sat (mulV (elemCode st x 0) (valueOf .e8m0 (e.toNat % 256))))

def execCvtsc (o : Cvt2Op) (s : State) : Out :=
  (regOp o.d o.mask o.dty.wide [(o.a, o.sty), (o.b, .i32)]
    (fun v => cvtscVal o.dty o.sty o.mode o.sat (v.getD 0 0) (v.getD 1 0)) s).out

/-- `cvtpk` (R160): the elements of a, then those of b. -/
def cvtpkVal (dt st : Ty) (mode : RMode) (sat : Bool) (a b : Word) : Word :=
  let half := fun (x : Word) => (List.range st.elems).map fun j => cvtFloat dt st mode sat (elemOf st x j)
  packElems dt (half a ++ half b)

def execCvtpk (o : Cvt2Op) (s : State) : Out :=
  (regOp o.d o.mask false [(o.a, o.sty), (o.b, o.sty)]
    (fun v => cvtpkVal o.dty o.sty o.mode o.sat (v.getD 0 0) (v.getD 1 0)) s).out

end Sys2Proof.Machine
end

