-- ==== Sys2Proof/Machine/Translate.lean ====
section
/-! DEFINITION. Address translation (R183, R184, R196 to R199) and its faults, and the watchpoints it checks (R411). -/
namespace Sys2Proof.Machine

/-- A translation: the place, its target class (R183), cache policy and race-detect attribute. -/
structure Trans where
  pa : Nat
  cls : Nat
  policy : Nat
  rd : Bool
  deriving DecidableEq, Repr

/-- A fault of a translation: its cause, and the page and port when a host-demand entry caused it (R338). -/
structure TFault where
  cause : Nat
  demand : Option (Nat × Nat)
  deriving DecidableEq, Repr

/-- Permissions an access needs (R197). -/
structure Need where
  r : Bool
  w : Bool
  x : Bool
  deriving DecidableEq, Repr

def bitN (x i : Nat) : Bool := x / 2 ^ i % 2 = 1
def fieldN (x lo n : Nat) : Nat := x / 2 ^ lo % 2 ^ n

/-- The place of a target address of a class (R183, R198): stacks, host memory behind a port, a device's fabric space, device
registers behind a port. -/
def classPlace (cls port dev a : Nat) : Nat :=
  match cls with
  | 0 | 1 => place 0 a
  | 2 => place (1 + port) a
  | 3 => place (5 + dev) a
  | _ => place (3 + port) a

/-- A found mapping: flags word as R198 and R199 lay out bits 10:0, device, target address. -/
structure Mapping where
  flags : Nat
  dev : Nat
  target : Nat
  deriving DecidableEq, Repr

/-- Is a range entry valid (R198): its V bit, class, policy and reserved bits, its bounds, and the low 12 bits, zero, of its base, limit
and offset? -/
def rangeOk (base limit off f : Nat) : Bool :=
  bitN f 0 && fieldN f 5 3 ≤ 4 && fieldN f 8 2 ≠ 3 && f < 2 ^ 25 && base < limit && base < 2 ^ 57 && base % 4096 = 0 &&
    limit % 4096 = 0 && off % 4096 = 0

/-- Does a table lie in a stack pair of the partition? One that does not holds no entry of it (R2, log entry 95). -/
def Partition.holdsTable (p : Partition) (a : Nat) : Bool := a < 2 ^ 40 && p.pairs.getLsbD (pairOf a)

/-- The range entry of an index, when it is valid and holds the access (R197, R198). -/
def rangeEntry (m : Memory) (a : Asid) (va size i : Nat) : Option Mapping :=
  let e := a.ranges + 32 * i
  let base := m.nat e 8
  let limit := m.nat (e + 8) 8
  let off := m.nat (e + 16) 8
  let f := m.nat (e + 24) 8
  if rangeOk base limit off f && base ≤ va && va + size ≤ limit then some ⟨f, fieldN f 11 14, (va + off) % 2 ^ 64⟩ else none

def rangeHit (p : Partition) (m : Memory) (a : Asid) (va size : Nat) : Option Mapping :=
  if p.holdsTable a.ranges then (List.range 64).findSome? (rangeEntry m a va size) else none

/-- The conditions on a page-table entry that no level sets aside (R199). -/
def entryOk (e : Nat) : Bool :=
  bitN e 0 && (fieldN e 5 3 ≤ 2 || fieldN e 5 3 = 4) && fieldN e 8 2 ≠ 3 && fieldN e 52 11 = 0

/-- The C16 group of a level-1 entry: 16 entries, equal but for rising frames, from a 64 KiB-aligned frame (R199). -/
def groupOk (m : Memory) (tbl idx e : Nat) : Bool :=
  let g := idx / 16 * 16
  let first := m.nat (tbl + 8 * g) 8
  let f := fieldN first 12 40
  f % 16 = 0 && (List.range 16).all fun i =>
    let x := m.nat (tbl + 8 * (g + i)) 8
    fieldN x 12 40 = f + i && x % 2 ^ 12 = e % 2 ^ 12 && x / 2 ^ 52 = e / 2 ^ 52

/-- The walk from a level down (R197, R199): PAGE where an entry is absent or invalid. -/
def walk (p : Partition) (m : Memory) (va : Nat) : Nat → Nat → Except TFault Mapping
  | 0, _ => .error ⟨cPage, none⟩
  | l + 1, tbl =>
    let idx := fieldN va (12 + 9 * l) 9
    let e := if p.holdsTable tbl then m.nat (tbl + 8 * idx) 8 else 0
    let leaf := bitN e 63
    let frame := fieldN e 12 40 * 4096
    let size := 2 ^ (12 + 9 * l)
    if !bitN e 0 then
      .error ⟨cPage, if fieldN e 5 3 = 2 then some (va / 4096 * 4096, fieldN e 10 1) else none⟩
    else if !entryOk e then .error ⟨cPage, none⟩
    else if leaf then
      if 3 ≤ l || frame % size ≠ 0 || (l = 0 && bitN e 11 && !groupOk m tbl idx e) then .error ⟨cPage, none⟩
      else .ok ⟨e % 2 ^ 11, 0, frame + va % size⟩
    else if l = 0 || fieldN e 1 3 ≠ 0 then .error ⟨cPage, none⟩
    else walk p m va l frame

/-- Does the partition own the stack pair of a stack address, is the address backed (R184), and outside the partition's overflow area, which
no mapping reaches (R363, log entry 121)? -/
def stackOk (p : Partition) (a : Nat) : Bool :=
  backed a && p.pairs.getLsbD (pairOf a) && !(p.ovfBase ≤ a && a < p.ovfBase + p.ovfSize)

/-- Does a range of physical addresses lie in stack pairs of the partition (R184, R380)? -/
def Partition.inPairs (p : Partition) (base size : Nat) : Bool :=
  base + size ≤ 2 ^ 40 && (List.range 8).all fun i => !(base < (i + 1) * 2 ^ 37 && i * 2 ^ 37 < base + size) || p.pairs.getLsbD i

/-- The local address that an entry of an export table grants to an access of n bytes from a device (R368). -/
def Export.grantsTo (e : Export) (p : Partition) (dev addr n : Nat) (r w : Bool) : Option Nat :=
  let a := e.local_ + (addr - e.base)
  if e.valid && e.base ≤ addr && addr + n ≤ e.limit && e.first ≤ dev && dev ≤ e.last && (!r || e.r) && (!w || e.w) && p.inPairs a n &&
      !(p.ovfBase < a + n && a < p.ovfBase + p.ovfSize) then
    some a
  else none

/-- Is a place in the fabric space of this device itself? -/
def isOwn (pa : Nat) : Bool := 5 ≤ spaceOf pa && spaceOf pa - 5 = Config.pkgNumber.toNat

/-- The place of a remote access (R368): one that names this device goes through an export table of its own; where none grants it, it
stays in the fabric space of the device, where nothing answers. -/
def Device.homeOf (d : Device) (pa n : Nat) (r w : Bool) : Nat :=
  if isOwn pa then
    (d.parts.findSome? fun p => p.2.exports.findSome? fun e =>
      e.2.grantsTo p.2 Config.pkgNumber.toNat (pa % 2 ^ 64) n r w).getD pa
  else pa

/-- Translate an aligned access (R197, steps 2 to 4). `cls` are the classes the instruction may reach; an atomic or reduction to
device registers or uncached raises ATOMIO (R183). -/
def translate (d : Device) (asid part va size : Nat) (need : Need) (cls : List Nat) (atomic : Bool) : Except TFault Trans :=
  match tget d.asids asid with
  | none => .error ⟨cPage, none⟩
  | some a =>
    let found : Except TFault Mapping :=
      if 2 ^ 57 ≤ va then .error ⟨cPage, none⟩
      else match rangeHit (d.partAt part) d.mem a va size with
        | some x => .ok x
        | none => walk (d.partAt part) d.mem va 5 a.root
    match found with
    | .error f => .error f
    | .ok x =>
      let c := fieldN x.flags 5 3
      let policy := fieldN x.flags 8 2
      let pa := d.homeOf (classPlace c (fieldN x.flags 10 1) x.dev x.target) size need.r need.w
      if (need.r && !bitN x.flags 1) || (need.w && !bitN x.flags 2) || (need.x && !bitN x.flags 3) then
        .error ⟨cProt, none⟩
      else if c ≤ 1 && !stackOk (d.partAt part) x.target then .error ⟨cProt, none⟩
      else if atomic && (c = 4 || policy = 2) then .error ⟨cAtomio, none⟩
      else if !cls.contains c then .error ⟨cProt, none⟩
      else .ok ⟨pa, c, policy, bitN x.flags 4 && c != 2 && c != 4⟩

/-- Alignment first (R197, step 1); natural for every global access (R243). -/
def translateAligned (d : Device) (asid part va size : Nat) (need : Need) (cls : List Nat) (atomic : Bool) :
    Except TFault Trans :=
  if va % size ≠ 0 then .error ⟨cAlign, none⟩ else translate d asid part va size need cls atomic

/-- The watchpoint that an access meets, those that it passes aside: its number and mode, true for trap (R411, R412). -/
def watchHit (p : Partition) (past : List Nat) (va size : Nat) (r w : Bool) : Option (Nat × Bool) :=
  (List.range 4).findSome? fun n => match tget p.wps n with
    | none => none
    | some (lo, hi, c) =>
      if va < hi.toNat && lo.toNat < va + size && ((r && c.getLsbD 0) || (w && c.getLsbD 1)) && !past.contains n then some (n, c.getLsbD 2)
      else none

end Sys2Proof.Machine
end

