-- ==== Sys2Proof/Machine/Access.lean ====
section
/-! DEFINITION. Global accesses: arrival counters and their units (R242), data delivered to records (R245), caches (R186, R187),
the order in which loads bind and stores are performed (R206 to R208, R228), releases and acquires (R206, R220), conflict tags
(R221 to R223), and partials of reductions (R125, R253, R363). These operations act on the package with no path in focus. -/
namespace Sys2Proof.Machine

/-! ### Counters -/

def Counter.empty : Counter := ⟨[], 0, false⟩
def Strand.counter (st : Strand) (k : Nat) : Counter := tgetD st.counters k .empty

/-- The outstanding value of a counter (R242). -/
def Strand.outstanding (st : Strand) (k : Nat) : Nat := (st.counter k).units.length

/-- A unit of one operation. -/
def CUnit.one (id : Nat) (pc : Word) : CUnit := ⟨id, id, 1, false, false, 0, pc, [], false⟩

def Strand.setCounter (st : Strand) (k : Nat) (c : Counter) : Strand := { st with counters := tset st.counters k c }

/-- Add a unit at the tail (R242). -/
def Strand.post (st : Strand) (k : Nat) (u : CUnit) : Strand :=
  let c := st.counter k
  st.setCounter k { c with units := c.units ++ [u] }

/-- Take a unit away again: its instruction had no effect. -/
def Strand.unpost (st : Strand) (k u : Nat) : Strand :=
  let c := st.counter k
  st.setCounter k { c with units := c.units.filter (·.id != u) }

/-- A unit is complete when its operations are and its batch, if it is one, is sealed (R242, R259). -/
def CUnit.complete (u : CUnit) : Bool := u.left == 0 && !u.open_

/-- Complete units at the head of a list retire (R242), with the failures they leave. -/
def retireUnits : List CUnit → List CUnit × List Fail
  | [] => ([], [])
  | u :: r => if u.complete then ((retireUnits r).1, u.fails ++ (retireUnits r).2) else (u :: r, [])

def Strand.retire (st : Strand) : Strand :=
  { st with counters := st.counters.map fun e => (e.1, { e.2 with
              units := (retireUnits e.2.units).1, pod := e.2.pod || (e.2.units.takeWhile CUnit.complete).any (·.pod) }),
            fails := st.fails ++ st.counters.flatMap fun e => (retireUnits e.2.units).2 }

/-- One operation of a unit completes, with the failures it had. -/
def Strand.complete (st : Strand) (u : Nat) (fs : List Fail) : Strand :=
  Strand.retire { st with counters := st.counters.map fun e => (e.1, { e.2 with units := e.2.units.map fun x =>
    if x.id = u then { x with left := x.left - 1, fails := x.fails ++ fs } else x }) }

/-! ### Strands in the package -/

def State.setCore (s : State) (c : Nat) (x : Core) : State := { s with dev := { s.dev with cores := tset s.dev.cores c x } }
def State.strandAt (s : State) (c sl : Nat) : Option Strand := tget (s.dev.coreAt c).strands sl

/-- Put a strand back; one that has ended leaves its slot once its accesses are over (R41, R90). -/
def State.setStrand (s : State) (c sl : Nat) (st : Strand) : State :=
  let co := s.dev.coreAt c
  s.setCore c { co with strands := if st.paths.isEmpty && st.flights.isEmpty then tdel co.strands sl else tset co.strands sl st }

/-- Act on the package with nothing in focus, then come back. -/
def State.onDev (s : State) (f : State → State) : State :=
  match s.focus with
  | some (c, sl, p) => let s1 := f s.flush; (s1.load c sl p).getD s1
  | none => f s

def Strand.flight (st : Strand) (f : Nat) : Option Flight := tget st.flights f

def AKind.isLoad : AKind → Bool
  | .load _ _ => true
  | _ => false

def AKind.isStore : AKind → Bool
  | .store _ => true
  | _ => false

def AKind.isAtomic : AKind → Bool
  | .atomic _ _ _ => true
  | _ => false

/-- Insert a flight by its place in the core's order. -/
def insertFlight (f : Nat × Flight) : List (Nat × Flight) → List (Nat × Flight)
  | [] => [f]
  | g :: r => if f.2.seq ≤ g.2.seq then f :: g :: r else g :: insertFlight f r

def sortFlights (fs : List (Nat × Flight)) : List (Nat × Flight) := fs.foldr insertFlight []

/-- Do two flights stand in the program order of one path? -/
def Flight.sharesPath (f g : Flight) : Bool := f.paths.any g.paths.contains

/-- Do two parts of accesses touch a common byte? -/
def overlaps (a n b m : Nat) : Bool := a < b + m && b < a + n

def LaneAcc.meets (a b : LaneAcc) : Bool := overlaps a.pa a.ty.size b.pa b.ty.size
def Flight.meets (f g : Flight) : Bool := f.accs.any fun a => g.accs.any a.meets
def LaneAcc.sector (a : LaneAcc) : Nat := a.pa / 32

/-- Is a lane's part of an access over: bound, performed or failed? -/
def LaneAcc.over (a : LaneAcc) : Bool := a.val.isSome || a.bad.isSome

/-- Accepted stores of a core that are not yet performed on every lane, in their order. -/
def Core.queuedStores (c : Core) : List (Nat × Flight) :=
  sortFlights (c.strands.flatMap fun e => e.2.flights.filter fun f => f.2.passed && f.2.kind.isStore && f.2.accs.any fun a => !a.over)

/-- Atomics and the additions of an `rflush`, which act at the home of their location. -/
def AKind.atHome : AKind → Bool
  | .atomic _ _ _ | .flush => true
  | _ => false

/-- Does an earlier access of its paths hold back a lane of a flight: an atomic or an addition to a common byte that is not performed
(R208, R219), for a load also an unbound load of the same sector (R228)? -/
def Strand.heldBack (st : Strand) (f : Flight) (a : LaneAcc) : Bool :=
  st.flights.any fun g => g.2.sharesPath f && g.2.unit < f.unit && g.2.accs.any fun b => !b.over &&
    ((g.2.kind.atHome && b.meets a) || (f.kind.isLoad && g.2.kind.isLoad && g.2.passed && b.sector = a.sector))

/-! ### Data delivered to records -/

/-- The data of an access reaches the lanes of a record that wait for it (R245); lanes whose access failed are left without
data (R238). -/
def Rec.deliver (r : Rec) (vec : Bool) (f unit : Nat) (val : Nat → Word) (bad : List LFault) : Rec :=
  match r.pend.find? (·.1 == f) with
  | none => r
  | some (_, ls) =>
    let mine := bad.filter fun b => !vec || ls.getLsbD b.lane
    let vals := if vec then (List.range r.vals.length).map fun l =>
        if ls.getLsbD l && !bad.any (·.lane == l) then fit r.wide (val l) else r.vals.getD l 0
      else [fit r.wide (val 0)]
    { r with vals := vals, pend := r.pend.filter (·.1 != f), failed := r.failed ++ mine,
             units := mine.foldl (fun t b => tset t b.lane unit) r.units }

/-- Every record of a path that waits; a record whose reads are used up is then freed (R28). -/
def Path.deliver (p : Path) (f unit : Nat) (val : Nat → Word) (bad : List LFault) : Path :=
  { p with v := (p.v.map fun e => (e.1, e.2.deliver true f unit val bad)).filter (·.2.live),
           sc := (p.sc.map fun e => (e.1, e.2.deliver false f unit val bad)).filter (·.2.live) }

def Strand.deliver (st : Strand) (f unit : Nat) (val : Nat → Word) (bad : List LFault) : Strand :=
  { st with paths := st.paths.map fun p => (p.1, p.2.deliver f unit val bad) }

/-- The access is over: its unit completes, with a failure on the lanes given, and it leaves the set in flight (R201). -/
def Strand.land (st : Strand) (id : Nat) (f : Flight) (bad : List LFault) : Strand :=
  let fs : List Fail := match f.ctr, bad with
    | some k, b :: r => [⟨f.unit, k, f.unit, lowCause (b :: r), b :: r, 0⟩]
    | _, _ => []
  ({ st with flights := tdel st.flights id }).complete f.unit fs

/-! ### Memory and caches -/

/-- Do accesses to the place complete with MEMERR (R237, R364)? -/
def Device.lost (d : Device) (p : Nat) : Bool :=
  spaceOf p == 0 && ((match tget d.hbmStacks (stackOf p) with | some x => x.fenced | none => false) || (d.dieAt (homeDie p)).l2Fault)

/-- Is a place on a device outside the domain (R368) or that no route reaches (R369), or in the fabric space of this device, where no export entry grants it
(R368)? -/
def Device.unreachable (d : Device) (p : Nat) : Bool :=
  5 ≤ spaceOf p && (d.cut.contains (spaceOf p - 5) || !Config.inDomain (spaceOf p - 5)) || isOwn p

/-- The cause a lane's part of an access fails with: its stack or its link is lost, or the ending says so. -/
def failCause (d : Device) (e : Ending) (a : LaneAcc) : Option Nat :=
  if d.lost a.pa then some cMemerr
  else if d.unreachable a.pa then some cLinkerr
  else match e with
    | .done => none
    | .memErr => some cMemerr
    | .linkErr => if 5 ≤ spaceOf a.pa then some cLinkerr else none
    | .race => if 5 ≤ spaceOf a.pa && a.rd then some cRace else none

/-- Do two lanes share one request to another device: one sweep, one 64-byte block (R369)? -/
def LaneAcc.sameRequest (a b : LaneAcc) : Bool := 5 ≤ spaceOf a.pa && a.lane / 32 = b.lane / 32 && a.pa / 64 = b.pa / 64

/-- The lanes that an event of an access befalls: those it names, all where it names none, and with a lost request all that share it. -/
def Flight.chosen (f : Flight) (ls : List Nat) (e : Ending) (a : LaneAcc) : Bool :=
  ls.isEmpty || ls.contains a.lane || (e == .linkErr && f.accs.any fun b => ls.contains b.lane && b.sameRequest a)

/-- The lanes an access of a flight stands for: all of the flight's for a scalar access, its own otherwise. -/
def Flight.lanesFor (f : Flight) (w : Nat) (a : LaneAcc) : List Nat :=
  if f.accs.length = 1 then lanesOf w f.lanes else [a.lane]

/-- The faults of the lanes that failed; a scalar access fails for every lane of its path. -/
def Flight.failed (f : Flight) (w : Nat) : List LFault :=
  f.accs.flatMap fun a => match a.bad with
    | none => []
    | some c => (f.lanesFor w a).map fun l => ⟨l, c, a.va⟩

/-- Is the access over on every lane? -/
def Flight.over (f : Flight) : Bool := f.accs.all LaneAcc.over

/-- Parts of an access that an event befalls fail where they must. -/
def Flight.fail (d : Device) (f : Flight) (ls : List Nat) (e : Ending) : Flight :=
  { f with accs := f.accs.map fun a => if !a.over && f.chosen ls e a then { a with bad := failCause d e a } else a }

/-- The table of an L1 before a sector is added: where it holds `cap` other lines, one of them has left, a free one: the
manual gives no rule of replacement (log entry 83). -/
def roomFor {α : Type} (t : Tbl α) (sec cap draw : Nat) : Tbl α :=
  let lines := (t.map fun e => e.1 / 4).eraseDups
  if lines.contains (sec / 4) || lines.length < cap then t
  else
    let v := lines.getD ((Config.freeWord draw).toNat % lines.length) 0
    t.filter fun e => e.1 / 4 != v

/-- Non-home copies lie in the partition's share of the accessing die's L2 (R187, R188). -/
def copyKey (part sec : Nat) : Nat := part * 2 ^ 128 + sec

/-- Has the accessing die a non-home copy to look at (R187)? -/
def copied (cn pa policy : Nat) (rd : Bool) : Bool :=
  spaceOf pa < 3 && policy != 2 && !rd && (spaceOf pa != 0 || homeDie pa != dieOf cn)

/-- Lines of 128 bytes that the partition's share of a die's L2 holds, 3 MiB a share (R18, R188). -/
def Partition.lines (p : Partition) (die : Nat) : Nat := p.shares.getD die 0 * 24576

/-- Is a sector of the stacks homed on a die in a pair of the partition (R185)? -/
def Partition.homes (p : Partition) (die sec : Nat) : Bool :=
  spaceOf (sec * 32) = 0 && homeDie (sec * 32) = die && p.pairs.getLsbD (pairOf (sec * 32))

/-- The lines of a partition's share of a die's L2 of which the machine keeps anything: non-home copies, and homed lines with conflict
tags (R187, R188, R221). -/
def Device.shareLines (d : Device) (pn die : Nat) : List Nat :=
  (((d.dieAt die).copies.filterMap fun (e : Nat × List Byte) => if e.1 / 2 ^ 128 = pn then some (e.1 % 2 ^ 128 / 4) else none) ++
    d.ctags.filterMap fun (e : Nat × CTag) => if (d.partAt pn).homes die e.1 then some (e.1 / 4) else none).eraseDups

/-- A line leaves the share. -/
def Device.dropLine (d : Device) (pn die line : Nat) : Device :=
  let x := d.dieAt die
  { d.setDie die { x with copies := x.copies.filter fun (e : Nat × List Byte) => !(e.1 / 2 ^ 128 = pn && e.1 % 2 ^ 128 / 4 = line) } with
    ctags := d.ctags.filter fun (e : Nat × CTag) => !((d.partAt pn).homes die e.1 && e.1 / 4 = line) }

/-- Room for a sector in the share of a partition: where it holds `cap` other lines, one of them has left, a free one (log entry 83). -/
def State.shareRoom (s : State) (pn die sec cap : Nat) : State :=
  let lines := s.dev.shareLines pn die
  if lines.contains (sec / 4) || lines.length < cap then s
  else { s with
    dev := s.dev.dropLine pn die (lines.getD ((Config.freeWord s.draws).toNat % lines.length) 0), draws := s.draws + 1 }

/-- A sector as the L2 that serves the core holds it. A non-home copy is kept within the partition's share (R187, R188). -/
def State.l2Sector (s : State) (cn part sec policy : Nat) (rd : Bool) : List Byte × State :=
  let bs := s.dev.mem.read (sec * 32) 32
  if copied cn (sec * 32) policy rd then
    let di := s.dev.dieAt (dieOf cn)
    match tget di.copies (copyKey part sec) with
    | some x => (x, s)
    | none =>
      let cap := (s.dev.partAt part).lines (dieOf cn)
      if cap = 0 then (bs, s)
      else
        let s := s.shareRoom part (dieOf cn) sec cap
        let di := s.dev.dieAt (dieOf cn)
        (bs, { s with dev := s.dev.setDie (dieOf cn) { di with copies := tset di.copies (copyKey part sec) bs } })
  else (bs, s)

/-- Bytes from a place, with other bytes written over them. -/
def overlay (base : Nat) (bs : List Byte) (a : Nat) (ws : List Byte) : List Byte :=
  (List.range bs.length).map fun i =>
    if a ≤ base + i && base + i < a + ws.length then ws.getD (base + i - a) 0 else bs.getD i 0

/-- The bytes of a lane's data. -/
def LaneAcc.bytes (a : LaneAcc) : List Byte := leBytes a.ty.size a.data.toNat

/-- The stores that the core has accepted, as far as one sees them, lie over what memory holds (R206, R208). -/
def overStores (c : Core) (sees : Nat × Flight → LaneAcc → Bool) (base : Nat) (bs : List Byte) : List Byte :=
  c.queuedStores.foldl (fun bs f =>
    f.2.accs.foldl (fun bs a => if a.over || !sees f a then bs else overlay base bs a.pa a.bytes) bs) bs

/-- What all strands of the core see. -/
def seenByAll (_ : Nat × Flight) (a : LaneAcc) : Bool := !a.held

/-- What only the path of a flight sees: its own earlier stores (R208). -/
def Strand.seesAlone (st : Strand) (f : Flight) (g : Nat × Flight) (a : LaneAcc) : Bool :=
  a.held && g.2.sharesPath f && g.2.unit < f.unit && (st.flight g.1).isSome

/-- A sector as loads of the core find it; policy 0 goes through the L1 and allocates there, in one of its 512 lines (R186). -/
def State.coreSector (s : State) (cn part sec policy : Nat) (rd : Bool) : List Byte × State :=
  let c := s.dev.coreAt cn
  match (if policy = 0 then tget c.l1 sec else none) with
  | some x => (x, s)
  | none =>
    let r := s.l2Sector cn part sec policy rd
    let bs := overStores c seenByAll (sec * 32) r.1
    (bs, if policy = 0 then
      { r.2 with draws := r.2.draws + 1 }.setCore cn { c with l1 := tset (roomFor c.l1 sec 512 r.2.draws) sec bs } else r.2)

/-- What a lane of a load reads (R206: it binds), with what its path alone sees. Device registers hold what the manual does not say
(R183). -/
def State.readLane (s : State) (cn part : Nat) (cached : Bool) (alone : Nat × Flight → LaneAcc → Bool) (a : LaneAcc) : Word × State :=
  let n := a.ty.size
  let sp := spaceOf a.pa
  if sp = 3 || sp = 4 then (Config.freeWord s.draws, { s with draws := s.draws + 1 })
  else if cached && sp < 3 then
    let r := s.coreSector cn part a.sector a.policy a.rd
    (BitVec.ofNat 64 (leNat (overStores (s.dev.coreAt cn) alone a.pa ((r.1.drop (a.pa % 32)).take n))), r.2)
  else
    let c := s.dev.coreAt cn
    (BitVec.ofNat 64 (leNat (overStores c alone a.pa (overStores c seenByAll a.pa (s.dev.mem.read a.pa n)))), s)

/-- A value loaded, widened to its record (R241). -/
def widen (t : Ty) (x : Word) : Word := if t.isInt then extendTo t x.toNat else BitVec.ofNat 64 (x.toNat % 2 ^ t.bits)

/-! ### Loads bind -/

/-- Bind the lanes of a list that are chosen and not over. -/
def bindAccs (cn part : Nat) (cached : Bool) (alone : Nat × Flight → LaneAcc → Bool) (sel : LaneAcc → Bool) : List LaneAcc → State → List LaneAcc × State
  | [], s => ([], s)
  | a :: r, s =>
    let x : LaneAcc × State :=
      if !a.over && sel a && !s.dev.paused a.pa && !s.dev.lost a.pa then
        let v := s.readLane cn part cached alone a
        ({ a with val := some (widen a.ty v.1) }, v.2)
      else (a, s)
    let y := bindAccs cn part cached alone sel r x.2
    (x.1 :: y.1, y.2)

/-- Bind lanes of a load in flight that nothing holds back. -/
def State.bindFlight (s : State) (cn sl id : Nat) (sel : LaneAcc → Bool) : State :=
  match s.strandAt cn sl with
  | none => s
  | some st =>
    match st.flight id with
    | none => s
    | some f =>
      match f.kind with
      | .load _ cached =>
        if f.passed then
          let r := bindAccs cn (s.dev.launchAt st.launch).part cached (st.seesAlone f) (fun a => sel a && !st.heldBack f a) f.accs s
          r.2.setStrand cn sl { st with flights := tset st.flights id { f with accs := r.1 } }
        else s
      | _ => s

/-- Bind the loads of a strand that satisfy a condition, in order. -/
def State.bindWhere (s : State) (cn sl : Nat) (which : Flight → Bool) (sel : LaneAcc → Bool) : State :=
  match s.strandAt cn sl with
  | none => s
  | some st => ((sortFlights st.flights).filter fun f => which f.2).foldl (fun s f => s.bindFlight cn sl f.1 sel) s

/-- Is every accepted load of the paths bound? -/
def Strand.allBound (st : Strand) (mine : Flight → Bool) : Bool :=
  st.flights.all fun f => !mine f.2 || !f.2.kind.isLoad || (f.2.passed && f.2.over)

/-! ### Releases and acquires (R206, R220) -/

def scopeRank : Scope → Nat
  | .core => 0 | .quad => 1 | .die => 2 | .pkg => 3 | .pod => 4 | .sys => 5

/-- Is an earlier store performed as far as a release at the scope waits for it? -/
def storeDone (sc : Scope) (f : Flight) : Bool :=
  f.passed && f.accs.all fun a =>
    let sp := spaceOf a.pa
    a.over || !a.held && match sc with
    | .core => true
    | .quad | .die | .pkg => sp != 0
    | .pod => sp != 0 && sp < 5
    | .sys => false

/-- The same of an atomic or an addition, which acts at its home: across devices a release orders it from `.pod` on (R370). -/
def atomicDone (sc : Scope) (f : Flight) : Bool :=
  f.passed && f.accs.all fun a => a.over || (5 ≤ spaceOf a.pa && scopeRank sc < 4)

/-- Does a release at the scope wait no longer for an access? -/
def Flight.doneAt (sc : Scope) (f : Flight) : Bool :=
  match f.kind with
  | .store _ => storeDone sc f
  | .atomic _ _ _ | .flush => atomicDone sc f
  | .load _ _ | .red _ => f.passed
  | .func => true

/-- Has a release of a path at a scope finished waiting, but for loads that can bind at once? -/
def Strand.releaseReady (st : Strand) (path : Nat) (before : Nat) (sc : Scope) : Bool :=
  st.flights.all fun f => !f.2.paths.contains path || before ≤ f.1 || f.2.doneAt sc

/-- A release part of a path performed (R220): the ordinal rises and the last release at the scope and at every narrower one is now.
Accesses that it did not wait for are noted: a release of a strand that it reaches passes them on (R212). -/
def Strand.released (st : Strand) (path : Nat) (sc : Scope) : Strand :=
  let st := { st with flights := st.flights.map fun f =>
    (f.1, if f.2.paths.contains path && f.2.passed then { f.2 with pub := max f.2.pub (scopeRank sc + 1) } else f.2) }
  if st.o = 2 ^ 48 - 1 then st
  else { st with o := st.o + 1, lastRel := (List.range 6).map fun i => if i ≤ scopeRank sc then st.o + 1 else st.lastRel.getD i 0 }

/-- An acquire at a scope (R206): from quad on the L1 of the core is invalidated, from pkg on the partition's non-home copies in
the die of the core are dropped too. -/
def State.acquire (s : State) (cn part : Nat) (sc : Scope) : State :=
  let s := if 1 ≤ scopeRank sc then s.setCore cn { s.dev.coreAt cn with l1 := [], synced := s.dev.loads } else s
  if 3 ≤ scopeRank sc then
    let di := s.dev.dieAt (dieOf cn)
    { s with dev := s.dev.setDie (dieOf cn) { di with copies := di.copies.filter fun e => e.1 / 2 ^ 128 != part } }
  else s

/-- Bind every load of a path that stands before a flight, and say whether all are bound (R206). -/
def State.bindPath (s : State) (cn sl path before : Nat) : State :=
  s.bindWhere cn sl (fun f => f.paths.contains path && f.seq < before) (fun _ => true)

/-! ### Conflict tags (R221 to R223) -/

/-- A strand's identity as a number, 0 being none. -/
def identity (launch linear core slot : Nat) : Nat := ((launch * 2 ^ 32 + linear) * 512 + core) * 64 + slot + 1

/-- The identity of a strand of another device. -/
def remoteIdentity (dev sid : Nat) : Nat := 2 ^ 200 * (dev + 1) + sid

def coreOfId (i : Nat) : Nat := (i - 1) / 64 % 512
def launchOfId (i : Nat) : Nat := (i - 1) / 64 / 512 / 2 ^ 32

/-- The strand of an identity, if it has not ended (R222). -/
def State.strandOf (s : State) (i : Nat) : Option Strand :=
  if i = 0 || 2 ^ 200 ≤ i then none
  else match s.strandAt (coreOfId i) ((i - 1) % 64) with
    | some st => if identity st.launch st.linear (coreOfId i) ((i - 1) % 64) = i && !st.gone then some st else none
    | none => none

/-- Narrowest scope that covers two cores (R204). -/
def covering (a b : Nat) : Nat :=
  if a = b then 0 else if quadOf a = quadOf b then 1 else if dieOf a = dieOf b then 2 else 3

/-- What a release part at a scope has passed on, on any core that it reaches, a release of a core at another scope waits for as for
its own path's accesses (R206, R212, log entry 85). -/
def Device.passedOn (d : Device) (cn : Nat) (sc : Scope) : Bool :=
  d.cores.all fun c => c.2.strands.all fun st => st.2.flights.all fun f => f.2.pub ≤ covering c.1 cn || f.2.doneAt sc

/-- Do two identities name strands of one other device? -/
def sameDevice (i j : Nat) : Bool := 2 ^ 200 ≤ i && 2 ^ 200 ≤ j && i / 2 ^ 200 = j / 2 ^ 200

/-- Does a record of another strand, at ordinal o, still count against an access from a core (R222)? Strands of two devices are covered by
`.pod`; one that has stopped counting does not count (R220, R224). -/
def State.unreleased (s : State) (me core i o : Nat) : Bool :=
  i != me &&
  if 2 ^ 200 ≤ i then (match tget s.dev.remRel i with
    | some r => o != 2 ^ 48 - 1 && r.rel.getD (if sameDevice i me then covering core r.core else 4) 0 ≤ o
    | none => false)
  else match s.strandOf i with
    | some t => t.o != 2 ^ 48 - 1 && t.lastRel.getD (if 2 ^ 200 ≤ me then 4 else covering core (coreOfId i)) 0 ≤ o
    | none => false

def CTag.empty : CTag := ⟨0, 0, 0, 0, 0, 0, 0, 0, 0, false⟩

def byteMask (pa n : Nat) : BitVec 32 := BitVec.ofNat 32 ((2 ^ n - 1) * 2 ^ (pa % 32))

/-- Does a plain access raise RACE (R222)? -/
def State.races (s : State) (me core : Nat) (write : Bool) (a : LaneAcc) : Bool :=
  let t := tgetD s.dev.ctags a.sector .empty
  let b := byteMask a.pa a.ty.size
  (b &&& t.wmask != 0 && s.unreleased me core t.writer t.wo) ||
  (write && !t.ovf && ((b &&& t.m0 != 0 && s.unreleased me core t.r0 t.o0) || (b &&& t.m1 != 0 && s.unreleased me core t.r1 t.o1)))

/-- The tag after an access that raised no RACE (R223). -/
def State.tagAfter (s : State) (me o rel : Nat) (write : Bool) (a : LaneAcc) (t : CTag) : CTag :=
  let b := byteMask a.pa a.ty.size
  let free := fun (i : Nat) => if 2 ^ 200 ≤ i then (tget s.dev.remRel i).isNone else (s.strandOf i).isNone
  if write then
    let w : CTag := if t.writer = me && rel ≤ t.wo then { t with wmask := t.wmask ||| b, wo := o }
      else { t with writer := me, wmask := b, wo := o }
    { w with r0 := 0, o0 := 0, m0 := 0, r1 := 0, o1 := 0, m1 := 0, ovf := false }
  else if t.writer = me then t
  else if t.r0 = me then { t with m0 := if t.o0 < rel then b else t.m0 ||| b, o0 := o }
  else if t.r1 = me then { t with m1 := if t.o1 < rel then b else t.m1 ||| b, o1 := o }
  else if free t.r0 then { t with r0 := me, o0 := o, m0 := b }
  else if free t.r1 then { t with r1 := me, o1 := o, m1 := b }
  else { t with ovf := true }

/-- A tag is kept while the L2 share of the partition that owns its stack pair has room for its line (R188, R221). -/
def State.putTag (s : State) (sec : Nat) (t : CTag) : State :=
  let pa := sec * 32
  let owner := s.dev.parts.find? fun p => spaceOf pa = 0 && p.2.pairs.getLsbD (pairOf pa)
  match owner with
  | some p =>
    let s := s.shareRoom p.1 (homeDie pa) sec (max 1 (p.2.lines (homeDie pa)))
    { s with dev := { s.dev with ctags := tset s.dev.ctags sec t } }
  | none => { s with dev := { s.dev with ctags := tset s.dev.ctags sec t } }

/-- The tags after the lanes of an access, in lane order, by a strand at ordinal o whose last release was at `rel`; a strand that has
stopped counting sets none (R220). -/
def State.setTagsBy (s : State) (me o rel : Nat) (write : Bool) (accs : List LaneAcc) : State :=
  if o = 2 ^ 48 - 1 then s
  else (accs.filter (·.rd)).foldl (fun s a =>
    s.putTag a.sector (s.tagAfter me o rel write a (tgetD s.dev.ctags a.sector .empty))) s

def State.setTags (s : State) (me : Nat) (st : Strand) (write : Bool) (accs : List LaneAcc) : State :=
  s.setTagsBy me st.o (st.lastRel.getD 0 0) write accs

/-- A tag without what strands of some launches recorded: their partition is pre-empted (R222, R223). -/
def CTag.without (t : CTag) (gone : Nat → Bool) : CTag :=
  let t := if t.writer < 2 ^ 200 && gone (launchOfId t.writer) then { t with writer := 0, wo := 0, wmask := 0 } else t
  let t := if t.r0 < 2 ^ 200 && gone (launchOfId t.r0) then { t with r0 := 0, o0 := 0, m0 := 0 } else t
  if t.r1 < 2 ^ 200 && gone (launchOfId t.r1) then { t with r1 := 0, o1 := 0, m1 := 0 } else t

/-- A tag without what one strand recorded: it has ended, or its partition is pre-empted (R222, R223). -/
def CTag.withoutStrand (t : CTag) (i : Nat) : CTag :=
  let t := if t.writer = i then { t with writer := 0, wo := 0, wmask := 0 } else t
  let t := if t.r0 = i then { t with r0 := 0, o0 := 0, m0 := 0 } else t
  if t.r1 = i then { t with r1 := 0, o1 := 0, m1 := 0 } else t

/-! ### Stores -/

/-- The L1 of the core after stores that it accepted: a sector that it holds is updated (R186). -/
def writeL1 (l1 : Tbl (List Byte)) (accs : List LaneAcc) : Tbl (List Byte) :=
  accs.foldl (fun l a => tmod l a.sector fun bs => overlay (a.sector * 32) bs a.pa a.bytes) l1

def dropL1 (l1 : Tbl (List Byte)) (accs : List LaneAcc) : Tbl (List Byte) := accs.foldl (fun l a => tdel l a.sector) l1

/-- Write bytes at the home of a place; device registers take the store. -/
def State.writeHome (s : State) (pa : Nat) (bs : List Byte) : State :=
  let sp := spaceOf pa
  if sp = 3 || sp = 4 then { s with dev := { s.dev with regWrites := s.dev.regWrites ++ [(pa, BitVec.ofNat 64 (leNat bs))] } }
  else { s with dev := { s.dev with mem := s.dev.mem.write pa bs } }

/-- Write them into the copy that the writer's own die holds. -/
def State.writeCopy (s : State) (cn part pa : Nat) (bs : List Byte) : State :=
  let di := s.dev.dieAt (dieOf cn)
  let di := { di with copies := tmod di.copies (copyKey part (pa / 32)) fun x => overlay (pa / 32 * 32) x pa bs }
  { s with dev := s.dev.setDie (dieOf cn) di }

/-- Write bytes at a place: the home first, then the writer's own die's copy (R207). -/
def State.writePlace (s : State) (cn part pa : Nat) (bs : List Byte) : State :=
  let sp := spaceOf pa
  if sp = 3 || sp = 4 then s.writeHome pa bs else (s.writeHome pa bs).writeCopy cn part pa bs

/-! ### Values of atomics and reductions (R250, R125) -/

def fltOp (f : FVal → FVal → FVal) (t : Ty) (a b : Word) : Word :=
  BitVec.ofNat 64 (rne t (f (valueOf t (natAt t a)) (valueOf t (natAt t b))))

/-- Add, min and max in a type, at its width. -/
def combine (o : Comb) (t : Ty) (a b : Word) : Word :=
  if t.isInt then
    BitVec.ofNat 64 (natAt t (match o with
      | .add => a + b
      | .min => if intAt t b < intAt t a then b else a
      | .max => if intAt t a < intAt t b then b else a))
  else fltOp (match o with | .add => addV | .min => minV | .max => maxV) t a b

/-- The new value of an atomic's location (R250); `b` is the operand or the compare value, `c` the swap value. -/
def atomVal (k : AtomK) (t : Ty) (old b c : Word) : Word :=
  let x := natAt t old
  match k with
  | .add => combine .add t old b
  | .min => combine .min t old b
  | .max => combine .max t old b
  | .and => BitVec.ofNat 64 (x &&& natAt t b)
  | .or => BitVec.ofNat 64 (x ||| natAt t b)
  | .xor => BitVec.ofNat 64 (x ^^^ natAt t b)
  | .exch => BitVec.ofNat 64 (natAt t b)
  | .cas => BitVec.ofNat 64 (if x = natAt t b then natAt t c else x)
  | .inc => BitVec.ofNat 64 (if natAt t b ≤ x then 0 else x + 1)

/-- The L1 of a core and the non-home copies of its die lose the sector of an atomic or an addition, which reads and writes neither
(R186, R208, R219). -/
def State.bypass (s : State) (cn part pa : Nat) : State :=
  let c := s.dev.coreAt cn
  let s := s.setCore cn { c with l1 := tdel c.l1 (pa / 32) }
  let di := s.dev.dieAt (dieOf cn)
  { s with dev := s.dev.setDie (dieOf cn) { di with copies := tdel di.copies (copyKey part (pa / 32)) } }

/-- One atomic at the home of its location: the old value, and the new one in its place (R219). -/
def State.atomicAt (s : State) (a : LaneAcc) (f : Word → Word) : Word × State :=
  let old := BitVec.ofNat 64 (s.dev.mem.nat a.pa a.ty.size)
  (old, { s with dev := { s.dev with mem := s.dev.mem.write a.pa (leBytes a.ty.size (f old).toNat) } })

/-! ### Partials of reductions (R125, R252, R253, R363) -/

/-- Add a partial of a core's into memory as an `rflush` addition (R217), unless its place has failed. -/
def State.addPartial (s : State) (cn pn pa : Nat) (o : Comb) (t : Ty) (v : Word) : State :=
  if s.dev.lost pa || s.dev.unreachable pa then s
  else
    let old := BitVec.ofNat 64 (s.dev.mem.nat pa t.size)
    { s with dev := { s.dev with mem := s.dev.mem.write pa (leBytes t.size (combine o t old v).toNat) } }.bypass cn pn pa

def combCode : Comb → Nat
  | .add => 0 | .min => 1 | .max => 2

def combOf (n : Nat) : Comb := if n = 0 then .add else if n = 1 then .min else .max

/-- A slot of the overflow area (R363). -/
def slotBytes (va val : Word) (linear cohort asid : Nat) (o : Comb) (t : Ty) (launch : Nat) : List Byte :=
  leBytes 8 va.toNat ++ leBytes 8 val.toNat ++ leBytes 4 linear ++ leBytes 4 cohort ++
    leBytes 4 (asid + 2 ^ 12 * combCode o + 2 ^ 14 * t.code + 2 ^ 31) ++ leBytes 4 launch

def typeOf (n : Nat) : Ty :=
  [Ty.i8, .n8, .i16, .n16, .i32, .n32, .i64, .n64, .f16, .bf16, .f32, .f64, .e4m3, .e5m2, .e2m1, .e8m0].getD n .n8

/-- Slots of a partition's overflow area that hold partials of a launch, oldest first: number, linear identifier, cohort, address,
value, operation and type. -/
def State.ovfSlots (s : State) (pn ordinal : Nat) : List (Nat × Nat × Nat × Word × Word × Comb × Ty) :=
  let p := s.dev.partAt pn
  (p.ovfOrder.filter fun i => s.dev.mem.nat (p.ovfBase + 32 * i + 28) 4 = ordinal).map fun i =>
    let a := p.ovfBase + 32 * i
    let w := s.dev.mem.nat (a + 24) 4
    (i, s.dev.mem.nat (a + 16) 4, s.dev.mem.nat (a + 20) 4, BitVec.ofNat 64 (s.dev.mem.nat a 8),
      BitVec.ofNat 64 (s.dev.mem.nat (a + 8) 8), combOf (w / 2 ^ 12 % 4), typeOf (w / 2 ^ 14 % 16))

def State.freeSlot (s : State) (pn i : Nat) : State :=
  let p := s.dev.partAt pn
  let d := s.dev.setPart pn { p with ovfOrder := p.ovfOrder.filter (· != i), ovfTickets := tdel p.ovfTickets i }
  { s with dev := { d with mem := d.mem.write (p.ovfBase + 32 * i) (leBytes 32 0) } }

/-- The place of a partial that lies in the overflow area. -/
def State.placeOf (s : State) (asid part : Nat) (va : Word) (t : Ty) : Option Nat :=
  match translate s.dev asid part va.toNat t.size ⟨false, false, false⟩ [0, 1, 2, 3] false with
  | .ok x => some x.pa
  | .error _ => none

/-- Does a paused stack hold back a slot of the overflow area (R237)? -/
def Device.slotPaused (d : Device) (pn i : Nat) : Bool := d.paused ((d.partAt pn).ovfBase + 32 * i)

/-- A partial has been added into memory before its kernel ended: its cohort on the core may no longer be discarded (R349). -/
def State.keepCohort (s : State) (cn launch number : Nat) : State :=
  let c := s.dev.coreAt cn
  s.setCore cn { c with cohorts := c.cohorts.map fun h =>
    (h.1, if h.2.launch = launch && h.2.number = number then { h.2 with discardable := false } else h.2) }

/-- A partial of the buffer is added into memory; none while its stack holds accesses back (R237). -/
def State.flushPartial (s : State) (cn pn : Nat) (x : Partial) : Option State :=
  if s.dev.paused x.pa then none
  else some ((s.addPartial cn pn x.pa x.op x.ty x.val).keepCohort cn x.launch x.number)

/-- The same of a slot of the overflow area that belongs to a launch. -/
def State.flushSlot (s : State) (cn pn launch : Nat) (e : Nat × Nat × Nat × Word × Word × Comb × Ty) : Option State :=
  let (i, _, h, va, v, o, t) := e
  match s.placeOf (s.dev.launchAt launch).asid pn va t with
  | some pa =>
    if s.dev.paused pa || s.dev.slotPaused pn i then none else some (((s.addPartial cn pn pa o t v).keepCohort cn launch h).freeSlot pn i)
  | none => if s.dev.slotPaused pn i then none else some (s.freeSlot pn i)

/-- Move the least recently used partial of a full buffer to the overflow area, or flush one of its strand where there is no room, which
counts as a forced flush (R253, R363). With no partial of the strand there, the one that leaves the buffer is flushed itself and counted so:
which is, is not stated (log entry 120). -/
def State.spillPartial (s : State) (cn pn : Nat) (x : Partial) : Option State :=
  let p := s.dev.partAt pn
  let la := s.dev.launchAt x.launch
  let put := fun (s : State) (i : Nat) =>
    let p := s.dev.partAt pn
    let d := s.dev.setPart pn { p with ovfOrder := p.ovfOrder ++ [i], ovfTickets := tset p.ovfTickets i x.ticket }
    { s with dev := { d with
      mem := d.mem.write (p.ovfBase + 32 * i) (slotBytes x.va x.val x.linear x.number la.asid x.op x.ty la.ordinal) } }
  let forced := fun (s : State) => s.setCore cn ((s.dev.coreAt cn).count 2 1)
  match (List.range (p.ovfSize / 32)).find? fun i => !p.ovfOrder.contains i with
  | some i => if s.dev.slotPaused pn i then none else some (put s i)
  | none =>
    match (s.ovfSlots pn la.ordinal).find? fun e => e.2.1 = x.linear with
    | some e => (s.flushSlot cn pn x.launch e).map fun s => put (forced s) e.1
    | none => (s.flushPartial cn pn x).map forced

/-- A partial starts in the buffer, whose least recently used one makes room. -/
def State.startPartial (s : State) (cn pn : Nat) (x : Partial) : Option State :=
  let c := s.dev.coreAt cn
  match c.abuf with
  | y :: r =>
    if c.abuf.length = 256 then (s.setCore cn { c with abuf := r ++ [x] }).spillPartial cn pn y
    else some (s.setCore cn { c with abuf := c.abuf ++ [x] })
  | [] => some (s.setCore cn { c with abuf := [x] })

/-- One contribution of a strand (R252, R253): it goes on with the partial of its address, in the buffer or in the overflow area,
or starts one; a partial of another operation or type is flushed first. None while a flush has to wait (R237). -/
def State.contribute (s : State) (cn pn : Nat) (x : Partial) : Option State :=
  let c := s.dev.coreAt cn
  let mine := fun (y : Partial) => y.launch = x.launch && y.linear = x.linear && y.va = x.va
  match c.abuf.find? mine with
  | some y =>
    let rest := c.abuf.filter fun y => !mine y
    if y.op = x.op && y.ty = x.ty then
      some (s.setCore cn { c with abuf := rest ++ [{ y with val := combine x.op x.ty y.val x.val }] })
    else (s.flushPartial cn pn y).map fun s => s.setCore cn { s.dev.coreAt cn with abuf := rest ++ [x] }
  | none =>
    let la := s.dev.launchAt x.launch
    match (s.ovfSlots pn la.ordinal).find? fun e => e.2.1 = x.linear && e.2.2.2.1 = x.va with
    | some (i, l, h, va, v, o, t) =>
      if s.dev.slotPaused pn i then none
      else if o = x.op && t = x.ty then
        let m := s.dev.mem.write ((s.dev.partAt pn).ovfBase + 32 * i)
          (slotBytes va (combine o t v x.val) l h la.asid o t la.ordinal)
        some { s with dev := { s.dev with mem := m } }
      else (s.flushSlot cn pn x.launch (i, l, h, va, v, o, t)).bind fun s => s.startPartial cn pn x
    | none => s.startPartial cn pn x

def State.contributeAll (s : State) (cn pn : Nat) : List Partial → Option State
  | [] => some s
  | x :: r => (s.contribute cn pn x).bind fun s => s.contributeAll cn pn r

end Sys2Proof.Machine
end

