-- ==== Sys2Proof/Machine/Stops.lean ====
section
/-! DEFINITION. The beginning of a stop (R412). -/
namespace Sys2Proof.Machine

/-- STOPST (R412). -/
def Stop.word (x : Stop) : Word :=
  BitVec.ofNat 64 (x.src + 2 ^ 8 * (x.n % 8) + 2 ^ 11 * x.core + 2 ^ 20 * x.slot + 2 ^ 26 * (x.byte % 16) + 2 ^ 32 * x.met)

/-- A path meets a breakpoint or a watchpoint, or executes `break`, or the owner writes STOP: the partition stops, or, while it
is stopping, the report counts the path and names the lowest core and slot. `src` is 1 to 4 as STOPST gives it. -/
def Device.meetStop (d : Device) (pn src n core slot byte : Nat) : Device :=
  let p := d.partAt pn
  let m := if src ≤ 2 then 1 else 0
  match p.stop with
  | none =>
    let x : Stop := ⟨src, n, core, slot, byte, m, false⟩
    (d.setPart pn { p with stop := some x, stopst := x.word }).pevent pn 0
  | some y =>
    let first := src ≤ 2 && y.src ≤ 2 && (core < y.core || (core = y.core && slot < y.slot))
    let x : Stop := if first then ⟨src, n, core, slot, byte, y.met + m, y.halted⟩ else { y with met := y.met + m }
    d.setPart pn { p with stop := some x, stopst := x.word }

end Sys2Proof.Machine
end

