-- ==== Sys2Proof/Machine/Memory.lean ====
section
/-! DEFINITION. Loads, stores, atomics, reductions and prefetches, majors 0x28, 0x29, 0x2C to 0x2E (R240 to R255), and the events
that carry them on: translation passed, data arrival, stores and atomics performed. -/
namespace Sys2Proof.Machine

/-! ### Issue -/

/-- Is the access an acquire atomic? -/
def AKind.acquires : AKind → Bool
  | .atomic _ sem _ => sem == .acq || sem == .ar
  | _ => false

/-- An acquire at other devices alone, below `.pod`: it does not order accesses to other devices (R370). -/
def Flight.farAcquire (f : Flight) : Bool :=
  f.passed && (f.accs.all fun a => 5 ≤ spaceOf a.pa) && match f.kind with
    | .atomic _ _ sc => scopeRank sc < 4
    | _ => false

/-- An acquire atomic of the path is not performed yet: later accesses wait for it (R206). -/
def Strand.acquiring (st : Strand) (path : Nat) : Bool :=
  st.flights.any fun f => f.2.paths.contains path && f.2.kind.acquires

/-- The same, one at other devices below `.pod` aside: a global access waits for that only at its own device. -/
def Strand.acquiringHere (st : Strand) (path : Nat) : Bool :=
  st.flights.any fun f => f.2.paths.contains path && f.2.kind.acquires && !f.2.farAcquire

/-- Conditions under which an access can issue: no acquire under way, and room on its counter (R242). -/
def State.canPost (s : State) (k : Nat) : Bool := !s.strand.acquiring s.pathNo && s.strand.outstanding k < 63

/-- A long-latency instruction has issued and opens its window (R36); one that cannot fault is complete for lookahead at once.
`ns`, `ws` and `dst` are the names and walkers it read and the names it wrote, `s0` the state before it. -/
def State.openWindow (s0 s : State) (la : Fin 16) (ns : List Name) (ws : List (Fin 8)) (dst : List Name) (flight : Nat)
    (complete : Bool) : State :=
  let done := match s0.path.redo with
    | some r => if r.pc = s0.path.pc then r.done else 0
    | none => 0
  let s := s.issued
  let w : Window := {
    pc := s0.path.pc, la := la.val, idx := 0, done := done, complete := complete, reads := ns, writes := dst
    undo := (ns ++ dst).map fun n => (n, s0.path.get n)
    walkers := s0.path.walkers.filter fun e => ws.any fun x => x.val = e.1
    flight := flight }
  ({ s with path := { s.path with window := if complete && la.val = 0 then none else some w,
                                  pass := if complete then s.path.pass else s0.path.pass } }).advance

/-- The long-latency instruction has completed for lookahead: its window closes once it has run out (R36). -/
def Path.completeWindow (p : Path) : Path :=
  match p.window with
  | none => p
  | some w => { p with window := if w.la ≤ w.idx then none else some { w with complete := true }, pass := p.pass.filter (·.2 != w.pc) }

/-- The names of an instruction's sources. -/
def namesOf (srcs : List (Src × Ty)) (more : List Name) : List Name := srcs.filterMap (fun e => srcName e.1) ++ more

/-- A destination's record waits for an access on the lanes given. -/
def Path.await (p : Path) (d : Dest) (f : Nat) (ls : LaneSet) : Path :=
  match destName d with
  | some (n, _) => match p.get n with
    | some r => p.put n { r with pend := if ls = 0 then [] else [(f, ls)] }
    | none => p
  | none => p

/-- The issue of a global access (R245, R246, R251, R252): its reads, its destination's pending record, its unit and its window.
`acc` makes a lane's part from the values of the sources and of the data names. -/
def issueAccess (la : Fin 16) (kind : AKind) (ty : Ty) (d : Dest) (scalar : Bool) (k : Fin 16) (m : Fin 16)
    (srcs : List (Src × Ty)) (acc : Nat → List Word → LaneAcc) (s : State) : Ex State := do
  waitFor (!s.strand.acquiringHere s.pathNo && s.strand.outstanding k.val < 63) s
  let en := if scalar then s.path.lanes else s.path.mask m
  let r ← readSrcs srcs [] en s
  checkDest d ty.wide s r.2.2
  let good := without en r.2.1
  let s1 := writeDest d ty.wide 0 (fun _ => 0) r.2.2
  let id := s1.uid
  let s1 := { s1 with path := s1.path.await d id good, uid := id + 1 }
  let s2 ← splitLanes s s1 s.path.pc 0 r.2.1 [] []
  let lanes := if scalar then [0] else lanesOf s.strand.width good
  let f : Flight := {
    kind := kind, paths := [s.pathNo], pc := s.path.pc, issued := s.clock, ticket := s.dev.ticket, ctr := some k.val, unit := id
    ty := ty, d := (destName d).map (·.1), lanes := good, accs := lanes.map fun l => acc l (r.1.map (·.at l))
    passed := false, seq := 0, pub := 0 }
  let st := (s2.strand.post k.val (CUnit.one id s.path.pc))
  let s3 := { s2 with strand := { st with flights := tset st.flights id f } }
  .ok (s.openWindow s3 la (namesOf srcs []) (srcWalkers srcs) (destNames d) id false)
where
  destNames (d : Dest) : List Name := match destName d with | some (n, _) => [n] | none => []

/-- The effective address (R49, R240). -/
def effAddr (ty : Ty) (scaled : Bool) (disp : BitVec 5) (x y : Word) : Word :=
  x + (y.setWidth 32).signExtend 64 * BitVec.ofNat 64 (if scaled then ty.size else 1) +
    disp.signExtend 64 * BitVec.ofNat 64 ty.size

def laneAcc (ty : Ty) (op : Comb) (l : Nat) (va data swap : Word) : LaneAcc :=
  { lane := l, va := va, pa := 0, policy := 0, rd := false, data := data, swap := swap, val := none, bad := none, home := false, held := false, op := op, ty := ty }

def loadOp (cls : List Nat) (cached : Bool) (o : LoadOp) (s : State) : Ex State :=
  issueAccess o.la (.load cls cached) o.ty o.d o.d.isScl o.k o.mask [(o.base, .n64), (o.index, .i32)]
    (fun l v => laneAcc o.ty .add l (effAddr o.ty o.scaled o.disp (v.getD 0 0) (v.getD 1 0)) 0 0) s

def execLdG (o : LoadOp) (s : State) : Out := (loadOp [0, 1] true o s).out
def execLdR (o : LoadOp) (s : State) : Out := (loadOp [3] false o s).out
def execLdH (o : LoadOp) (s : State) : Out := (loadOp [2, 4] false o s).out
def execLdC (o : LoadOp) (s : State) : Out := (loadOp [0, 1, 2] true o s).out

def nameSrc : Name → Src
  | .vec n => .vec n
  | .scl n => .scl n

def Name.isScalar : Name → Bool
  | .vec _ => false
  | .scl _ => true

/-- Stores and reductions: data, base and index. -/
def storeOp (kind : AKind) (op : Comb) (o : StoreOp) (s : State) : Ex State :=
  issueAccess o.la kind o.ty .sink (Name.isScalar o.data) o.k o.mask
    [(nameSrc o.data, o.ty), (o.base, .n64), (o.index, .i32)]
    (fun l v => laneAcc o.ty op l (effAddr o.ty o.scaled o.disp (v.getD 1 0) (v.getD 2 0)) (v.getD 0 0) 0) s

def execStG (o : StoreOp) (s : State) : Out := (storeOp (.store [0, 1]) .add o s).out
def execStR (o : StoreOp) (s : State) : Out := (storeOp (.store [3]) .add o s).out
def execStH (o : StoreOp) (s : State) : Out := (storeOp (.store [2, 4]) .add o s).out

def execRedAdd (o : StoreOp) (s : State) : Out := (storeOp (.red .add) .add o s).out
def execRedMin (o : StoreOp) (s : State) : Out := (storeOp (.red .min) .min o s).out
def execRedMax (o : StoreOp) (s : State) : Out := (storeOp (.red .max) .max o s).out

/-- The name of the swap value of `atom.cas`: numbered one above the compare value's (R250). -/
def swapSrc : Src → Src
  | .vec n => .vec (Fin.ofNat 128 (n.val + 1))
  | .scl n => .scl (Fin.ofNat 64 (n.val + 1))
  | x => x

/-- An atomic with a scalar destination acts once per path (R240). -/
def atomOp (k : AtomK) (o : AtomOp) (s : State) : Ex State :=
  let srcs := [(o.base, Ty.n64), (o.b, o.ty)] ++ if k == .cas then [(swapSrc o.b, o.ty)] else []
  issueAccess o.la (.atomic k o.sem o.scope) o.ty o.d o.d.isScl o.k o.mask srcs
    (fun l v => laneAcc o.ty .add l (v.getD 0 0) (v.getD 1 0) (v.getD 2 0)) s

def execAtomAdd (o : AtomOp) (s : State) : Out := (atomOp .add o s).out
def execAtomMin (o : AtomOp) (s : State) : Out := (atomOp .min o s).out
def execAtomMax (o : AtomOp) (s : State) : Out := (atomOp .max o s).out
def execAtomAnd (o : AtomOp) (s : State) : Out := (atomOp .and o s).out
def execAtomOr (o : AtomOp) (s : State) : Out := (atomOp .or o s).out
def execAtomXor (o : AtomOp) (s : State) : Out := (atomOp .xor o s).out
def execAtomExch (o : AtomOp) (s : State) : Out := (atomOp .exch o s).out
def execAtomCas (o : AtomOp) (s : State) : Out := (atomOp .cas o s).out
def execAtomInc (o : AtomOp) (s : State) : Out := (atomOp .inc o s).out

/-! ### rflush (R254) -/

/-- The partials of a strand, those of the buffer first, with the place of each (none: it can no longer be reached). -/
def State.partialsOf (s : State) (cn pn asid ordinal launch linear : Nat) : List (Word × Option Nat × Comb × Ty × Word) :=
  (((s.dev.coreAt cn).abuf.filter fun x => x.launch = launch && x.linear = linear).map fun x => (x.va, some x.pa, x.op, x.ty, x.val)) ++
  (((s.ovfSlots pn ordinal).filter fun e => e.2.1 = linear).map fun (_, _, _, va, v, o, t) => (va, s.placeOf asid pn va t, o, t, v))

/-- The tickets of a strand's partials, which their additions keep (R201). -/
def State.partialTickets (s : State) (cn pn ordinal launch linear : Nat) : List Nat :=
  (((s.dev.coreAt cn).abuf.filter fun x => x.launch = launch && x.linear = linear).map (·.ticket)) ++
  ((s.ovfSlots pn ordinal).filter fun e => e.2.1 = linear).map fun e => tgetD (s.dev.partAt pn).ovfTickets e.1 s.dev.ticket

/-- The strand's partials leave the buffer and the overflow area. -/
def State.dropPartials (s : State) (cn pn ordinal launch linear : Nat) : State :=
  let c := s.dev.coreAt cn
  let s1 := s.setCore cn { c with abuf := c.abuf.filter fun x => !(x.launch = launch && x.linear = linear) }
  ((s1.ovfSlots pn ordinal).filter fun e => e.2.1 = linear).foldl (fun s e => s.freeSlot pn e.1) s1

/-- `rflush` cannot fault, and is complete for lookahead at issue; its additions are performed together (R217), and carry the oldest
ticket of the reductions that they end (R201). Loads of the path
that an addition would change bind first, with those of the same sector (R208, R228). It ends the cohort's being discardable
(R349). -/
def rflushOp (la : Fin 16) (k : Fin 16) (s : State) : Ex State := do
  waitFor (s.canPost k.val) s
  let cn := s.coreNo
  let la_ := s.launch
  let ps := s.flush.partialsOf cn s.partNo s.asid la_.ordinal s.strand.launch s.strand.linear
  let ticket := (s.flush.partialTickets cn s.partNo la_.ordinal s.strand.launch s.strand.linear).foldl min s.dev.ticket
  waitFor ((s.ovfSlots s.partNo la_.ordinal).all fun e => e.2.1 != s.strand.linear || !s.dev.slotPaused s.partNo e.1) s
  let accs : List LaneAcc := (List.range ps.length).zip ps |>.map fun (i, va, pa, o, t, v) =>
    { laneAcc t o i va v 0 with pa := pa.getD (2 ^ 200) }
  let s1 := s.onDev fun d =>
    (d.bindWhere cn s.slotNo (fun f => f.paths.contains s.pathNo) fun a => accs.any fun b => b.sector = a.sector).dropPartials
      cn s.partNo la_.ordinal s.strand.launch s.strand.linear
  waitFor (s1.strand.flights.all fun g => !g.2.paths.contains s.pathNo || !g.2.kind.isLoad || g.2.accs.all fun a =>
    a.over || !accs.any a.meets) s
  let id := s1.uid
  let f : Flight := {
    kind := .flush, paths := [s.pathNo], pc := s.path.pc, issued := s.clock, ticket := ticket, ctr := some k.val, unit := id
    ty := .n8, d := none, lanes := s.path.lanes, accs := accs, passed := true, seq := id, pub := 0 }
  let st := s1.strand.post k.val (CUnit.one id s.path.pc)
  let co := s1.cohort
  let s2 := ({ s1 with strand := { st with flights := tset st.flights id f }, uid := id + 1 }).setCohort { co with discardable := false }
  .ok (s.openWindow s2 la [] [] [] id true)

def execRflush (la : Fin 16) (k : Fin 16) (s : State) : Out := (rflushOp la k s).out

/-! ### Prefetch (R255) -/

/-- A line is brought into the home L2, and under policy 0 into the L1 of the core: lanes that cannot be translated are dropped. -/
def prefetchLine (cn asid pn : Nat) (ty : Ty) (s : State) (va : Word) : State :=
  match translateAligned s.dev asid pn va.toNat ty.size ⟨true, false, false⟩ [0, 1, 2] false with
  | .error _ => s
  | .ok x =>
    if x.policy = 0 && !s.dev.paused x.pa && !s.dev.lost x.pa then
      (List.range 4).foldl (fun s i => (s.coreSector cn pn (x.pa / 128 * 4 + i) 0 x.rd).2) s
    else s

def pfOp (o : PfOp) (s : State) : Ex State := do
  let srcs := [(o.base, Ty.n64), (o.index, .i32)]
  let en := s.path.mask o.mask
  let r ← readSrcs srcs [] en s
  let s1 ← splitLanes s r.2.2 s.path.pc 0 r.2.1 [] []
  let lanes := lanesOf s.strand.width (without en r.2.1)
  let s2 := s1.onDev fun d => lanes.foldl (fun d l =>
    prefetchLine s.coreNo s.asid s.partNo o.ty d
      (effAddr o.ty o.scaled o.disp ((r.1.map (·.at l)).getD 0 0) ((r.1.map (·.at l)).getD 1 0))) d
  .ok (s.openWindow s2 o.la (namesOf srcs []) (srcWalkers srcs) [] 0 true)

def execPfG (o : PfOp) (s : State) : Out := (pfOp o s).out

/-- Why a word cannot be fetched now: its translation or its place fails, with the page and port of a host-demand entry, or its
stack holds accesses back (R237). -/
inductive FetchStop where
  | fail (f : TFault)
  | hold
  deriving DecidableEq, Repr

/-- One word, fetched through a translation that allows execution (R197). -/
def fetchWord (d : Device) (asid pn a : Nat) (e : Ending) : Except FetchStop Word :=
  match translate d asid pn a 8 ⟨false, false, true⟩ [0, 1, 2] false with
  | .error f => .error (.fail f)
  | .ok x =>
    if d.paused x.pa then .error .hold
    else if d.lost x.pa || e != .done then .error (.fail ⟨cMemerr, none⟩)
    else .ok (BitVec.ofNat 64 (d.mem.nat x.pa 8))

/-- Words from an address, as many of them as can be fetched, and why the next one cannot. -/
def fetchWords (d : Device) (asid pn : Nat) (e : Ending) : Nat → Nat → List Word × Option FetchStop
  | _, 0 => ([], none)
  | a, n + 1 =>
    match fetchWord d asid pn a e with
    | .error f => ([], some f)
    | .ok w => let r := fetchWords d asid pn e (a + 8) n; (w :: r.1, r.2)

/-- A block: its header, and the words that the header counts (R30, R31), as far as they can be fetched (R344). -/
def fetchBlock (d : Device) (asid pn : Nat) (a : Word) (e : Ending) : Except FetchStop (Block × Option FetchStop) :=
  match fetchWord d asid pn a.toNat e with
  | .error f => .error f
  | .ok h =>
    if hdrMarker h ≠ 0x3F then .ok (⟨a, h, []⟩, none)
    else let r := fetchWords d asid pn e (a.toNat + 8) (hdrLen h); .ok (⟨a, h, r.1⟩, r.2)

/-- Bytes a block takes in an instruction buffer. -/
def Block.size (b : Block) : Nat := 8 * (hdrLen b.hdr + 1)

/-- An instruction buffer in which so many bytes are free: blocks leave it, chosen freely (log entry 83), until they are. -/
def bufferRoom (need : Nat) : Nat → Nat → Tbl Block → Tbl Block
  | 0, _, t => t
  | n + 1, draw, t =>
    if t.foldl (fun x e => x + e.2.size) 0 + need ≤ 16384 then t
    else
      let k := (t.getD ((Config.freeWord draw).toNat % t.length) (0, .empty)).1
      bufferRoom need n (draw + 1) (tdel t k)

/-- A block enters the instruction buffer of a core, of 16 KiB (R12). -/
def Core.buffer (c : Core) (draw key : Nat) (b : Block) : Core :=
  let t := tdel c.ibuf key
  { c with ibuf := tset (bufferRoom b.size t.length draw t) key b }

/-- `pf.code` (R255): the block is put into the instruction buffer; what cannot be fetched is dropped. -/
def pfCodeOp (la : Fin 16) (base : Src) (s : State) : Ex State := do
  let r ← readSrcs [(base, .n64)] [] s.path.lanes s
  let s1 ← splitLanes s r.2.2 s.path.pc 0 r.2.1 [] []
  let a := (r.1.map (·.at 0)).getD 0 0
  let s2 := match fetchBlock s.dev s.asid s.partNo a .done with
    | .ok (b, _) => if a.toNat % 8 = 0 && hdrMarker b.hdr = 0x3F && !s.dev.newText s.asid s.path a then
        { s1 with core := s1.core.buffer s1.draws (codeKey s.asid a) b, draws := s1.draws + 16 } else s1
    | .error _ => s1
  .ok (s.openWindow s2 la (namesOf [(base, .n64)] []) (srcWalkers [(base, .n64)]) [] 0 true)

def execPfCode (la : Fin 16) (base : Src) (s : State) : Out := (pfCodeOp la base s).out

/-! ### Translation and protection passed -/

/-- Permissions an access needs (R197). -/
def needOf : AKind → Need
  | .load _ _ => ⟨true, false, false⟩
  | .store _ | .red _ => ⟨false, true, false⟩
  | .atomic _ _ _ => ⟨true, true, false⟩
  | .flush | .func => ⟨false, false, false⟩

/-- Target classes an access may reach (R183, R244). -/
def classesOf : AKind → List Nat
  | .load cls _ | .store cls => cls
  | _ => [0, 1, 2, 3]

def AKind.plain : AKind → Bool
  | .load _ _ | .store _ => true
  | _ => false

def AKind.reads : AKind → Bool
  | .load _ _ | .atomic _ _ _ => true
  | _ => false

def AKind.writes : AKind → Bool
  | .store _ | .red _ | .atomic _ _ _ => true
  | _ => false

/-- What translation finds for a lane. -/
inductive LaneRes where
  | ok (a : LaneAcc)
  | bad (f : LFault) (demand : Option (Nat × Nat))
  | stop (lane n : Nat)
  | priv
  deriving DecidableEq, Repr

/-- Fields that only privileged commands write: range tables, page tables and tensor records in the memory of the stacks (R7, R198, R199,
R277). -/
def Device.guarded (d : Device) (pa n : Nat) : Bool :=
  (d.asids.any fun a => overlaps pa n a.2.ranges 2048 || overlaps pa n a.2.root 4096 || overlaps pa n a.2.tensors (128 * a.2.ntensors)) ||
    d.tables.any fun t => overlaps pa n t.2.1 4096

/-- Translation, protection, the conflict tags and the watchpoints of one lane (R197, R222, R243, R411); a write to a privileged
field raises PRIV (R7, log entry 86). -/
def State.checkLane (s : State) (f : Flight) (a : LaneAcc) : LaneRes :=
  match translateAligned s.dev s.asid s.partNo a.va.toNat a.ty.size (needOf f.kind) (classesOf f.kind) (!f.kind.plain) with
  | .error e => .bad ⟨a.lane, e.cause, a.va⟩ e.demand
  | .ok x =>
    let b := { a with pa := x.pa, policy := x.policy, rd := x.rd }
    if f.kind.writes && s.dev.guarded x.pa a.ty.size then .priv else
    let me := identity s.strand.launch s.strand.linear s.coreNo s.slotNo
    if f.kind.plain && x.rd && s.flush.races me s.coreNo f.kind.isStore b then .bad ⟨a.lane, cRace, a.va⟩ none
    else match (watchHit s.part ((s.path.pass.filter (·.2 = f.pc)).map fun e => e.1 - 8) a.va.toNat a.ty.size f.kind.reads f.kind.writes) with
      | some (_, true) => .bad ⟨a.lane, cWatch, a.va⟩ none
      | some (n, false) => .stop a.lane n
      | none => .ok b

/-- The path as if the long-latency instruction of a window had not issued: its reads and walkers given back, no record (R38). -/
def Path.undoWindow (p : Path) (w : Window) : Path :=
  let p := w.undo.foldl (fun p e => p.restore e.1 e.2) p
  { p with walkers := w.walkers.foldl (fun t e => tset t e.1 e.2) p.walkers, window := none }

/-- The same of the state, without the access and its unit. -/
def State.undoWindow (s : State) (w : Window) (f : Flight) : State :=
  let st := match f.ctr with | some k => s.strand.unpost k f.unit | none => s.strand
  { s with path := s.path.undoWindow w, strand := { st with flights := tdel st.flights w.flight } }

/-- A record waits no longer for lanes that left. -/
def Path.unawait (p : Path) (n : Option Name) (f : Nat) (ls : LaneSet) : Path :=
  match n with
  | none => p
  | some n => match p.get n with
    | none => p
    | some r =>
      let pend := (r.pend.map fun e => if e.1 = f then (e.1, e.2 &&& ~~~ls) else e).filter fun e => e.2 != 0
      p.put n { r with pend := pend }

/-- The contributions of a reduction (R252). -/
def State.contributions (s : State) (f : Flight) (accs : List LaneAcc) : List Partial :=
  accs.map fun a =>
    ⟨s.strand.launch, s.strand.linear, s.coreNo, s.strand.number, a.va, a.pa, a.op, a.ty, BitVec.ofNat 64 (natAt a.ty a.data), f.ticket⟩

/-- Accesses to the fabric space of this device itself that no export table of it grants are counted (R368), in the lowest partition
that is configured (log entry 99). -/
def Device.refuse (d : Device) (n : Nat) : Device :=
  match d.parts.find? fun p => p.2.configured with
  | some (pn, p) => if n = 0 then d else d.setPart pn { p with refused := p.refused + n }
  | none => d

/-- The access is accepted on the lanes given (R36): it takes its place in the core's order, a release part before an atomic is
performed (R251), tags and the L1 change, contributions enter the atomic buffer (R252). -/
def State.accept (s : State) (w : Window) (f : Flight) (accs : List LaneAcc) (gone : LaneSet) : State :=
  let cn := s.coreNo
  let la := s.launch
  let f1 := { f with passed := true, accs := accs, seq := s.uid, lanes := f.lanes &&& ~~~gone }
  let p := (s.path.unawait f.d w.flight gone).completeWindow
  let st := match f.kind with
    | .atomic _ sem sc => if sem == .rel || sem == .ar then s.strand.released s.pathNo sc else s.strand
    | _ => s.strand
  let s := { s with path := p, strand := { st with flights := tset st.flights w.flight f1 }, uid := s.uid + 1
                    dev := s.dev.refuse (accs.filter fun a => isOwn a.pa).length }
  let me := identity s.strand.launch s.strand.linear cn s.slotNo
  match f.kind with
  | .store _ =>
    (s.onDev fun d => d.setTags me st true accs).onDev fun d =>
      d.setCore cn { d.dev.coreAt cn with l1 := writeL1 (d.dev.coreAt cn).l1 (accs.filter fun a => !a.held) }
  | .load _ _ => s.onDev fun d => d.setTags me st false accs
  | .red _ =>
    let ps := s.contributions f accs
    s.onDev fun d =>
      let d := (d.contributeAll cn la.part ps).getD d
      match d.strandAt cn s.slotNo with
      | some st => d.setStrand cn s.slotNo (st.land w.flight f1 [])
      | none => d
  | _ => s

/-- Flights of the path in focus that stand before one (R208). -/
def State.earlier (s : State) (f g : Flight) : Bool := g.paths.contains s.pathNo && g.unit < f.unit

def AKind.releases : AKind → Bool
  | .atomic _ sem _ => sem == .rel || sem == .ar
  | _ => false

/-- May the access be accepted now: a release part has waited (R206), no earlier load of the path is unbound that the access would
change (R208), an acquire of the path at other devices holds back what is not for another device (R370), and no contribution has to
wait for a paused stack (R237)? -/
def State.acceptable (s : State) (w : Window) (f : Flight) (accs : List LaneAcc) : Bool :=
  let rel := match f.kind with
    | .atomic _ sem sc => !(sem == .rel || sem == .ar) ||
        (s.strand.releaseReady s.pathNo w.flight sc && s.strand.allBound (s.earlier f) && s.flush.dev.passedOn s.coreNo sc)
    | .red _ => (s.flush.contributeAll s.coreNo s.partNo (s.contributions f accs)).isSome
    | _ => true
  rel && (!f.kind.writes ||
    s.strand.flights.all fun g => !s.earlier f g.2 || !g.2.kind.isLoad || g.2.accs.all fun a => a.over || !accs.any a.meets) &&
  (accs.all (fun a => 5 ≤ spaceOf a.pa) || !s.strand.flights.any fun g => s.earlier f g.2 && g.2.kind.acquires && g.2.farAcquire)

/-- The state as an access leaves it when translation has passed on some lanes and failed or met a watchpoint on others: the lanes that
fault leave for the handler, and those at a watchpoint in stop mode wait for the debugger (R412). Where the path cannot split for the
former it traps whole, and the latter meet their watchpoint when they are executed again. -/
def State.passLanes (s : State) (w : Window) (f : Flight) (accs : List LaneAcc) (bads : List LFault) (dems : List (Option (Nat × Nat)))
    (stops : List (Nat × Nat)) : State :=
  let at_ := fun (l : Nat) => if f.accs.length = 1 then lanesOf s.strand.width f.lanes else [l]
  let fs := bads.flatMap fun b => (at_ b.lane).map fun l => { b with lane := l }
  let ws : List LFault := stops.flatMap fun x => (at_ x.1).map fun l => ⟨l, 0xFF, 0⟩
  let gone := fs ++ ws
  let demand := if dems.all Option.isSome then (dems.filterMap id).eraseDups else []
  let s0 := s.undoWindow w f
  let s1 := s.accept w f accs (ofLanes (gone.map (·.lane)))
  match splitLanes s0 s1 w.pc w.done fs demand [], splitLanes s0 s0 w.pc w.done fs demand [] with
  | .ok t, .ok t0 =>
    let r := splitLanes t0 t w.pc w.done ws [] (stops.map fun x => 8 + x.2).eraseDups
    let u := match r with | .ok u => u | .error u => u
    let met : Bool := match r with | .ok _ => true | .error u => u.path.status == .debug
    match stops with
    | (_, n) :: _ => if met then { u with dev := u.dev.meetStop s.partNo 2 n s.coreNo s.slotNo (pathByte s.path) } else u
    | [] => u
  | .ok t, .error _ | .error t, _ => t

/-- The whole path traps at its long-latency instruction, which has no effect (R38). -/
def State.trapWindow (s : State) (w : Window) (f : Flight) (cause : Nat) : State :=
  let s0 := s.undoWindow w f
  { s0 with path := ({ s0.path with pc := w.pc }).trapped { pathTrap cause w.pc s0.path.blk with fdone := w.done, win := w.la } }

/-- TRANSLATION_PASSED for the path in focus (R36, R331 to R333, R338, R411). -/
def State.passAccess (s : State) : State :=
  match s.path.window with
  | none => s
  | some w =>
    match s.strand.flight w.flight with
    | none => s
    | some f =>
      if w.complete || f.passed || f.kind == .func then s
      else
        let res := f.accs.map (s.checkLane f)
        let accs := res.filterMap fun x => match x with | .ok a => some a | _ => none
        let bads := res.filterMap fun x => match x with | .bad a _ => some a | _ => none
        let dems := res.filterMap fun x => match x with | .bad _ d => some d | _ => none
        let stops := res.filterMap fun x => match x with | .stop l n => some (l, n) | _ => none
        if res.contains .priv then s.trapWindow w f cPriv
        else
          let s1 := s.onDev fun d => d.bindWhere s.coreNo s.slotNo (s.earlier f)
            (fun a => f.kind.releases || (f.kind.writes && accs.any fun b => b.sector = a.sector))
          if s1.acceptable w f accs then s1.passLanes w f accs bads dems stops else s

/-- The store that the path in focus waits for passes translation, and the other strands of its core do not see the lanes named before
they are shown (R206, R226). -/
def State.passHeld (s : State) (ls : List Nat) : State :=
  match s.path.window with
  | none => s
  | some w => match s.strand.flight w.flight with
    | none => s
    | some f =>
      if f.passed || !f.kind.isStore then s
      else
        let f := { f with accs := f.accs.map fun a => { a with held := ls.contains a.lane } }
        ({ s with strand := { s.strand with flights := tset s.strand.flights w.flight f } }).passAccess

def execTranslationPassed (p : PRef) (s : State) : Out :=
  match s.load p.core p.slot p.path with
  | some t => .next t.passAccess
  | none => .next s

/-! ### Function results (R36, R153) -/

/-- The values computed at issue are written, 4 clocks after the last sweep, whose last clock `issued` is (log entry 87). -/
def State.writeResult (s : State) : State :=
  match s.path.window with
  | none => s
  | some w =>
    match s.strand.flight w.flight with
    | none => s
    | some f =>
      if f.kind == .func && f.issued + 4 ≤ s.clock then
        let val := fun (l : Nat) => match f.accs.find? (·.lane == l) with | some a => a.data | none => 0
        let s1 := { s with path := s.path.completeWindow }
        let ps := s1.paths.map fun p => (p.1, p.2.deliver w.flight 0 val [])
        { s1 with path := s1.path.deliver w.flight 0 val [],
                  strand := { s1.strand with paths := ps, flights := tdel s1.strand.flights w.flight } }
      else s

def execFunctionResultWrite (p : PRef) (s : State) : Out :=
  match s.load p.core p.slot p.path with
  | some t => .next t.writeResult
  | none => .next s

/-! ### Arrivals of data, stores and atomics performed: an event befalls the lanes that it names, or all (R226) -/

/-- An earlier store of the core that touches a common byte is performed first (R208). -/
def Core.storesBefore (c : Core) (f : Flight) (a : LaneAcc) : Bool :=
  c.queuedStores.any fun g => g.2.seq < f.seq && g.2.accs.any fun b => !b.over && b.meets a

/-- The value a lane of a flight holds. -/
def Flight.valueAt (f : Flight) (l : Nat) : Word :=
  match f.accs.find? (·.lane == l) with
  | some a => a.val.getD 0
  | none => 0

/-- A flight as it stands now: it is over, and lands with the lanes that failed, or stays in flight. -/
def Strand.landOrKeep (st : Strand) (id : Nat) (f : Flight) : Strand :=
  if f.over then st.land id f (f.failed st.width) else { st with flights := tset st.flights id f }

/-- LOAD_DATA_ARRIVAL (R245, R228, R238): earlier loads of its paths bind first where they read the same sector; then its lanes bind,
and once all are over its data reaches the records that wait. -/
def State.arriveLoad (s : State) (cn sl id : Nat) (ls : List Nat) (e : Ending) : State :=
  match (s.strandAt cn sl).bind fun st => (st.flight id) with
  | none => s
  | some f =>
    if !f.kind.isLoad || !f.passed then s
    else
      let s1 := s.bindWhere cn sl (fun g => g.sharesPath f && g.seq < f.seq)
        (fun a => f.accs.any fun b => f.chosen ls e b && b.sector = a.sector)
      match s1.strandAt cn sl with
      | none => s
      | some st =>
        let s2 := (s1.setStrand cn sl { st with flights := tset st.flights id (f.fail s.dev ls e) }).bindFlight cn sl id (f.chosen ls e)
        match s2.strandAt cn sl with
        | none => s
        | some st =>
          match st.flight id with
          | none => s
          | some g => s2.setStrand cn sl
              (if g.over then (st.deliver id g.unit g.valueAt (g.failed st.width)).land id g (g.failed st.width) else st)

def execLoadDataArrival (core slot flight : Nat) (e : LaneEnd) (s : State) : Out :=
  .next (s.flush.arriveLoad core slot flight e.lanes e.ending)

/-- Is a lane of an access that acts on memory held back: by an earlier store of the core or access of its path, by a lower lane of its
own that touches a common byte, or by its stack (R208, R219, R227, R237)? -/
def State.laneWaits (s : State) (cn : Nat) (st : Strand) (f : Flight) (before : List LaneAcc) (a : LaneAcc) : Bool :=
  s.dev.paused a.pa || (s.dev.coreAt cn).storesBefore f a || st.heldBack f a || before.any fun b => !b.over && b.meets a

/-- The lanes of an access that acts on memory, in ascending order: each that is chosen, not over and not held back acts. -/
def actLanes (act : LaneAcc → State → LaneAcc × State) (ready : List LaneAcc → LaneAcc → State → Bool) :
    List LaneAcc → List LaneAcc → State → List LaneAcc × State
  | before, [], s => (before, s)
  | before, a :: r, s =>
    let x := if ready before a s then act a s else (a, s)
    actLanes act ready (before ++ [x.1]) r x.2

/-- The lanes of a flight that an event befalls act, or fail where they must; what it leaves of the flight. -/
def State.actFlight (s : State) (cn sl : Nat) (ls : List Nat) (e : Ending) (act : LaneAcc → State → LaneAcc × State) (f : Flight) :
    Flight × State :=
  match s.strandAt cn sl with
  | none => (f, s)
  | some st =>
    let one := fun (a : LaneAcc) (s : State) => match (if a.home then none else failCause s.dev e a) with
      | some c => ({ a with bad := some c }, s)
      | none => act a s
    let r := actLanes one (fun before a s => !a.over && f.chosen ls e a && !s.laneWaits cn st f before a) [] f.accs s
    ({ f with accs := r.1 }, r.2)

/-- Put a flight back into its strand, or land it. -/
def State.settleFlight (s : State) (cn sl id : Nat) (f : Flight) : State :=
  match s.strandAt cn sl with
  | none => s
  | some st => s.setStrand cn sl (st.landOrKeep id f)

/-- Lanes of an accepted store become visible to the other strands of its core: a sector of them that the L1 holds takes their bytes, under
those of stores accepted later (R186, R206, R208). -/
def State.showStore (s : State) (cn sl id : Nat) (ls : List Nat) (e : Ending) : State :=
  match (s.strandAt cn sl).bind fun st => (st.flight id).map fun f => (st, f) with
  | none => s
  | some (st, f) =>
    let now := fun (a : LaneAcc) => a.held && f.passed && !a.over && f.chosen ls e a
    if !f.accs.any now then s
    else
      let g := { f with accs := f.accs.map fun a => if now a then { a with held := false } else a }
      let s := s.setStrand cn sl { st with flights := tset st.flights id g }
      let c := s.dev.coreAt cn
      s.setCore cn { c with l1 := (f.accs.filter now).foldl (fun l1 a => tmod l1 a.sector fun bs =>
        overStores c (fun g b => f.seq < g.2.seq && !b.held) (a.sector * 32) (overlay (a.sector * 32) bs a.pa a.bytes)) c.l1 }

/-- STORE_PERFORMED (R246, R207, R227): the bytes of the lanes that do not fail reach memory in ascending lane order; a sector of a
failed lane leaves the L1. -/
def State.performStore (s : State) (cn sl id : Nat) (ls : List Nat) (e : Ending) : State :=
  let s := s.showStore cn sl id ls e
  match s.strandAt cn sl with
  | none => s
  | some st =>
    match st.flight id with
    | none => s
    | some f =>
      if !f.kind.isStore || !f.passed then s
      else
        let part := (s.dev.launchAt st.launch).part
        let r := s.actFlight cn sl ls e (fun a s =>
          ({ a with val := some 0 }, if a.home then s.writeCopy cn part a.pa a.bytes else s.writePlace cn part a.pa a.bytes)) f
        let c := r.2.dev.coreAt cn
        let lost := r.1.accs.filter (·.bad.isSome)
        let s1 := if lost.isEmpty then r.2 else r.2.setCore cn { c with l1 := dropL1 c.l1 lost }
        s1.settleFlight cn sl id r.1

def execStorePerformed (core slot flight : Nat) (e : LaneEnd) (s : State) : Out :=
  .next (s.flush.performStore core slot flight e.lanes e.ending)

/-- Lanes of a store have reached their home, and not yet the copy of it that their own die holds (R207). -/
def State.storeHome (s : State) (cn sl id : Nat) (ls : List Nat) : State :=
  match (s.strandAt cn sl).bind fun st => (st.flight id) with
  | none => s
  | some f =>
    if !f.kind.isStore || !f.passed then s
    else
      let part := match s.strandAt cn sl with | some st => (s.dev.launchAt st.launch).part | none => 0
      let r := s.actFlight cn sl ls .done (fun a s =>
        if a.home || (tget (s.dev.dieAt (dieOf cn)).copies (copyKey part (a.pa / 32))).isNone then (a, s)
        else ({ a with home := true }, s.writeHome a.pa a.bytes)) f
      r.2.settleFlight cn sl id r.1

/-- One lane of an atomic: one step of the atomic order of its location (R219, R251). -/
def atomLane (cn part : Nat) (k : AtomK) (a : LaneAcc) (s : State) : LaneAcc × State :=
  let v := s.atomicAt a fun old => atomVal k a.ty old a.data a.swap
  ({ a with val := some (widen a.ty v.1) }, v.2.bypass cn part a.pa)

/-- One addition of an `rflush` (R254); a place that can no longer be reached fails. -/
def flushLane (cn part : Nat) (a : LaneAcc) (s : State) : LaneAcc × State :=
  if a.pa = 2 ^ 200 then ({ a with bad := some cMemerr }, s)
  else ({ a with val := some 0 }, s.addPartial cn part a.pa a.op a.ty a.data)

/-- ATOMIC_PERFORMED (R219, R251, R254): lanes of an atomic, with its acquire after the last read, or the additions of an `rflush`,
whose failure names one address on the whole path. -/
def State.performAtomic (s : State) (cn sl id : Nat) (ls : List Nat) (e : Ending) : State :=
  let e := if e == .race then .done else e
  match s.strandAt cn sl with
  | none => s
  | some st =>
    match st.flight id with
    | none => s
    | some f =>
      let part := (s.dev.launchAt st.launch).part
      if !f.passed then s
      else match f.kind with
        | .flush =>
          let r := s.actFlight cn sl ls e (flushLane cn part) f
          match r.2.strandAt cn sl with
          | none => s
          | some st =>
            let bad : List LFault := (r.1.accs.find? (·.bad.isSome)).toList.flatMap fun a =>
              (lanesOf st.width f.lanes).map fun l => ⟨l, a.bad.getD cMemerr, a.va⟩
            r.2.setStrand cn sl (if r.1.over then st.land id r.1 bad else { st with flights := tset st.flights id r.1 })
        | .atomic k _ sc =>
          let acq := f.kind.acquires
          let before := fun (g : Flight) => g.sharesPath f && g.unit < f.unit
          let s1 := if acq then s.bindWhere cn sl before (fun _ => true) else s
          match s1.strandAt cn sl with
          | none => s
          | some st1 =>
            if acq && !st1.allBound before then s
            else
              let r := s1.actFlight cn sl ls e (atomLane cn part k) f
              if !r.1.over then r.2.settleFlight cn sl id r.1
              else
                let s2 := if acq then r.2.acquire cn part sc else r.2
                match s2.strandAt cn sl with
                | none => s
                | some st2 =>
                  let bad := r.1.failed st2.width
                  s2.setStrand cn sl ((st2.deliver id f.unit r.1.valueAt bad).land id r.1 bad)
        | _ => s

def execAtomicPerformed (core slot flight : Nat) (e : LaneEnd) (s : State) : Out :=
  .next (s.flush.performAtomic core slot flight e.lanes e.ending)

end Sys2Proof.Machine
end

