-- ==== Sys2Proof/Machine/Trans.lean ====
section
/-! DEFINITION. The functions of major 0x11, correctly rounded (R155, R156). Each is enclosed between two integers in units of
2^−Q, with Q raised until both round to the same code; the exact cases are taken out first, so some Q decides. -/
namespace Sys2Proof.Machine

/-- Sum of y^i ÷ i! in units of 2^−Q, every step rounded down. -/
def expLoop (q y : Nat) : Nat → Nat → Nat → Nat → Nat
  | 0, _, _, acc => acc
  | fuel + 1, i, term, acc => if term = 0 then acc else expLoop q y fuel (i + 1) (term * y / 2 ^ q / i) (acc + term)

def expFix (q y : Nat) : Nat := expLoop q y (q + 64) 1 (2 ^ q) 0

/-- Sum of (n ÷ d)^(2i+1) ÷ (2i+1), alternating in sign when `alt`, in units of 2^−Q. -/
def atanLoop (alt : Bool) (n d : Nat) : Nat → Nat → Nat → Int → Int
  | 0, _, _, acc => acc
  | fuel + 1, i, term, acc =>
    if term = 0 then acc
    else
      let x : Int := (term / (2 * i + 1) : Nat)
      atanLoop alt n d fuel (i + 1) (term * (n * n) / (d * d)) (if alt && i % 2 = 1 then acc - x else acc + x)

def atanFix (alt : Bool) (q n d : Nat) : Nat := (atanLoop alt n d (q + 64) 0 (2 ^ q * n / d) 0).toNat

/-- ln 2 and π ÷ 2 in units of 2^−Q, within 4 × (Q + 64) of them. -/
def ln2Fix (q : Nat) : Nat := 2 * atanFix false q 1 3
def halfPiFix (q : Nat) : Nat := 8 * atanFix true q 1 5 - 2 * atanFix true q 1 239

/-- Sine and cosine of r by their series, in units of 2^−Q: terms of alternating sign, the first added. -/
def trigLoop (q r : Nat) : Nat → Nat → Nat → Bool → Int → Int
  | 0, _, _, _, acc => acc
  | fuel + 1, i, term, minus, acc =>
    if term = 0 then acc
    else trigLoop q r fuel (i + 2) (term * r / 2 ^ q * r / 2 ^ q / (i * (i + 1))) (!minus)
      (if minus then acc - term else acc + term)

def sinFix (q r : Nat) : Int := trigLoop q r (q + 64) 2 r false 0
def cosFix (q r : Nat) : Int := trigLoop q r (q + 64) 1 (2 ^ q) false 0

/-- An enclosure in units of 2^−Q decides the result when both ends round to one code of one sign. -/
def settleCode (t : Ty) (q : Nat) (lo hi : Int) : Option Nat :=
  if 0 < lo then
    let a := roundQ t .rne false false lo.toNat 1 (-(q : Int))
    if a = roundQ t .rne false false hi.toNat 1 (-(q : Int)) then some a else none
  else if hi < 0 then
    let a := roundQ t .rne false true lo.natAbs 1 (-(q : Int))
    if a = roundQ t .rne false true hi.natAbs 1 (-(q : Int)) then some a else none
  else none

/-- The first precision that decides. -/
def firstOf (f : Nat → Option Nat) : List Nat → Nat
  | [] => 0
  | p :: r => match f p with | some c => c | none => firstOf f r

def precisions : List Nat := [64, 96, 160, 320, 640, 1280, 2560]

/-- 2^a for a finite non-zero a = ±m × 2^e. -/
def exp2Code (t : Ty) (neg : Bool) (m : Nat) (e : Int) : Nat :=
  if 12 < (Nat.log2 m : Int) + e then roundQ t .rne false false 1 1 (if neg then -10000 else 10000)
  else
    let d := shiftQ m 1 e
    let v : Int := if neg then -(d.1 : Int) else d.1
    let k := v / (d.2 : Int)
    let f := (v % (d.2 : Int)).toNat
    if f = 0 then roundQ t .rne false false 1 1 k
    else firstOf (fun q =>
      let y := f * ln2Fix q / d.2
      let x := expFix q y
      let err := 16 * (q + 64)
      match settleCode t q (x : Int) (x + err : Nat) with
      | none => none
      | some _ =>
        let a := roundQ t .rne false false x 1 (k - q)
        if a = roundQ t .rne false false (x + err) 1 (k - q) then some a else none) precisions

/-- log2 of a = m × 2^e > 0. -/
def log2Code (t : Ty) (m : Nat) (e : Int) : Nat :=
  let l := Nat.log2 m
  let k : Int := l + e
  let one := 2 ^ l
  if m = one then (if k = 0 then 0 else roundQ t .rne false (k < 0) k.natAbs 1 0)
  else firstOf (fun q =>
    let lnz := 2 * atanFix false q (m - one) (m + one)
    let ln2 := ln2Fix q
    let err := 4 * (q + 64)
    let lo : Int := k * (2 ^ q : Nat) + (lnz * 2 ^ q / (ln2 + err) : Nat)
    let hi : Int := k * (2 ^ q : Nat) + ((lnz + err) * 2 ^ q / ln2 + 1 : Nat)
    settleCode t q lo hi) precisions

/-- sin and cos of ±m × 2^e, the argument reduced by π ÷ 2 to as many bits as it has. -/
def trigCode (t : Ty) (cosine neg : Bool) (m : Nat) (e : Int) : Nat :=
  let mag := ((Nat.log2 m : Int) + e).natAbs
  firstOf (fun p =>
    let q := p + 2 * mag + 64
    let s := shiftQ m 1 (e + q)
    let x := s.1 / s.2
    let h := halfPiFix q
    let n := x / h
    let r := x % h
    let err : Int := ((n + 2) * (64 * (q + 64)) : Nat)
    let n := if cosine then n + 1 else n
    let v : Int := if n % 2 = 0 then sinFix q r else cosFix q r
    let v := if n % 4 < 2 then v else -v
    let v := if neg && !cosine then -v else v
    settleCode t q (v - err) (v + err)) precisions

/-- tanh of ±m × 2^e. -/
def tanhCode (t : Ty) (neg : Bool) (m : Nat) (e : Int) : Nat :=
  let big := 4 < (Nat.log2 m : Int) + e
  if big then roundQ t .rne false neg 1 1 0
  else
    let mag := ((Nat.log2 m : Int) + e).natAbs
    firstOf (fun p =>
      let q := p + 2 * mag + 128
      let s := shiftQ (2 * m) 1 (e + q)
      let y := s.1 / s.2
      let x := expFix q y
      let err := 2 ^ 100 * (q + 64)
      let one := 2 ^ q
      let lo : Int := ((x - one) * one / (x + one) : Nat)
      let hi : Int := ((x + err - one) * one / (x + err + one) + 1 : Nat)
      if neg then settleCode t q (-hi) (-lo) else settleCode t q lo hi) precisions

/-- The functions of one operand (R155), with the special cases of R156. -/
inductive FnOp where
  | rcp | rsq | sqrt | exp2 | log2 | sin | cos | tanh
  deriving DecidableEq, Repr

def oneCode (t : Ty) (neg : Bool) : Nat := roundQ t .rne false neg 1 1 0
def infOf (t : Ty) (neg : Bool) : Nat := infiniteCode t false neg

def fnCode (f : FnOp) (t : Ty) (c : Nat) : Nat :=
  match valueOf t c with
  | .nan => nanCode t
  | .inf neg =>
    match f with
    | .rcp => signBit t neg
    | .rsq => if neg then nanCode t else 0
    | .sqrt | .log2 => if neg then nanCode t else infOf t false
    | .exp2 => if neg then 0 else infOf t false
    | .sin | .cos => nanCode t
    | .tanh => oneCode t neg
  | .fin neg m e =>
    if m = 0 then
      match f with
      | .rcp | .rsq => infOf t neg
      | .sqrt | .sin | .tanh => signBit t neg
      | .exp2 | .cos => oneCode t false
      | .log2 => infOf t true
    else
      match f with
      | .rcp => roundQ t .rne false neg 1 m (-e)
      | .rsq => if neg then nanCode t else rsqrtCode t m e
      | .sqrt => if neg then nanCode t else sqrtCode t m e
      | .exp2 => exp2Code t neg m e
      | .log2 => if neg then nanCode t else log2Code t m e
      | .sin => trigCode t false neg m e
      | .cos => trigCode t true neg m e
      | .tanh => tanhCode t neg m e

end Sys2Proof.Machine
end

