-- ==== Sys2Proof/Machine/Buffers.lean ====
section
/-! DEFINITION. Typed-buffer accesses, majors 0x2A and 0x2B (R189 to R194, R247 to R249), the streaming operations, major 0x15
(R164 to R167), and the functions of major 0x11 (R153, R155, R156). -/
namespace Sys2Proof.Machine

/-- The canonical address of a logical one (R248). -/
def canonical (l : Nat) : Nat := l / 128 * 128 + (l / 16 % 8 + l / 128 % 8) % 8 * 16 + l % 16

/-- ALIGN and PROT of a lane address in a window (R191, R249); without a window PROT (R358). -/
def bufFaults (lanes : List Nat) (addr : Nat → Word) (size limit : Nat) : List LFault :=
  lanes.filterMap fun l =>
    let a := (addr l).toNat
    if limit = 0 then some ⟨l, cProt, addr l⟩ else if a % size ≠ 0 then some ⟨l, cAlign, addr l⟩ else if limit ≤ a then some ⟨l, cProt, addr l⟩ else none

/-- Clocks beyond the first that the sweeps of a lane access take (R192). -/
def bankExtra (w size : Nat) (lanes : List Nat) (phys : Nat → Nat) : Nat :=
  ((List.range (w / 32)).map fun j =>
    let ws := ((lanes.filter fun l => l / 32 = j).flatMap fun l =>
      if size = 8 then [phys l / 4, phys l / 4 + 1] else [phys l / 4]).eraseDups
    ((List.range 32).map fun b => (ws.filter fun x => x % 32 = b).length).foldl max 1 - 1).foldl (· + ·) 0

/-- A unit posted and completed at once (R247). -/
def State.postDone (s : State) (k : Nat) : State :=
  let id := s.uid
  { s with strand := (s.strand.post k (CUnit.one id s.path.pc)).complete id [], uid := id + 1 }

/-- A load from a buffer (R247): `read` gives the bytes at an address, `after` what a load that was executed does besides. -/
def bufLoad (limit : Nat) (conflicts : Bool) (phys : Nat → Nat) (read : Nat → Nat → Nat) (after : State → State) (o : LoadOp)
    (s : State) : Ex State := do
  waitFor (s.canPost o.k.val) s
  let en := s.enabled o.d o.mask
  let r ← readSrcs [(o.base, .n64), (o.index, .i32)] [] en s
  checkDest o.d o.ty.wide s r.2.2
  let addr := fun (l : Nat) => effAddr o.ty o.scaled o.disp ((r.1.map (·.at l)).getD 0 0) ((r.1.map (·.at l)).getD 1 0)
  let bad0 := bufFaults (lanesOf s.strand.width (without en r.2.1)) addr o.ty.size limit
  let bad := r.2.1 ++ bad0
  let good := without en bad
  let val := fun (l : Nat) => widen o.ty (BitVec.ofNat 64 (read (phys (addr l).toNat) o.ty.size))
  let s1 := writeDest o.d o.ty.wide good val r.2.2
  let lanes := if o.d.isScl then [0] else lanesOf s.strand.width good
  let s2 := if conflicts then
    { s1 with core := s1.core.count 7 (bankExtra s.strand.width o.ty.size lanes fun l => phys (addr l).toNat) } else s1
  let s3 ← splitLanes s (after (s2.postDone o.k.val)) s.path.pc 0 bad [] []
  .ok s3.done

def ldaOp (phys : Nat → Nat) (o : LoadOp) (s : State) : Ex State :=
  bufLoad s.cohort.asize true phys (fun a n => s.cohort.a.nat a n) id o s

def execLdA (o : LoadOp) (s : State) : Out := (ldaOp id o s).out
def execLdxA (o : LoadOp) (s : State) : Out := (ldaOp canonical o s).out
def execLdW (o : LoadOp) (s : State) : Out :=
  (bufLoad s.cohort.wsize false canonical (fun a n => s.cohort.w.nat a n) id o s).out

/-- A store to the A-buffer (R247): lanes in ascending order (R192, R208). -/
def staOp (phys : Nat → Nat) (o : StoreOp) (s : State) : Ex State := do
  waitFor (s.canPost o.k.val) s
  let scalar := Name.isScalar o.data
  let en := if scalar then s.path.lanes else s.path.mask o.mask
  let r ← readSrcs [(nameSrc o.data, o.ty), (o.base, .n64), (o.index, .i32)] [] en s
  let at_ := fun (l i : Nat) => (r.1.map (·.at l)).getD i 0
  let addr := fun (l : Nat) => effAddr o.ty o.scaled o.disp (at_ l 1) (at_ l 2)
  let bad0 := bufFaults (lanesOf s.strand.width (without en r.2.1)) addr o.ty.size s.cohort.asize
  let bad := r.2.1 ++ bad0
  let good := without en bad
  let lanes := if scalar then (if good = 0 then [] else [0]) else lanesOf s.strand.width good
  let s1 := r.2.2
  let co := s1.cohort
  let a := lanes.foldl (fun m l => m.write (phys (addr l).toNat) (leBytes o.ty.size (at_ l 0).toNat)) co.a
  let s2 := s1.setCohort { co with a := a }
  let s3 := { s2 with core := s2.core.count 7 (bankExtra s.strand.width o.ty.size lanes fun l => phys (addr l).toNat) }
  let s4 ← splitLanes s (s3.postDone o.k.val) s.path.pc 0 bad [] []
  .ok s4.done

def execStA (o : StoreOp) (s : State) : Out := (staOp id o s).out
def execStxA (o : StoreOp) (s : State) : Out := (staOp canonical o s).out

/-! ### The C-ring (R194, R249) -/

def Tile.esize (t : Tile) : Nat := if t.wide then 8 else 4
def Tile.bytes (t : Tile) : Nat := 16384 * t.esize

/-- The bytes of a tile as a number. -/
def Tile.nat (t : Tile) (a n : Nat) : Nat :=
  leNat ((List.range n).map fun i =>
    BitVec.ofNat 8 ((t.vals.getD ((a + i) / t.esize) 0).toNat / 2 ^ (8 * ((a + i) % t.esize))))

/-- The oldest closed tile of a ring: its tiles stand in order. -/
def Cohort.oldestClosed (c : Cohort) : Option (Nat × Tile) := c.tiles.find? (·.2.closed)

def execCrpeek (o : LoadOp) (s : State) : Out :=
  match s.cohort.oldestClosed with
  | none => if s.cohort.slots = 0 then (bufLoad 0 false id (fun _ _ => 0) id o s).out else .next s
  | some (_, t) => (bufLoad t.bytes false id t.nat id o s).out

/-- `crpop` takes the next tile in the order in which consumers issue, waits for its close, and releases it. -/
def execCrpop (o : LoadOp) (s : State) : Out :=
  let n := s.cohort.nextClaim
  match tget s.cohort.tiles n with
  | none => if s.cohort.slots = 0 then (bufLoad 0 false id (fun _ _ => 0) id o s).out else .next s
  | some t =>
    if t.closed then
      (bufLoad t.bytes false id t.nat (fun s =>
        let co := s.cohort
        s.setCohort { co with tiles := tdel co.tiles n, nextClaim := n + 1 }) o s).out
    else .next s

/-! ### Streaming operations (R164 to R167) -/

/-- Element j of a segment: the byte address of it in the window, modulo the buffer (R165). -/
def sxAddr (t : Ty) (base : Nat) (step : BitVec 16) (seg j : Nat) : Nat :=
  ((base : Int) + step.toInt * seg + (j * t.bits / 8 : Nat) : Int).emod 131072 |>.toNat

/-- An element's code; beyond the window it reads as zero (R191). -/
def sxGet (m : Memory) (size : Nat) (t : Ty) (a j : Nat) : Nat :=
  if size ≤ a then 0
  else if t.bits = 4 then (m.get a).toNat / 2 ^ (4 * (j % 2)) % 16 else m.nat a t.size

/-- An element written, or not, beyond the window. -/
def sxPut (m : Memory) (size : Nat) (t : Ty) (a j c : Nat) : Memory :=
  if size ≤ a then m
  else if t.bits = 4 then
    let b := (m.get a).toNat
    m.write a [BitVec.ofNat 8 (if j % 2 = 0 then b / 16 * 16 + c % 16 else c % 16 * 16 + b % 16)]
  else m.write a (leBytes t.size c)

/-- One segment; it reads all its inputs before it writes. `f` gets the codes of a, b and d. -/
def sxStep (m : Memory) (size : Nat) (dt st : Ty) (d a b : Nat) (sd sa sb : BitVec 16) (f : Nat → Nat → Nat → Nat) (seg : Nat) : Memory :=
  let out := (List.range 32).map fun j =>
    f (sxGet m size st (sxAddr st a sa seg j) j) (sxGet m size st (sxAddr st b sb seg j) j)
      (sxGet m size dt (sxAddr dt d sd seg j) j)
  (List.range 32).foldl (fun m j => sxPut m size dt (sxAddr dt d sd seg j) j (out.getD j 0)) m

/-- The pairwise tree over the 32 positions (R124). -/
def sxTree (t : Ty) (acc : List Nat) : Nat :=
  ([1, 2, 4, 8, 16].foldl (fun (acc : List Nat) step => (List.range 32).map fun j =>
    if j % (2 * step) = 0 then fAdd t (acc.getD j 0) (acc.getD (j + step) 0) else acc.getD j 0) acc).getD 0 0

/-- Segments of a streaming operation, and clocks of one (R166). -/
def sxCount : Instr → Nat
  | .sxAdd o | .sxMul o | .sxFma o | .sxMax o | .sxMin o => o.n.toNat
  | .sxCvt o => o.n.toNat
  | .sxExp2 o => o.n.toNat
  | .sxSum o => o.n.toNat
  | _ => 0

def sxClocks : Instr → Nat
  | .sxAdd o | .sxMul o | .sxFma o | .sxMax o | .sxMin o => if o.ty = .f64 then 2 else 1
  | .sxCvt o => if o.dty = .f64 || o.sty = .f64 then 2 else 1
  | .sxExp2 o => if o.ty = .f64 then 2 else 1
  | .sxSum o => if o.ty = .f64 then 2 else 1
  | _ => 1

/-- What one segment makes of the window of `size` bytes and of the sums so far (R164 to R167, R124); `v` are the scalars. -/
def sxSegment (op : Instr) (v : List Nat) (seg : Nat) (acc : List Nat) (m : Memory) (size : Nat) : Memory × List Nat :=
  let x := fun i => v.getD i 0
  let two := fun (o : SxOp) f => (sxStep m size o.ty o.ty (x 0) (x 1) (x 2) o.sd o.sa o.sb f seg, acc)
  match op with
  | .sxAdd o => two o fun a b _ => fAdd o.ty a b
  | .sxMul o => two o fun a b _ => fMul o.ty a b
  | .sxFma o => two o fun a b d => fFma o.ty a b d
  | .sxMax o => two o fun a b _ => fMax o.ty a b
  | .sxMin o => two o fun a b _ => fMin o.ty a b
  | .sxCvt o => (sxStep m size o.dty o.sty (x 0) (x 1) 0 o.sd o.sa 0 (fun a _ _ => cvtFloat o.dty o.sty o.mode o.sat a) seg, acc)
  | .sxExp2 o => (sxStep m size o.ty o.ty (x 0) (x 1) 0 o.sd o.sa 0 (fun a _ _ => fnCode .exp2 o.ty a) seg, acc)
  | .sxSum o =>
    let c := (List.range 32).map fun j => sxGet m size o.ty (sxAddr o.ty (x 1) o.sa seg j) j
    let acc := if seg = 0 then c else List.zipWith (fAdd o.ty) acc c
    (if seg + 1 = o.n.toNat then sxPut m size o.ty (x 0 % 131072) 0 (sxTree o.ty acc) else m, acc)
  | _ => (m, acc)

/-- The path that issued the streaming operation has it complete for lookahead (R36, R167). -/
def Core.endStream (c : Core) (x : Stream) : Core :=
  { c with
    strands := tmod c.strands x.slot fun st => { st with paths := tmod st.paths x.path Path.completeWindow }
    stream := none }

/-- One segment of the streaming operation of a core; with the last one it completes. -/
def Core.stepStream (c : Core) : Core :=
  match c.stream with
  | none => c
  | some x => match tget c.cohorts x.key with
    | none => { c with stream := none }
    | some h =>
      let r := sxSegment x.op x.vals x.seg x.acc h.a h.asize
      let c := { c with cohorts := tset c.cohorts x.key { h with a := r.1 } }
      if x.seg + 1 < sxCount x.op then { c with stream := some { x with seg := x.seg + 1, clk := x.clk + sxClocks x.op, acc := r.2 } }
      else c.endStream x

/-- Destination of a streaming operation that writes one segment of elements for each of its segments: type and step. -/
def sxDest : Instr → Option (Ty × BitVec 16)
  | .sxAdd o | .sxMul o | .sxFma o | .sxMax o | .sxMin o => some (o.ty, o.sd)
  | .sxCvt o => some (o.dty, o.sd)
  | .sxExp2 o => some (o.ty, o.sd)
  | _ => none

/-- The window of an A-buffer with the bytes that a streaming operation has written put back as they were at its issue (R38, R345). -/
def Stream.undone (x : Stream) (h : Cohort) : Memory :=
  match sxDest x.op with
  | none => h.a
  | some (t, step) =>
    ((List.range x.seg).flatMap fun k => (List.range 32).map fun j => sxAddr t (x.vals.getD 0 0) step k j).foldl (fun m a =>
      if a < h.asize then m.write a (x.was.read a (max 1 t.size)) else m) h.a

/-- The segments of a core that fall before a clock. -/
def Core.runStream (c : Core) (till : Nat) : Core :=
  match c.stream with
  | none => c
  | some x =>
    let per := sxClocks x.op
    (List.range (min (sxCount x.op - x.seg) ((till - x.clk + per - 1) / per))).foldl (fun c _ => c.stepStream) c

/-- The segments of every core that fall before a clock (R166). -/
def Device.runStreams (d : Device) (till : Nat) : Device :=
  if d.cores.all (·.2.stream.isNone) then d else { d with cores := d.cores.map fun c => (c.1, c.2.runStream till) }

def afSrc : AField → Src
  | .scl n => .scl n
  | .const k => .const (k.setWidth 7)

/-- The first of the addresses and steps that is no multiple of its operand's element size (R167). -/
def sxMisaligned (xs : List (Nat × BitVec 16 × Ty)) : Option Nat :=
  xs.findSome? fun (a, st, t) =>
    let n := max 1 t.size
    if a % n ≠ 0 || st.toNat % n ≠ 0 then some a else none

/-- A streaming operation issues, once per path (R164 to R167): its segments run clock by clock from then on (R166), and with the last
its window is complete. A misaligned operand raises ALIGN where the count is 0 as well: which of R166 and R167 holds then is not stated
(log entry 122). -/
def sxOp (la : Fin 16) (op : Instr) (srcs : List AField) (checks : List Nat → List (Nat × BitVec 16 × Ty)) (s : State) : Ex State := do
  waitFor (!s.strand.acquiring s.pathNo && s.core.stream.isNone) s
  let ss := srcs.map fun x => (afSrc x, Ty.n64)
  let r ← readSrcs ss [] s.path.lanes s
  let v := r.1.map fun x => (x.at 0).toNat
  match sxMisaligned (checks v) with
  | some a => raiseAddr cAlign ((lanesOf s.strand.width s.path.lanes).map fun l => ⟨l, cAlign, BitVec.ofNat 64 a⟩) s
  | none =>
    let x : Stream := {
      slot := s.slotNo, path := s.pathNo, key := s.strand.cohort, op := op, vals := v, seg := 0, clk := s.clock, acc := []
      was := s.cohort.a }
    let s1 := if sxCount op = 0 then r.2.2 else { r.2.2 with core := { r.2.2.core with stream := some x } }
    let s2 ← splitLanes s s1 s.path.pc 0 r.2.1 [] []
    .ok (s.openWindow s2 la (namesOf ss []) [] [] 0 (sxCount op = 0))

def sx2 (op : Instr) (o : SxOp) (s : State) : Ex State :=
  sxOp o.la op [o.d, o.a, o.b] (fun v => [(v.getD 0 0, o.sd, o.ty), (v.getD 1 0, o.sa, o.ty), (v.getD 2 0, o.sb, o.ty)]) s

def execSxAdd (o : SxOp) (s : State) : Out := (sx2 (.sxAdd o) o s).out
def execSxMul (o : SxOp) (s : State) : Out := (sx2 (.sxMul o) o s).out
def execSxFma (o : SxOp) (s : State) : Out := (sx2 (.sxFma o) o s).out
def execSxMax (o : SxOp) (s : State) : Out := (sx2 (.sxMax o) o s).out
def execSxMin (o : SxOp) (s : State) : Out := (sx2 (.sxMin o) o s).out

def execSxCvt (o : SxCvtOp) (s : State) : Out :=
  (sxOp o.la (.sxCvt o) [o.d, o.a] (fun v => [(v.getD 0 0, o.sd, o.dty), (v.getD 1 0, o.sa, o.sty)]) s).out

def execSxExp2 (o : SxUnOp) (s : State) : Out :=
  (sxOp o.la (.sxExp2 o) [o.d, o.a] (fun v => [(v.getD 0 0, o.sd, o.ty), (v.getD 1 0, o.sa, o.ty)]) s).out

def execSxSum (o : SxSumOp) (s : State) : Out :=
  (sxOp o.la (.sxSum o) [o.d, o.a] (fun v => [(v.getD 0 0, 0, o.ty), (v.getD 1 0, o.sa, o.ty)]) s).out

/-! ### Functions, major 0x11 -/

/-- Clocks of the pipe for a function (R153): `base` for each sweep, or once for a scalar, doubled for f64. -/
def fnClocks (base : Nat) (ty : Ty) (scalar : Bool) (w : Nat) (m : LaneSet) : Nat :=
  (if scalar then 1 else sweeps w m) * (if ty = .f64 then 2 * base else base)

/-- A function issues (R36, R153): its results are computed from the operands read at issue, and written by the event
FUNCTION_RESULT_WRITE. -/
def fnIssue (base : Nat) (la : Fin 16) (m : Fin 16) (ty : Ty) (d : Dest) (srcs : List Src) (f : List Word → Word) (s : State) : Ex State := do
  let en := s.enabled d m
  let ss := srcs.map fun x => (x, ty)
  let r ← readSrcs ss [] en s
  checkDest d ty.wide s r.2.2
  let good := without en r.2.1
  let s1 := writeDest d ty.wide 0 (fun _ => 0) r.2.2
  let id := s1.uid
  let s1 := { s1 with path := s1.path.await d id (if d.isScl then 1 else good), uid := id + 1 }
  let s2 ← splitLanes s s1 s.path.pc 0 r.2.1 [] []
  let lanes := if d.isScl then [0] else lanesOf s.strand.width good
  let fl : Flight := {
    kind := .func, paths := [s.pathNo], pc := s.path.pc
    issued := s.clock + (fnClocks base ty d.isScl s.strand.width en - 1), ticket := s.dev.ticket, ctr := none, unit := 0
    ty := ty, d := (destName d).map (·.1), lanes := good
    accs := lanes.map fun l => laneAcc ty .add l 0 (f (r.1.map (·.at l))) 0, passed := false, seq := 0, pub := 0 }
  let s3 := { s2 with strand := { s2.strand with flights := tset s2.strand.flights id fl } }
  .ok (s.openWindow s3 la (namesOf ss []) (srcWalkers ss) ((destName d).toList.map (·.1)) id false)

def fn1 (o : Fn1) (f : FnOp) (s : State) : Ex State :=
  fnIssue (if f = .sqrt then 8 else 4) o.la o.mask o.ty o.d [o.a] (fun v => eachElem o.ty (fnCode f o.ty) (v.getD 0 0)) s

def execFdiv (o : Fn2) (s : State) : Out :=
  (fnIssue 8 o.la o.mask o.ty o.d [o.a, o.b]
    (fun v => eachElem2 o.ty (fun a b => divCode o.ty (valueOf o.ty a) (valueOf o.ty b)) (v.getD 0 0) (v.getD 1 0)) s).out

def execFrcp (o : Fn1) (s : State) : Out := (fn1 o .rcp s).out
def execFrsq (o : Fn1) (s : State) : Out := (fn1 o .rsq s).out
def execFsqrt (o : Fn1) (s : State) : Out := (fn1 o .sqrt s).out
def execFexp2 (o : Fn1) (s : State) : Out := (fn1 o .exp2 s).out
def execFlog2 (o : Fn1) (s : State) : Out := (fn1 o .log2 s).out
def execFsin (o : Fn1) (s : State) : Out := (fn1 o .sin s).out
def execFcos (o : Fn1) (s : State) : Out := (fn1 o .cos s).out
def execFtanh (o : Fn1) (s : State) : Out := (fn1 o .tanh s).out

end Sys2Proof.Machine
end

