-- ==== Sys2Proof/Machine/Tags.lean ====
section
/-! DEFINITION. Route tags (R140 to R143, R261 to R264): where each level keeps them, arrivals, detaches, and the test that
completes a phase. -/
namespace Sys2Proof.Machine

/-- Delay from the completing event to the release of waiters, by level (R263). -/
def levelDelay : Level → Nat
  | .core => 4 | .quad => 12 | .die => 60 | .pkg => 320 | .pod => 1280

/-- Levels that count lanes by attachment; the others count against n (R264). -/
def attaches : Level → Bool
  | .core | .quad => true
  | _ => false

/-- The key of the pod group that the launch names (R372). -/
def State.podKey (s : State) : Option Nat := s.launch.podgrp.bind fun g => (tget s.part.pods g).map (·.key)

/-- The tag as it stands. -/
def State.tag (s : State) (l : Level) (t : Nat) : Tag :=
  match l with
  | .core => tgetD s.cohort.tags t .empty
  | .quad => tgetD (tgetD (s.dev.quadAt (quadOf s.coreNo)).tags s.strand.cohort []) t .empty
  | .die => tgetD (tgetD s.launch.dieTags (dieOf s.coreNo) []) t .empty
  | .pkg => tgetD s.launch.pkgTags t .empty
  | .pod => match s.podKey with
    | some k => tgetD (tgetD s.dev.podTags k []) t .empty
    | none => .empty

def State.setTag (s : State) (l : Level) (t : Nat) (x : Tag) : State :=
  match l with
  | .core => let c := s.cohort; s.setCohort { c with tags := tset c.tags t x }
  | .quad =>
    let q := s.dev.quadAt (quadOf s.coreNo)
    let ts := tset (tgetD q.tags s.strand.cohort []) t x
    { s with dev := s.dev.setQuad (quadOf s.coreNo) { q with tags := tset q.tags s.strand.cohort ts } }
  | .die =>
    let la := s.launch
    let ts := tset (tgetD la.dieTags (dieOf s.coreNo) []) t x
    let la := { la with dieTags := tset la.dieTags (dieOf s.coreNo) ts }
    { s with dev := { s.dev with launches := tset s.dev.launches s.strand.launch la } }
  | .pkg =>
    let la := s.launch
    let la := { la with pkgTags := tset la.pkgTags t x }
    { s with dev := { s.dev with launches := tset s.dev.launches s.strand.launch la } }
  | .pod => match s.podKey with
    | some k =>
      let ts := tset (tgetD s.dev.podTags k []) t x
      { s with dev := { s.dev with podTags := tset s.dev.podTags k ts } }
    | none => s

/-- Lanes a strand keeps attached: those that have not exited (R141, R175). -/
def Strand.liveLanes (st : Strand) : Nat := countLanes st.width (allLanes st.width &&& ~~~st.exited)

/-- Is the strand attached to the tag at the level? -/
def Strand.attached (st : Strand) (l : Level) (t : Nat) : Bool :=
  match l with
  | .core => st.tagsCore.getLsbD t
  | .quad => st.tagsQuad.getLsbD t
  | _ => true

/-- Lanes attached to a tag among the strands of a cohort on some cores. -/
def attachedLanes (cores : List Core) (key : Nat) (l : Level) (t : Nat) : Nat :=
  cores.foldl (fun n c => c.strands.foldl (fun n e =>
    if e.2.cohort == key && e.2.attached l t then n + e.2.liveLanes else n) n) 0

def Tag.arrived (x : Tag) : Nat := x.arrivals.foldl (fun n a => if a.drop then n else n + a.n) 0
def Tag.votes (x : Tag) : Nat := x.arrivals.foldl (fun n a => n + a.votes) 0

/-- The completion test, made once after all events of a clock (R143, R264): `clock` is the clock of those events, `again` the
expected count of the next phase. -/
def Tag.test (x : Tag) (l : Level) (clock : Nat) (again : Option Nat) : Tag :=
  let full := match x.expected with
    | none => false
    | some e => if attaches l then e != 0 && e == x.arrived else e ≤ x.arrived
  if !x.dirty then x
  else if !full then { x with dirty := false }
  else
    let rel := (x.arrivals.filter (·.waits)).map fun a =>
      ({ core := a.core, slot := a.slot, path := a.path, from_ := clock + levelDelay l, votes := x.votes, acq := true,
         phase := x.phases } : Release)
    { expected := again, phase := !x.phase, arrivals := [], releases := x.releases ++ rel, phases := x.phases + 1,
      dirty := false }

/-- A path's arrival; at the counting levels the first of a phase sets the expected lanes (R264). -/
def Tag.arrive (x : Tag) (l : Level) (a : Arrival) (n : Nat) : Tag :=
  { x with expected := if attaches l then x.expected else some (x.expected.getD n), arrivals := x.arrivals ++ [a], dirty := true }

/-- Lanes of a strand leave (R141, R142): their expectation and the arrivals they posted; lanes dropped in this phase have left
the expectation already (R262). -/
def Tag.leave (x : Tag) (core slot width : Nat) (ls : LaneSet) : Tag :=
  let mine := fun (a : Arrival) => a.core == core && a.slot == slot
  let dropped := x.arrivals.foldl (fun m a => if mine a && a.drop then m ||| a.lanes else m) 0
  let gone := countLanes width (ls &&& ~~~dropped)
  let arr := (x.arrivals.map fun a => if mine a then
      { a with lanes := a.lanes &&& ~~~ls, n := countLanes width (a.lanes &&& ~~~ls) } else a).filter fun a =>
        !mine a || a.n != 0
  { x with expected := x.expected.map (· - gone), arrivals := arr, dirty := true }

/-- Release the waiting paths of a strand at once, without an acquire and with a vote sum of 0 (R142). -/
def Tag.releaseStrand (x : Tag) (core slot clock : Nat) : Tag :=
  let rel := (x.arrivals.filter fun a => a.core == core && a.slot == slot && a.waits).map fun a =>
    ({ core := core, slot := slot, path := a.path, from_ := clock, votes := 0, acq := false, phase := x.phases } : Release)
  { x with releases := x.releases ++ rel }

/-- Do lanes of the path already stand in the current phase (R263)? -/
def Tag.holds (x : Tag) (core slot : Nat) (ls : LaneSet) : Bool :=
  x.arrivals.any fun a => a.core == core && a.slot == slot && a.lanes &&& ls != 0

/-- A tag of a counting level after a strand has left its slot: its arrivals stay counted (R264, R367) and name no slot any more. -/
def Tag.orphan (x : Tag) (core slot : Nat) : Tag :=
  let mine := fun (c sl : Nat) => c == core && sl == slot
  { x with
    arrivals := x.arrivals.map fun a => if mine a.core a.slot then { a with core := 512, slot := 0, path := 0, waits := false } else a
    releases := x.releases.filter fun r => !mine r.core r.slot }

def orphanTags (ts : Tbl Tag) (core slot : Nat) : Tbl Tag := ts.map fun e => (e.1, e.2.orphan core slot)

/-- The counting levels of the package after a strand has left a slot. -/
def Device.orphan (d : Device) (core slot : Nat) : Device :=
  { d with
    launches := d.launches.map fun l => (l.1, { l.2 with
      dieTags := l.2.dieTags.map fun t => (t.1, orphanTags t.2 core slot), pkgTags := orphanTags l.2.pkgTags core slot })
    podTags := d.podTags.map fun t => (t.1, orphanTags t.2 core slot) }

def tagNumbers (b : BitVec 8) : List Nat := (List.range 8).filter fun t => b.getLsbD t

/-- Lanes of the strand in focus leave every tag it is attached to (R141). -/
def State.leaveTags (s : State) (ls : LaneSet) : State :=
  let one := fun (l : Level) (s : State) (t : Nat) =>
    s.setTag l t ((s.tag l t).leave s.coreNo s.slotNo s.strand.width ls)
  let s := (tagNumbers s.strand.tagsCore).foldl (one .core) s
  (tagNumbers s.strand.tagsQuad).foldl (one .quad) s

/-- The tests of every tag of one cohort on a core. -/
def testTags (ts : Tbl Tag) (l : Level) (clock : Nat) (again : Nat → Option Nat) : Tbl Tag :=
  ts.map fun e => (e.1, e.2.test l clock (again e.1))

/-- The completion tests of every tag of the package, at the end of a clock. -/
def Device.testAll (d : Device) (clock : Nat) : Device :=
  let cores := d.cores.map fun c => (c.1, { c.2 with cohorts := c.2.cohorts.map fun h =>
    (h.1, { h.2 with tags := testTags h.2.tags .core clock fun t => some (attachedLanes [c.2] h.1 .core t) }) })
  let quads := d.quads.map fun q => (q.1, { q.2 with tags := q.2.tags.map fun h =>
    (h.1, testTags h.2 .quad clock fun t =>
      some (attachedLanes ((List.range 4).map fun i => d.coreAt (4 * q.1 + i)) h.1 .quad t)) })
  let launches := d.launches.map fun l => (l.1, { l.2 with
    dieTags := l.2.dieTags.map fun e => (e.1, testTags e.2 .die clock fun _ => none)
    pkgTags := testTags l.2.pkgTags .pkg clock fun _ => none })
  let pods := d.podTags.map fun e => (e.1, testTags e.2 .pod clock fun _ => none)
  { d with cores := cores, quads := quads, launches := launches, podTags := pods }

end Sys2Proof.Machine
end

