-- ==== Sys2Proof/Machine/Control.lean ====
section
/-! DEFINITION. Branches, calls, returns and exit, major 0x08 (R86 to R90), with the divergent split (R132 to R136). -/
namespace Sys2Proof.Machine

/-- The target of a format B offset: words from the instruction itself (R49). -/
def branchTo (pc : Word) (off : BitVec 27) : Word := pc + (off.signExtend 64 <<< 3)

/-- Majors 0x08 and 0x09 must end their block (R86). -/
def endsBlock (s : State) : Ex Unit := if s.path.atEnd then .ok () else raise cIllop s

/-- What a transferring instruction changed: the names it read or wrote, as they were. -/
def undoOf (s : State) (ns : List Name) : Undo := ⟨ns.map fun n => (n, s.path.get n), [], none⟩

/-- Transfer to an address, with the packet of a direct transfer (R404). -/
def State.jump (s : State) (a : Word) (u : Undo) : State :=
  let pc := s.path.pc
  (s.issued.trace 1 0x31 0 pc [] []).goTo a false pc u

/-- Continue at the following block, with the packet of a branch not taken. -/
def State.notTaken (s : State) : State :=
  let pc := s.path.pc
  let s := s.issued.trace 1 0x30 0 pc [] []
  s.goTo s.path.blk.stop true s.path.blk.stop .nothing

/-- Transfer to an address read from a name, with the packet of an indirect transfer. -/
def State.jumpIndirect (s : State) (a : Word) (u : Undo) : State :=
  let pc := s.path.pc
  (s.issued.trace 1 0x32 0 pc [] (leBytes 8 a.toNat)).goTo a false pc u

def brOp (off : BitVec 27) (s : State) : Ex State := do
  endsBlock s
  .ok (s.jump (branchTo s.path.pc off) .nothing)

def execBr (off : BitVec 27) (s : State) : Out := (brOp off s).out

/-- The other path slot of the strand, if nothing holds it (R415). -/
def otherSlot (paths : Tbl Path) (mine : Option Nat) : Option Nat :=
  let o := 1 - mine.getD 0
  if paths.any fun p => p.2.slot == some o then none else some o

/-- The divergent split (R132): arm T at the target, arm F at the following block. At a top split both are schedulable; a
nested split serialises, the arm whose first block is in the instruction buffer first, arm F first otherwise (R134, R135). A split by
a path that is no arm of an open split, a fragment or the parent of one, serialises too while another split of the strand is open
(log entry 84). -/
def State.split (s : State) (taken : LaneSet) (target : Word) (join : Word) : State :=
  let pc := s.path.pc
  let id := s.strand.next
  let tid := id + 1
  let top := s.strand.splits.isEmpty
  let inBuf := fun (a : Word) => (s.buffered a).isSome
  let after := s.path.blk.stop
  let tFirst := !top && inBuf target && !inBuf after
  let tslot := if top then otherSlot s.paths s.path.slot else none
  let cut := fun (m : LaneSet) => s.path.masks.map fun e => (e.1, e.2 &&& m)
  let s := s.issued.trace 1 0x33 ((if top then tslot.getD 0 else 0) + (if tFirst then 2 else 0)) pc [tid] (laneBytes taken)
  let armT : Path := { s.path with
    lanes := taken, masks := cut taken, arms := (id, true) :: s.path.arms, last := 0, window := none
    slot := if top then tslot else if tFirst then s.path.slot else none
    status := .stacked target false pc }
  let armF : Path := { s.path with
    lanes := s.path.lanes &&& ~~~taken, masks := cut (s.path.lanes &&& ~~~taken), arms := (id, false) :: s.path.arms
    last := 0, window := none
    slot := if tFirst then none else s.path.slot
    status := if tFirst then .stacked after true after else .ready }
  let st := { s.strand with next := id + 2, splits := tset s.strand.splits id ⟨join, top, []⟩,
                            paths := tset s.strand.paths tid armT }
  let st := st.inherit s.pathNo tid
  let s := { s with strand := st, path := armF, core := { s.core with run := 8 } }
  let s := if tFirst then s else s.goTo after true after .nothing
  if top || tFirst then s.withPath tid fun s => s.goTo target false pc .nothing else s

/-- `brd` (R88): whole, not taken, or a split; ILLOP where the block names no reconvergence. -/
def brdOp (mc : Fin 16) (neg : Bool) (off : BitVec 27) (s : State) : Ex State := do
  endsBlock s
  match s.path.blk.rcv with
  | none => raise cIllop s
  | some join =>
    let m := s.path.mask mc
    let taken := if neg then s.path.lanes &&& ~~~m else m
    let target := branchTo s.path.pc off
    if taken = s.path.lanes then .ok (s.jump target .nothing)
    else if taken = 0 then .ok s.notTaken
    else .ok (s.split taken target join)

def execBrd (mc : Fin 16) (neg : Bool) (off : BitVec 27) (s : State) : Out := (brdOp mc neg off s).out

/-- `brnz` and `brz` (R87). -/
def brIf (nonzero : Bool) (x : Fin 64) (off : BitVec 27) (s : State) : Ex State := do
  endsBlock s
  scalarOp [(.scl x, .n64)] (fun v s1 =>
    if (v.getD 0 0 != 0) == nonzero then .ok (s1.jump (branchTo s.path.pc off) (undoOf s [.scl x]))
    else .ok s1.notTaken) s

def execBrnz (x : Fin 64) (off : BitVec 27) (s : State) : Out := (brIf true x off s).out
def execBrz (x : Fin 64) (off : BitVec 27) (s : State) : Out := (brIf false x off s).out

def destNames (d : Dest) : List Name := match destName d with | some (n, _) => [n] | none => []

/-- `call` (R40, R89): the link is the header after this block. -/
def callOp (d : Dest) (off : BitVec 27) (s : State) : Ex State := do
  endsBlock s
  let s1 ← setScalar d true s.path.blk.stop s s
  .ok (s1.jump (branchTo s.path.pc off) (undoOf s (destNames d)))

def execCall (d : Dest) (off : BitVec 27) (s : State) : Out := (callOp d off s).out

/-- `callx` (R89): the target is read first, so the link may take its name. -/
def callxOp (d : Dest) (t : Fin 64) (s : State) : Ex State := do
  endsBlock s
  scalarOp [(.scl t, .n64)] (fun v s1 => do
    let s2 ← setScalar d true s.path.blk.stop s s1
    .ok (s2.jumpIndirect (v.getD 0 0) (undoOf s (.scl t :: destNames d)))) s

def execCallx (d : Dest) (t : Fin 64) (s : State) : Out := (callxOp d t s).out

def retOp (x : Fin 64) (s : State) : Ex State := do
  endsBlock s
  scalarOp [(.scl x, .n64)] (fun v s1 => .ok (s1.jumpIndirect (v.getD 0 0) (undoOf s [.scl x]))) s

def execRet (x : Fin 64) (s : State) : Out := (retOp x s).out

/-- Records a path holds. -/
def Path.records (p : Path) : Nat := p.v.length + p.sc.length

/-- Open splits of a strand without an arm left leave the stack (R137). -/
def Strand.closeSplits (st : Strand) : Strand :=
  { st with splits := st.splits.filter fun e => st.paths.any fun p => p.2.arms.any fun a => a.1 == e.1 }

/-- Where a strand that has ended stands while accesses of it are in flight: beyond the 48 slots. -/
def goneKey (sts : Tbl Strand) : Nat := sts.foldl (fun n e => max n (e.1 + 1)) 64

/-- A strand without a path has ended: it leaves its slot at once, and the core once its accesses are over (R41, R90, R127). -/
def Core.endStrand (c : Core) (slot : Nat) (st : Strand) : Core :=
  let co := tgetD c.cohorts st.cohort .empty
  if st.gone then
    { c with strands := if st.flights.isEmpty then tdel c.strands slot else tset (tdel c.strands slot) (goneKey c.strands) st,
             cohorts := tset c.cohorts st.cohort { co with ended := co.ended + 1 } }
  else { c with strands := tset c.strands slot st }

/-- What the strand keeps of a path that ends: it is noted at the splits it was an arm of (R210), and fragments whose parent was one
arm of a split have another path of that split as their parent from then on (R334). -/
def Strand.dropPath (st : Strand) (id : Nat) (p : Path) : Strand :=
  let ps := tdel st.paths id
  let heir := p.arms.head?.bind fun a => (ps.find? fun q => q.2.arms.any fun b => b.1 == a.1).map (·.1)
  let ps := match heir with
    | some h => ps.map fun q => if q.2.parent = some id then (q.1, { q.2 with parent := some h }) else q
    | none => ps
  let sp := st.splits.map fun e => if p.arms.any (fun a => a.1 == e.1) then (e.1, { e.2 with gone := e.2.gone ++ [id] }) else e
  { st with paths := ps, splits := sp }

/-- The path in focus ends (R41, R90): its lanes leave every tag, its records are freed and counted, and the strand ends with
its last path. -/
def State.endPath (s : State) : State :=
  let s := if s.strand.paths.length ≤ 1 then s.noteCsize else s
  let s := { s with core := s.core.count 0 s.path.records }
  let s := { s with strand := { s.strand with exited := s.strand.exited ||| s.path.lanes } }
  let s := s.leaveTags s.path.lanes
  let st := (s.strand.dropPath s.pathNo s.path).closeSplits
  let co := s.core.endStrand s.slotNo st
  { s with core := co, strand := st, path := .empty, focus := none,
           dev := { s.dev with cores := tset s.dev.cores s.coreNo co } }

def exitOp (s : State) : Ex State := do
  endsBlock s
  .ok (s.issued.trace 1 0x35 0 s.path.pc [] []).endPath

def execExit (s : State) : Out := (exitOp s).out

end Sys2Proof.Machine
end

