-- ==== Sys2Proof/Machine/Sync.lean ====
section
/-! DEFINITION. Fences, counters and batches, major 0x30 (R256 to R260), route-tag barriers, major 0x31 (R261 to R264), and arrival
barriers, major 0x32 (R265 to R270). -/
namespace Sys2Proof.Machine

/-! ### Releases of the issuing path -/

/-- Every earlier load of the path in focus that can bind is bound: an acquire waits until all are (R206). -/
def State.bindAll (s : State) : State := s.onDev fun d => d.bindPath s.coreNo s.slotNo s.pathNo s.uid

def State.allBound (s : State) : Bool := s.strand.allBound fun f => f.paths.contains s.pathNo

/-- The path in focus performs a release (R206, R211): it waits at issue until its earlier accesses, and those that reached it through a
narrower release, are performed as the scope asks and its earlier loads are bound. `s0` is the state to stall with. -/
def releaseAt (sc : Scope) (s0 s : State) : Ex State :=
  let s1 := s.bindAll
  if s1.strand.releaseReady s.pathNo s.uid sc && s1.allBound && s1.flush.dev.passedOn s.coreNo sc then
    .ok { s1 with strand := s1.strand.released s.pathNo sc }
  else .error s0

/-- The path in focus performs an acquire (R206). -/
def State.acquireAt (s : State) (sc : Scope) : State := s.onDev fun d => d.acquire s.coreNo s.partNo sc

/-- `fence` (R214, R257). -/
def fenceOp (sc : Scope) (s : State) : Ex State := do
  let s1 ← releaseAt sc s s
  .ok (s1.acquireAt sc).done

def execFence (sc : Scope) (s : State) : Out := (fenceOp sc s).out

/-! ### Waits (R258) -/

/-- Does a failure strike the path: its lanes, or the whole path? -/
def Fail.strikes (f : Fail) (p : Path) : Bool := f.lanes.isEmpty || f.lanes.any fun l => p.lanes.getLsbD l.lane

/-- The oldest failed unit, in issue order (R286). -/
def oldestUnit (fs : List Fail) : Option Nat :=
  fs.foldl (fun o f => match o with | none => some f.unit | some u => some (min u f.unit)) none

/-- A failure without the lanes of a path. -/
def Fail.without (f : Fail) (p : Path) : Option Fail :=
  let ls := f.lanes.filter fun l => !p.lanes.getLsbD l.lane
  if ls.isEmpty then none else some { f with lanes := ls }

/-- The failures among some raised at a wait, a unit at a time, the oldest first (R258, R286): that of a copy or a collective
strikes the whole path with its copy error word, that of an access the lanes it names. `s` is the state with the wait's reads taken;
lanes that do not fault go on after the wait (R331), and execute it again only where it has another unit's failure to raise on
them. Of several failed copies of a batch it raises the word of the one that ended first: which word a wait shows then is not stated (log
entry 123). -/
def raiseFails (mine : Fail → Bool) (s0 s : State) : Ex State :=
  let fs := s.strand.fails.filter fun f => mine f && f.strikes s.path
  match oldestUnit fs with
  | none => .ok s
  | some u =>
    if s0.path.windowOpen then .error s0
    else
      let gs := fs.filter (·.unit = u)
      let keep := s0.strand.fails.filterMap fun f => if gs.contains f then f.without s0.path else some f
      let s1 := { s0 with strand := { s0.strand with fails := keep } }
      match gs.find? (·.lanes.isEmpty) with
      | some f => raiseAddr f.cause ((lanesOf s.strand.width s.path.lanes).map fun l => (⟨l, f.cause, f.word⟩ : LFault)) s1
      | none =>
        let bad := gs.flatMap fun f => f.lanes.filter fun l => s.path.lanes.getLsbD l.lane
        let left : Path := { s.path with lanes := s.path.lanes &&& ~~~(ofLanes (bad.map (·.lane))) }
        let again := keep.any fun f => mine f && f.strikes left
        match splitLanes s1 (if again then s1 else { s with strand := { s.strand with fails := keep } }) s.path.pc 0 bad [] [] with
        | .ok t => if again then .error t else .ok t
        | .error t => .error t

/-- A `wait` that retires the unit of a `collwait` acquires at `.pod` (R322), once the path's earlier loads are bound (R206). -/
def podAcquire (mine : Nat → Bool) (s0 s : State) : Ex State :=
  if s.strand.counters.any fun c => mine c.1 && c.2.pod then
    let s1 := s.bindAll
    if s1.allBound then
      let st := { s1.strand with counters := s1.strand.counters.map fun c => (c.1, if mine c.1 then { c.2 with pod := false } else c.2) }
      .ok ({ s1 with strand := st }.acquireAt .pod)
    else .error s0
  else .ok s

def waitOp (k : Fin 16) (t : SC) (s : State) : Ex State := do
  let r ← readSrcs [(scSrc t, .n32)] [] s.path.lanes s
  let n := natAt .n32 ((r.1.map (·.at 0)).getD 0 0)
  waitFor (s.strand.outstanding k.val ≤ n) s
  let s1 ← splitLanes s r.2.2 s.path.pc 0 r.2.1 [] []
  let s2 ← podAcquire (· == k.val) s s1
  let s3 ← raiseFails (fun f => f.ctr == k.val) s s2
  .ok s3.done

def execWait (k : Fin 16) (t : SC) (s : State) : Out := (waitOp k t s).out

/-- Is every arrival counter of the strand at zero (R142, R174, R258)? -/
def Strand.idle (st : Strand) : Bool := st.counters.all fun e => e.2.units.isEmpty

def waitallOp (s : State) : Ex State := do
  waitFor s.strand.idle s
  let s1 ← podAcquire (fun _ => true) s s
  let s2 ← raiseFails (fun _ => true) s s1
  .ok s2.done

def execWaitall (s : State) : Out := (waitallOp s).out

/-- Close the open batch of a counter (R259). -/
def Strand.seal (st : Strand) (k : Nat) : Strand :=
  let c := st.counter k
  (st.setCounter k { c with units := c.units.map fun u => if u.batch then { u with open_ := false } else u }).retire

def execSeal (k : Fin 16) (s : State) : Out := .next ({ s with strand := s.strand.seal k.val }).done

/-- `ifence` (R260): at the end of its block; it waits for the path's stores at `.die`, empties the instruction buffer, and the
following block is fetched anew; from then on the path fetches what was loaded until now, as far as an acquire of its core from quad
on has followed the load, so that the status write happens before (R394, log entry 93). -/
def ifenceOp (s : State) : Ex State := do
  if !s.path.atEnd then raise cIllop s
  else
    waitFor (s.strand.flights.all fun f => !f.2.paths.contains s.pathNo || !f.2.kind.isStore || storeDone .die f.2) s
    .ok ({ s with core := { s.core with ibuf := [] }, path := { s.path with codeFrom := s.dev.loads, codeOk := max s.path.codeOk s.core.synced } }).done

def execIfence (s : State) : Out := (ifenceOp s).out

/-! ### Route-tag barriers -/

def levelScope : Level → Scope
  | .core => .core | .quad => .quad | .die => .die | .pkg => .pkg | .pod => .pod

/-- Is the strand's path counted at the tag (R262)? -/
def State.counted (s : State) (l : Level) (t : Nat) : Bool := s.strand.attached l t

/-- A pod-level arrival stalls until its group is live (R372). -/
def State.podLive (s : State) (l : Level) : Bool :=
  match l with
  | .pod => match s.launch.podgrp.bind fun g => tget s.part.pods g with
    | some x => x.live
    | none => false
  | _ => true

/-- The arrival of the path in focus (R262): it waits while lanes of it stand in the current phase (R263), performs the release,
and then posts. `n` is the expected count that it names at the levels that count. -/
def arriveOp (l : Level) (t : Nat) (n : Nat) (votes : Nat) (waits : Bool) (s0 s : State) : Ex State := do
  waitFor (s.podLive l && !(s.tag l t).holds s.coreNo s.slotNo s.path.lanes) s0
  waitFor (!s.strand.acquiring s.pathNo) s0
  let s1 ← releaseAt (levelScope l) s0 s
  let a : Arrival := {
    core := s.coreNo, slot := s.slotNo, path := s.pathNo, lanes := s.path.lanes, n := countLanes s.strand.width s.path.lanes
    drop := false, waits := waits, votes := votes }
  .ok (s1.setTag l t ((s1.tag l t).arrive l a n))

/-- The path waits at the tag: it has issued, and goes on when the event BARRIER_RELEASE reaches it. -/
def State.waitAt (s : State) (l : Level) (t : Nat) (d : Option Dest) : State :=
  let ph := (s.tag l t).phases
  let s := s.issued
  { s with path := { s.path with status := .barrier l t ph d } }

def nSrc (n : Option SC) : List (Src × Ty) := match n with | some x => [(scSrc x, .n32)] | none => []

def barOp (waits : Bool) (o : BarOp) (s : State) : Ex State := do
  let r ← readSrcs (nSrc o.n) [] s.path.lanes s
  let s1 ← splitLanes s r.2.2 s.path.pc 0 r.2.1 [] []
  if !s.counted o.level o.tag.val then .ok s1.done
  else
    let n := natAt .n32 ((r.1.map (·.at 0)).getD 0 0)
    let s2 ← arriveOp o.level o.tag.val n 0 waits s s1
    .ok (if waits then s2.waitAt o.level o.tag.val none else s2.done)

def execBar (o : BarOp) (s : State) : Out := (barOp true o s).out
def execBararr (o : BarOp) (s : State) : Out := (barOp false o s).out

/-- `barv` (R262): the vote of the path's lanes, without those that have split off (R336); the sum of the phase is written when the path is released, 0 at once when its
strand is not attached. -/
def barvOp (o : BarvOp) (s : State) : Ex State := do
  let r ← readSrcs (nSrc o.n) [] s.path.lanes s
  let s1 ← splitLanes s r.2.2 s.path.pc 0 r.2.1 [] []
  checkDest o.d false s s1
  if !s.counted o.level o.tag.val then .ok (writeDest o.d false s1.path.lanes (fun _ => 0) s1).done
  else
    let n := natAt .n32 ((r.1.map (·.at 0)).getD 0 0)
    let s2 ← arriveOp o.level o.tag.val n (countLanes s.strand.width (s1.path.mask o.ms)) true s s1
    .ok (s2.waitAt o.level o.tag.val (some o.d))

def execBarv (o : BarvOp) (s : State) : Out := (barvOp o s).out

/-- `bardrop` (R262, R263): the path's lanes leave the expected count of the current phase. -/
def bardropOp (l : Level) (t : Fin 8) (s : State) : Ex State := do
  if !s.counted l t.val then .ok s.done
  else
    waitFor (!(s.tag l t.val).holds s.coreNo s.slotNo s.path.lanes) s
    let x := s.tag l t.val
    let n := countLanes s.strand.width s.path.lanes
    let a : Arrival := {
      core := s.coreNo, slot := s.slotNo, path := s.pathNo, lanes := s.path.lanes, n := n
      drop := true, waits := false, votes := 0 }
    let y : Tag := { x with expected := x.expected.map (· - n), arrivals := x.arrivals ++ [a], dirty := true }
    .ok (s.setTag l t.val y).done

def execBardrop (l : Level) (t : Fin 8) (s : State) : Out := (bardropOp l t s).out

/-! ### Arrival barriers -/

/-- The fields of an arrival barrier (R265). -/
structure ABar where
  xbytes : Nat
  abytes : Nat
  xarr : Nat
  aarr : Nat
  phase : Bool
  err : Bool
  gen : Nat
  deriving DecidableEq, Repr

def ABar.of (m : Memory) (a : Nat) : ABar where
  xbytes := m.nat a 4
  abytes := m.nat (a + 4) 4
  xarr := m.nat (a + 8) 2
  aarr := m.nat (a + 10) 2
  phase := m.nat (a + 12) 1 % 2 = 1
  err := m.nat (a + 12) 1 / 2 % 2 = 1
  gen := m.nat (a + 13) 1

def ABar.bytes (b : ABar) : List Byte :=
  leBytes 4 b.xbytes ++ leBytes 4 b.abytes ++ leBytes 2 b.xarr ++ leBytes 2 b.aarr ++
    [BitVec.ofNat 8 ((if b.phase then 1 else 0) + (if b.err then 2 else 0)), BitVec.ofNat 8 b.gen, 0, 0]

/-- `abinit` (R267). -/
def ABar.init (b : ABar) (n bytes : Nat) : ABar :=
  { xbytes := bytes, abytes := 0, xarr := n % 65536, aarr := 0, phase := false, err := n = 0 || 65535 < n, gen := (b.gen + 1) % 256 }

/-- Expectations, arrivals and byte posts (R268): dropped while err is 1; a sum beyond the field sets err. -/
def ABar.add (b : ABar) (xbytes aarr abytes : Nat) : ABar :=
  if b.err then b
  else if 2 ^ 32 ≤ b.xbytes + xbytes || 2 ^ 16 ≤ b.aarr + aarr || 2 ^ 32 ≤ b.abytes + abytes then { b with err := true }
  else { b with xbytes := b.xbytes + xbytes, aarr := b.aarr + aarr, abytes := b.abytes + abytes }

/-- The test of R269. -/
def ABar.test (b : ABar) : ABar :=
  if !b.err && b.xarr ≤ b.aarr && b.xbytes ≤ b.abytes then
    { b with phase := !b.phase, aarr := 0, abytes := 0, xbytes := 0 }
  else b

/-- The place of an event in the order of its clock (R269). -/
def AbEvent.rank : AbEvent → Nat
  | .init _ _ => 1
  | .expect _ => 2
  | _ => 3

/-- One event, and whether it is a post that is dropped for its generation (R267). -/
def ABar.event (b : ABar) (e : AbEvent) : ABar × Bool :=
  match e with
  | .init n k => (b.init n k, false)
  | .expect k => (b.add k 0 0, false)
  | .arrive n => (b.add 0 n 0, false)
  | .post k g => if g = some b.gen then (b.add 0 0 k, false) else (b, true)
  | .fail => ({ b with err := true }, false)

/-- The events of a clock at one object in their order, and how many posts were dropped. -/
def ABar.events (b : ABar) (es : List AbEvent) : ABar × Nat :=
  ([1, 2, 3].flatMap fun r => es.filter (·.rank = r)).foldl (fun x e =>
    let y := x.1.event e
    (y.1, x.2 + if y.2 then 1 else 0)) (b, 0)

/-- An event reaches an object in this clock. -/
def Cohort.atAbar (c : Cohort) (a : Nat) (es : List AbEvent) : Cohort := { c with abEvents := c.abEvents ++ es.map fun e => (a, e) }

/-- A path that waits at an object after its test (R265, R267, R270): another generation and the error state end its wait at once, a
phase that differs 4 clocks after the first test that found it so. -/
def Path.abTested (p : Path) (a : Nat) (b : ABar) (clock : Nat) : Path :=
  match p.status with
  | .abwait addr par gen names due =>
    if addr ≠ a then p
    else if b.gen ≠ gen then { p with status := .abwait addr par gen names (some (clock, cBarinit)) }
    else if b.err then { p with status := .abwait addr par gen names (some (clock, cAberr)) }
    else if b.phase != par && due.isNone then { p with status := .abwait addr par gen names (some (clock + 4, 0)) }
    else p
  | _ => p

/-- The events of a clock at one object of a cohort, its test, and the paths that wait there. -/
def Core.testAbar (c : Core) (key clock a : Nat) : Core :=
  match tget c.cohorts key with
  | none => c
  | some h =>
    let r := (ABar.of h.a a).events (h.abEvents.filterMap fun e => if e.1 = a then some e.2 else none)
    let b := r.1.test
    let c := if r.2 = 0 then c else c.count 1 r.2
    { c with
      cohorts := tset c.cohorts key { h with a := h.a.write a b.bytes, abEvents := h.abEvents.filter (·.1 != a) }
      strands := c.strands.map fun e => if e.2.cohort = key then
        (e.1, { e.2 with paths := e.2.paths.map fun p => (p.1, p.2.abTested a b clock) }) else e }

/-- The events and tests of every arrival barrier of a core, at the end of a clock (R269). -/
def Core.testAbars (c : Core) (clock : Nat) : Core :=
  c.cohorts.foldl (fun c h => (h.2.abEvents.map (·.1)).eraseDups.foldl (fun c a => c.testAbar h.1 clock a) c) c

def Device.testAbars (d : Device) (clock : Nat) : Device :=
  if d.cores.all fun c => c.2.cohorts.all (·.2.abEvents.isEmpty) then d
  else { d with cores := d.cores.map fun c => (c.1, c.2.testAbars clock) }

/-- Read the scalars of an arrival-barrier instruction, and check the object's address: ALIGN or PROT on the whole path (R266). -/
def abarOp (a : SC) (vals : List SC) (act : Nat → List Nat → State → Ex State) (s : State) : Ex State := do
  let r ← readSrcs ((a :: vals).map fun x => (scSrc x, .n32)) [] s.path.lanes s
  let v := r.1.map fun x => natAt .n32 (x.at 0)
  let addr := v.getD 0 0
  let all := fun (c : Nat) => (lanesOf s.strand.width s.path.lanes).map fun l => (⟨l, c, BitVec.ofNat 64 addr⟩ : LFault)
  if addr % 16 ≠ 0 then raiseAddr cAlign (all cAlign) s
  else if s.cohort.asize < addr + 16 then raiseAddr cProt (all cProt) s
  else
    let s1 ← splitLanes s r.2.2 s.path.pc 0 r.2.1 [] []
    act addr (v.drop 1) s1

/-- Events of the path at an object, which the end of the clock applies (R269). -/
def abEvent (es : List AbEvent) (addr : Nat) (s : State) : State :=
  let co := s.cohort
  s.setCohort (co.atAbar addr es)

def execAbinit (a n b : SC) (s : State) : Out :=
  (abarOp a [n, b] (fun addr v s1 => .ok (abEvent [.init (v.getD 0 0) (v.getD 1 0)] addr s1).done) s).out

def execAbarrive (o : AbarriveOp) (s : State) : Out :=
  match o with
  | .arrive a c =>
    (abarOp a c.toList (fun addr v s1 => do
      let s2 ← releaseAt .core s s1
      .ok (abEvent [.arrive (v.getD 0 1)] addr s2).done) s).out
  | .expect a b =>
    (abarOp a [b] (fun addr v s1 => do
      let s2 ← releaseAt .core s s1
      .ok (abEvent [.expect (v.getD 0 0), .arrive 1] addr s2).done) s).out

def execAbexpect (a b : SC) (s : State) : Out :=
  (abarOp a [b] (fun addr v s1 => .ok (abEvent [.expect (v.getD 0 0)] addr s1).done) s).out

/-- The scalar names among operands. -/
def scNames (xs : List SC) : List Name := xs.filterMap scName

/-- `abwait` (R270): it returns at once where the phase differs already, with the acquire at `.core`, raises ABERR on an object in
error, and waits otherwise, on the lanes that have not split off (R336), its reads to be taken when it returns. -/
def abwaitOp (a p : SC) (s : State) : Ex State :=
  abarOp a [p] (fun addr v s1 => do
    waitFor (!s.strand.acquiring s.pathNo) s
    let b := ABar.of s.cohort.a addr
    let par := v.getD 0 0 % 2 = 1
    if b.err then raise cAberr s
    else if b.phase != par then
      let s2 := s1.bindAll
      waitFor s2.allBound s
      .ok (s2.acquireAt .core).done
    else
      let s2 := ({ s1 with path := { s1.path with v := s.path.v, sc := s.path.sc } }).issued
      .ok { s2 with path := { s2.path with status := .abwait addr par b.gen (scNames [a, p]) none } }) s

def execAbwait (a p : SC) (s : State) : Out := (abwaitOp a p s).out

/-- ABWAIT_RELEASE (R267, R270): a wait that a test has ended raises its cause, or returns with the acquire at `.core`, once every
earlier load is bound. -/
def State.abwaitReturn (s : State) : State :=
  match s.path.status with
  | .abwait _ _ _ names (some (t, cause)) =>
    if s.clock < t then s
    else if cause ≠ 0 then
      if s.path.windowOpen then s else { s with path := s.path.trapped (pathTrap cause s.path.pc s.path.blk) }
    else
      let s1 := s.bindAll
      if !s1.allBound then s
      else
        let s2 := s1.acquireAt .core
        ({ s2 with path := ({ s2.path with status := .ready }).takeReads names |>.windowStep }).advance
  | _ => s

def execAbwaitRelease (p : PRef) (s : State) : Out :=
  match s.load p.core p.slot p.path with
  | some t => .next t.abwaitReturn
  | none => .next s

end Sys2Proof.Machine
end

