-- ==== Sys2Proof/Machine/Cohorts.lean ====
section
/-! DEFINITION. Cohort instructions, major 0x22 (R142, R174 to R179); `rolesw` is in Queues. -/
namespace Sys2Proof.Machine

/-- A cohort instruction: it waits until every arrival counter is zero, and then takes its reads (R174). -/
def cohortOp (x : SC) (act : Nat → State → Ex State) (s : State) : Ex State := do
  waitFor s.strand.idle s
  let r ← readSrcs [(scSrc x, .n32)] [] s.path.lanes s
  let s1 ← splitLanes s r.2.2 s.path.pc 0 r.2.1 [] []
  act (natAt .n32 ((r.1.map (·.at 0)).getD 0 0)) s1

def tagLevel (quad : Bool) : Level := if quad then .quad else .core

/-- The strand's set of tags at a level with one bit changed. -/
def Strand.setAttached (st : Strand) (quad : Bool) (t : Nat) (on : Bool) : Strand :=
  let f := fun (b : BitVec 8) => if on then b ||| BitVec.ofNat 8 (2 ^ t) else b &&& ~~~(BitVec.ofNat 8 (2 ^ t))
  if quad then { st with tagsQuad := f st.tagsQuad } else { st with tagsCore := f st.tagsCore }

/-- Attach the strand to one tag (R142, R175). -/
def State.attachTag (quad : Bool) (s : State) (t : Nat) : State :=
  let l := tagLevel quad
  if s.strand.attached l t then s
  else
    let s := s.noteCsize
    let x := s.tag l t
    let s1 := s.setTag l t { x with expected := some (x.expected.getD 0 + s.strand.liveLanes), dirty := true }
    { s1 with strand := s1.strand.setAttached quad t true }

/-- Detach it: its lanes and its arrivals leave the tag, and its waiting paths are released at once (R142). -/
def State.detachTag (quad : Bool) (s : State) (t : Nat) : State :=
  let l := tagLevel quad
  if !s.strand.attached l t then s
  else
    let s := s.noteCsize
    let x := (s.tag l t).releaseStrand s.coreNo s.slotNo s.clock
    let ls := allLanes s.strand.width &&& ~~~s.strand.exited
    let s1 := s.setTag l t (x.leave s.coreNo s.slotNo s.strand.width ls)
    { s1 with strand := s1.strand.setAttached quad t false }

def tagSet (v : Nat) : List Nat := tagNumbers (BitVec.ofNat 8 v)

def execCattach (quad : Bool) (tags : SC) (s : State) : Out :=
  (cohortOp tags (fun v s1 => .ok ((tagSet v).foldl (State.attachTag quad) s1).done) s).out

def execCdetach (quad : Bool) (tags : SC) (s : State) : Out :=
  (cohortOp tags (fun v s1 => .ok ((tagSet v).foldl (State.detachTag quad) s1).done) s).out

/-- `cgrow` (R176): the request goes to the distributor, and the path waits for the answer, the event CGROW_ANSWER; `req` packs the
number asked for and the clock of the request. -/
def execCgrow (d : Dest) (n : SC) (s : State) : Out :=
  (cohortOp n (fun v s1 => do
    checkDest d false s s1
    let s2 := s1.issued
    .ok { s2 with path := { s2.path with status := .grow d (v * 2 ^ 64 + s.clock) } }) s).out

/-- A record without its lanes from n on. -/
def Rec.narrow (r : Rec) (n : Nat) : Rec :=
  { r with vals := r.vals.take n, absent := r.absent &&& allLanes n, failed := r.failed.filter (·.lane < n) }

/-- `cwidth` (R178). -/
def cwidthOp (n : Nat) (s0 s : State) : Ex State :=
  if n % 32 != 0 || n == 0 || decide (s.strand.width < n) || s.strand.paths.length != 1 then raise cIllop s0
  else
    let gone := allLanes s.strand.width &&& ~~~(allLanes n)
    let s1 := s.leaveTags (gone &&& ~~~s.strand.exited)
    let p := s1.path
    let keep := allLanes n
    let p := { p with
      lanes := p.lanes &&& keep, masks := p.masks.map fun m => (m.1, m.2 &&& keep), v := p.v.map fun e => (e.1, e.2.narrow n) }
    let s2 := { s1 with path := p, strand := { s1.strand with width := n, exited := s1.strand.exited &&& keep } }
    if p.lanes == 0 then .ok s2.issued.endPath else .ok s2.done

def execCwidth (n : SC) (s : State) : Out := (cohortOp n (fun v s1 => cwidthOp v s s1) s).out

/-- The priority of a cohort after a `cprio`: of those of one clock that of the highest slot stands (R179). -/
def Cohort.setPrio (h : Cohort) (x clock slot : Nat) : Cohort :=
  match h.prioKey with
  | some (t, sl) => if t = clock && slot < sl then h else { h with prio := x, prioKey := some (clock, slot) }
  | none => { h with prio := x, prioKey := some (clock, slot) }

/-- `cprio` (R179): the whole cohort, on every core it occupies. -/
def execCprio (p : SC) (s : State) : Out :=
  (cohortOp p (fun v s1 =>
    let x := min v s1.launch.pmax
    let key := s1.strand.cohort
    let set_ := fun (c : Core) => { c with cohorts := tmod c.cohorts key fun h => h.setPrio x s1.clock s1.slotNo }
    let cores := if s1.cohort.quad then s1.dev.cores.map fun e =>
        (e.1, if quadOf e.1 = quadOf s1.coreNo then set_ e.2 else e.2) else s1.dev.cores
    .ok ({ s1 with core := set_ s1.core, dev := { s1.dev with cores := cores } }).done) s).out

end Sys2Proof.Machine
end

