-- ==== Sys2Proof/Machine/Copies.lean ====
section
/-! DEFINITION. Engine commands in general (R275, R300 to R302), tensor records and their layouts (R277, R278), and the copies,
major 0x36 (R279 to R286, R309 to R313), with the events of the copy channels. -/
namespace Sys2Proof.Machine

/-! ### Engine commands -/

/-- The partition that holds a quad (R17). -/
def Device.ownerOf (d : Device) (q : Nat) : Option Nat := (d.parts.find? fun p => q < 128 && p.2.quads.getLsbD q).map (·.1)

/-- Is the partition of a quad stopped (R412) or pre-empted (R345), so that no engine of it starts a command? -/
def Device.heldQuad (d : Device) (q : Nat) : Bool :=
  match d.ownerOf q with
  | some p => (d.partAt p).stop.isSome || (d.partAt p).preempt.isSome
  | none => false

/-- Is it pre-empted? -/
def Device.preempted (d : Device) (q : Nat) : Bool :=
  match d.ownerOf q with
  | some p => (d.partAt p).preempt.isSome
  | none => false

/-- The value of a scalar name of the path. -/
def State.peek (s : State) (n : Fin 64) : Word :=
  match s.path.get (.scl n) with
  | some r => r.vals.headD 0
  | none => 0

/-- An address field's value (R300). -/
def State.field (s : State) (x : AField) : Nat :=
  match x with
  | .scl n => (s.peek n).toNat % 2 ^ 32
  | .const k => 1024 * k.toNat

/-- A count or a group handle: a scalar read as n32, or a constant. -/
def State.scNat (s : State) (x : SC) : Nat :=
  match x with
  | .scl n => (s.peek n).toNat % 2 ^ 32
  | .const c => c.toNat

def fieldNames (xs : List AField) : List Name := xs.filterMap afName

/-- Does the mask enable every lane of the strand (R275)? -/
def State.wholeMask (s : State) (m : Fin 16) : Bool := s.path.mask m == allLanes s.strand.width

/-- PROT at acceptance, with the address on every lane (R330). -/
def protAt {α : Type} (a : Nat) (s : State) : Ex α :=
  raiseAddr cProt ((lanesOf s.strand.width s.path.lanes).map fun l => ⟨l, cProt, BitVec.ofNat 64 a⟩) s

/-- A step of R301: the condition holds, or the cause is raised on the whole path. -/
def require (b : Bool) (cause : Nat) (s : State) : Ex Unit := if b then .ok () else raise cause s
def requireAt (b : Bool) (a : Nat) (s : State) : Ex Unit := if b then .ok () else protAt a s

/-- The counted reads of an engine command; lanes that a name has no data for leave, and the rest executes it again. -/
def engineReads (ns : List Name) (en : LaneSet) (s : State) : Ex State := do
  let r ← readSrcs [] ns en s
  if r.2.1.isEmpty then .ok r.2.2
  else
    match splitLanes s { s with strand := s.strand.raised r.2.2.strand } s.path.pc 0 r.2.1 [] [] with
    | .ok t => .error t
    | .error t => .error t

/-- Room for a single unit on a counter (R242), behind an acquire that is not performed (R206). -/
def State.engineRoom (s : State) (k : Fin 16) : Bool := s.canPost k.val

/-- An engine command is accepted: it posts its unit, and is complete for lookahead (R275, R302). -/
def State.accepted (s0 s : State) (la k : Fin 16) (ns : List Name) : State :=
  let st := s.strand.post k.val (CUnit.one s.uid s0.path.pc)
  s0.openWindow { s with strand := st, uid := s.uid + 1 } la ns [] [] 0 true

/-- A unit of a strand completes. -/
def State.completeUnit (s : State) (c sl unit : Nat) (fs : List Fail) : State :=
  match s.strandAt c sl with
  | some st => s.setStrand c sl (st.complete unit fs)
  | none => s

/-- Act on the cohort of a core. -/
def State.onCohort (s : State) (c key : Nat) (f : Cohort → Cohort) : State :=
  let co := s.dev.coreAt c
  s.setCore c { co with cohorts := tmod co.cohorts key f }

/-! ### Tensors -/

/-- The record of a handle, when it is valid for the ASID (R277). -/
def tensorAt (m : Memory) (a : Asid) (asid h : Nat) : Option Tensor :=
  let p := a.tensors + 128 * h
  let w := m.nat (p + 8) 8
  let ndim := fieldN w 6 3
  let ty := typeOf (fieldN w 0 4)
  let layout := fieldN w 4 2
  let ext := (List.range 5).map fun d => if d < ndim then m.nat (p + 0x28 + 16 * d) 4 else 1
  let reserved := m.nat p 8 / 2 ^ 57 = 0 && w / 2 ^ 22 = 0 && m.nat (p + 0x18) 8 = 0 &&
    (List.range 5).all fun d => m.nat (p + 0x2C + 16 * d) 4 = 0
  if a.ntensors ≤ h || !bitN w 9 || fieldN w 10 12 ≠ asid || layout = 3 || ndim = 0 || 5 < ndim || !reserved ||
      (layout = 2 && ty != .e2m1) then none
  else some {
    base := BitVec.ofNat 64 (m.nat p 8), ty := ty, layout := layout, fill := BitVec.ofNat 64 (m.nat (p + 0x10) 8)
    ext := ext, stride := (List.range 5).map fun d => BitVec.ofNat 64 (m.nat (p + 0x20 + 16 * d) 8)
    sbase := BitVec.ofNat 64 (m.nat (p + 0x70) 8), xbase := BitVec.ofNat 64 (m.nat (p + 0x78) 8) }

def Tensor.empty : Tensor := ⟨0, .n8, 0, 0, [], [], 0, 0⟩

/-- Is every coordinate within its extent (R280)? -/
def Tensor.inside (t : Tensor) (c : List Int) : Bool :=
  (List.range 5).all fun d => 0 ≤ c.getD d 0 && c.getD d 0 < t.ext.getD d 1

/-- The byte that holds an element inside the tensor, at byte b of it (R278). -/
def Tensor.addr (t : Tensor) (c : List Int) (b : Nat) : Nat :=
  let st := fun (d : Nat) => (t.stride.getD d 0).toInt
  let h := (List.range 3).foldl (fun x i => x + c.getD (i + 2) 0 * st (i + 2)) (0 : Int)
  let off := c.getD 0 0 * t.ty.bits / 8
  let c1 := c.getD 1 0
  let a := if t.layout = 1 then
      c1 / 8 * st 1 + off / 128 * 1024 + (canonical (c1 % 8 * 128 + off % 128).toNat : Nat) + h
    else off + c1 * st 1 + h
  ((t.base.toNat + a + b).emod (2 ^ 64)).toNat

/-- The origin of a copy from its coordinate scalars (R309). -/
def origin (co ch : Word) : List Int :=
  let f := fun (w : Word) (lo n : Nat) => let x := fieldN w.toNat lo n; if x < 2 ^ (n - 1) then (x : Int) else (x : Int) - 2 ^ n
  [f co 0 32, f co 32 32, f ch 0 21, f ch 21 21, f ch 42 21]

/-- A byte of a tile: the byte of memory that holds it, if an element of it is inside, the bits that come from there, and the
fill value's bits elsewhere. -/
structure TByte where
  va : Option Nat
  keep : Nat
  fill : Nat
  deriving DecidableEq, Repr

/-- Byte i of row r of a tile (R279, R280). -/
def Tensor.rowByte (t : Tensor) (o : List Int) (r i : Nat) : TByte :=
  let at_ := fun (j : Nat) => [o.getD 0 0 + j, o.getD 1 0 + r, o.getD 2 0, o.getD 3 0, o.getD 4 0]
  if t.ty.bits = 4 then
    let lo := t.inside (at_ (2 * i))
    let hi := t.inside (at_ (2 * i + 1))
    let f := t.fill.toNat % 16
    { va := if lo || hi then some (t.addr (at_ (2 * i)) 0) else none
      keep := (if lo then 15 else 0) + (if hi then 240 else 0), fill := (if lo then 0 else f) + (if hi then 0 else 16 * f) }
  else
    let n := t.ty.size
    if t.inside (at_ (i / n)) then ⟨some (t.addr (at_ (i / n)) (i % n)), 255, 0⟩
    else ⟨none, 0, t.fill.toNat / 2 ^ (8 * (i % n)) % 256⟩

/-- The index of block j of row r of a tile, none where it lies outside (R278, R280). -/
def Tensor.block (t : Tensor) (o : List Int) (r j : Nat) : Option Nat :=
  let c := [o.getD 0 0 + 32 * j, o.getD 1 0 + r, o.getD 2 0, o.getD 3 0, o.getD 4 0]
  let e := fun (d : Nat) => t.ext.getD d 1
  let n := fun (d : Nat) => (c.getD d 0).toNat
  if t.inside c then some (n 0 / 32 + (e 0 + 31) / 32 * (n 1 + e 1 * (n 2 + e 2 * (n 3 + e 3 * n 4)))) else none

/-! ### Acceptance -/

/-- Join or open the batch of a counter (R259, R302): the unit, and the strand after. -/
def Strand.postCopy (st : Strand) (k id : Nat) (pc : Word) : Nat × Strand :=
  let c := st.counter k
  match c.units.find? fun u => u.batch && u.open_ with
  | some u => (u.id, st.setCounter k { c with units := c.units.map fun x => if x.id = u.id then { x with left := x.left + 1 } else x })
  | none => (id, st.setCounter k { c with units := c.units ++ [⟨id, id, 1, true, true, c.batches, pc, [], false⟩], batches := c.batches + 1 })

/-- Can a copy join or open a batch (R242)? -/
def State.copyRoom (s : State) (k : Nat) : Bool :=
  !s.strand.acquiring s.pathNo && (s.strand.outstanding k < 63 || (s.strand.counter k).units.any fun u => u.batch && u.open_)

def Core.chan (c : Core) (i : Nat) : Chan := if i = 0 then c.chan0 else c.chan1
def Core.setChan (c : Core) (i : Nat) (x : Chan) : Core := if i = 0 then { c with chan0 := x } else { c with chan1 := x }

/-- Slices of which cohort and number a copy collects (R283). -/
def Copy.collects (x : Copy) (key n : Nat) : Bool := 1 < n && x.cohort == key && x.n == n && !x.started

/-- The quad positions that a copy delivers to (R285, R286). -/
def CopyDesc.receivers (d : CopyDesc) (core : Nat) : List Nat :=
  if d.kind = 1 then (List.range 4).filter fun i => d.recv.getLsbD i
  else if d.kind = 2 then [] else [posOf core]

/-- The description that a copy is carried out by: that of slice 0. -/
def Copy.desc (x : Copy) : CopyDesc :=
  match x.slices.find? (·.index == 0) with
  | some y => y.desc
  | none => ⟨0, 0, false, 0, 0, none, none, 0, 0, 0⟩

/-- The copy that a slice starts to assemble. -/
def State.newCopy (s : State) (n : Nat) : Copy where
  cohort := s.strand.cohort
  n := n
  slices := []
  tensor := .empty
  asid := s.asid
  part := s.partNo
  ticket := s.dev.ticket
  gens := []
  tile := none
  started := false
  row := 0
  ahead := []
  posted := 0
  failedAt := 0
  detail := 0
  page := none
  refused := false

/-- The cohort on the core in quad position i. -/
def State.cohortAt (s : State) (core key : Nat) : Option Cohort := tget (s.dev.coreAt core).cohorts key

/-- A slice joins its copy; with the last one the copy captures the barriers' generations, claims a tile of the ring if it consumes
one, and takes its place in its channel's order (R283, R284, R312). -/
def State.addSlice (s : State) (core i : Nat) (x : Slice) (t : Tensor) (n : Nat) : State :=
  let c := s.dev.coreAt core
  let key := s.strand.cohort
  let q := (c.chan i).queue
  let y := (q.find? fun y => y.collects key n).getD (s.newCopy n)
  let y := { y with slices := y.slices ++ [x], tensor := if x.index = 0 then t else y.tensor }
  let set_ := fun (s : State) (q : List Copy) =>
    let c := s.dev.coreAt core
    s.setCore core (c.setChan i { c.chan i with queue := q })
  if y.slices.length < n then
    set_ s (if q.any fun y => y.collects key n then q.map fun z => if z.collects key n then y else z else q ++ [y])
  else
    let d := y.desc
    let gens := match d.abar with
      | none => []
      | some a => (d.receivers core).foldl (fun t p =>
          match s.cohortAt (4 * quadOf core + p) key with
          | some h => tset t p (ABar.of h.a a).gen
          | none => t) ([] : Tbl Nat)
    let cr := d.kind = 2 && d.wbuf
    let tile := if cr then (s.cohortAt core key).map (·.nextClaim) else none
    let s := if cr then s.onCohort core key fun h => { h with nextClaim := h.nextClaim + 1 } else s
    set_ s ((q.filter fun z => !z.collects key n) ++ [{ y with gens := gens, tile := tile }])

/-- Alignment of a copy's origin (R279). -/
def originOk (kind : Nat) (t : Tensor) (o : List Int) : Bool :=
  kind = 3 || ((t.ty.bits ≠ 4 || o.getD 0 0 % 2 = 0) && (t.layout ≠ 1 || o.getD 0 0 * t.ty.bits % 1024 = 0) &&
    (t.layout ≠ 2 || o.getD 0 0 % 32 = 0))

/-- The windows and alignments of a copy's addresses (R279, R312). -/
def copyAddrs (h : Cohort) (d : CopyDesc) (s : State) : Ex Unit := do
  let cr := d.kind = 2 && d.wbuf
  let win := if d.wbuf && d.kind ≠ 2 then h.wsize else h.asize
  requireAt (cr || (d.addr % 128 = 0 && d.addr + 128 * d.rows ≤ win)) d.addr s
  match d.abar with
  | some a => requireAt (a % 16 = 0 && a + 16 ≤ h.asize) a s
  | none => .ok ()
  match d.side with
  | some a => requireAt (a % 8 = 0 && a + 16 * d.rows ≤ h.asize) a s
  | none => .ok ()

/-- A copy or a slice of one is issued and accepted (R301, R309 to R313); kind is its minor. -/
def copyOp (kind : Nat) (o : CopyOp) (s : State) : Ex State := do
  let ns := fieldNames (o.addr.toList ++ o.abar.toList) ++ (o.co.toList ++ o.ch.toList).map Name.scl ++ fieldNames o.side.toList
  let r ← engineReads ns s.path.lanes s
  checkDest o.d true s r
  let n := o.slices.toNat + 1
  let i := o.slice.toNat
  let ch := o.chan.toNat
  let q := (s.core.chan ch).queue
  let mate := q.find? fun y => y.collects s.strand.cohort n
  waitFor (s.copyRoom o.k.val && match mate with | some y => !y.slices.any (·.index == i) | none => q.length < 16) s
  require (s.wholeMask o.mask) cMaskeng s
  let word := fun (x : Option (Fin 64)) => match x with | some a => s.peek a | none => 0
  let d : CopyDesc := {
    kind := kind, rows := o.rows.toNat + 1, wbuf := o.buf = 1, handle := o.handle.toNat, addr := (o.addr.map s.field).getD 0
    abar := o.abar.map s.field, side := o.side.map s.field, recv := o.recv, co := word o.co, ch := word o.ch }
  match (tget s.dev.asids s.asid).bind fun a => tensorAt s.dev.mem a s.asid d.handle with
  | none => raise cProt s
  | some t =>
    require (originOk kind t (origin d.co d.ch) && d.side.isSome == (t.layout == 2) &&
      !(kind == 2 && d.wbuf && s.cohort.slots == 0)) cIllop s
    copyAddrs s.cohort d s
    requireAt (kind != 1 || i != 0 || (d.receivers s.coreNo).all fun p =>
      4 * quadOf s.coreNo + p = s.coreNo || (s.cohortAt (4 * quadOf s.coreNo + p) s.strand.cohort).isSome) d.addr s
    let id := r.uid
    let s1 := writeDest o.d true 0 (fun _ => 0) { r with uid := id + 1 }
    let u := s1.strand.postCopy o.k.val id s.path.pc
    let s2 := { s1 with path := s1.path.await o.d id 1, strand := u.2 }
    let x : Slice := { slot := s.slotNo, index := i, ctr := o.k.val, unit := u.1, d := (destName o.d).map (·.1)
                       cnt := 0, desc := d, order := id, flight := id }
    .ok (s.openWindow (s2.onDev fun v => v.addSlice s.coreNo ch x t n) o.la ns [] ((destName o.d).toList.map (·.1)) id true)

def execCpy (o : CopyOp) (s : State) : Out := (copyOp 0 o s).out
def execCpyMc (o : CopyOp) (s : State) : Out := (copyOp 1 o s).out
def execCpyst (o : CopyOp) (s : State) : Out := (copyOp 2 o s).out
def execCpyfill (o : CopyOp) (s : State) : Out := (copyOp 3 o s).out

/-! ### The channels -/

/-- Put back a copy that stands first among those of a channel that have started. -/
def State.setCopy (s : State) (core i : Nat) (x : Copy) : State :=
  let c := s.dev.coreAt core
  let q := (c.chan i).queue.map fun y => if y.started || y.slices == x.slices then x else y
  s.setCore core (c.setChan i { c.chan i with queue := q })

def Core.running (c : Core) (i : Nat) : Option Copy := (c.chan i).queue.find? (·.started)

/-- A barrier event at a receiver of a copy. -/
def State.atBarrier (s : State) (core pos key addr : Nat) (e : AbEvent) : State :=
  s.onCohort (4 * quadOf core + pos) key fun h => h.atAbar addr [e]

/-- A copy fails at some of its receivers: their barriers take err (R286). -/
def State.failAt (s : State) (core i : Nat) (x : Copy) (ps : List Nat) : Copy × State :=
  let ps := ps.filter fun p => (x.desc.receivers core).contains p && !x.failedAt.getLsbD p
  let y := { x with failedAt := ps.foldl (fun m p => m ||| BitVec.ofNat 4 (2 ^ p)) x.failedAt }
  let s := match x.desc.abar with
    | some a => ps.foldl (fun (s : State) p => s.atBarrier core p x.cohort a .fail) s
    | none => s
  (y, s.setCopy core i y)

/-- A copy fails as a whole. -/
def State.failCopy (s : State) (core i : Nat) (x : Copy) (detail : Nat) : State :=
  (s.failAt core i { x with detail := detail } [0, 1, 2, 3]).2

/-- COPY_START (R281 to R283, R311, R312): the first copy of the channel whose slices are all there starts when none runs; the write
pointer it starts from reaches the names its slices wrote. Slices that disagree fail it, and so does a tile of another type. -/
def State.startCopy (s : State) (core i : Nat) : State :=
  let c := s.dev.coreAt core
  let ch := c.chan i
  match c.running i, ch.queue.find? fun x => x.slices.length == x.n with
  | none, some x =>
    let d := x.desc
    let tile := x.tile.bind fun n => (s.cohortAt core x.cohort).bind fun h => tget h.tiles n
    if s.dev.heldQuad (quadOf core) || x.tile.isSome && !(match tile with | some t => t.closed | none => false) then s
    else
      let y := { x with started := true }
      let s1 := s.setCopy core i y
      let s2 := x.slices.foldl (fun s z => match s.strandAt core z.slot with
        | some st => s.setStrand core z.slot (st.deliver z.flight 0 (fun _ => BitVec.ofNat 64 ch.wp) [])
        | none => s) s1
      if x.slices.any fun z => z.desc != d then s2.failCopy core i y 6
      else match tile with
        | some t => if x.tensor.ty != (if t.wide then .f64 else .f32) then s2.failCopy core i y 2 else s2
        | none => s2
  | _, _ => s

def execCopyStart (core chan : Nat) (s : State) : Out := .next (s.flush.startCopy core chan)

/-- Why a copy's access to memory does not go through now: it waits, it asks for a page, or it fails with a detail of R286. -/
inductive CopyStop where
  | hold
  | page (page port : Nat)
  | fail (detail : Nat)
  deriving DecidableEq, Repr

/-- The place of a byte that an engine accesses for a launch, and its policy and race-detect mark. `asks`: a host-demand page is
requested (R286). A privileged field is not written (R7, log entry 86). -/
def State.enginePlace (s : State) (asid part : Nat) (asks write : Bool) (e : Ending) (va : Nat) : Except CopyStop Trans :=
  match translate s.dev asid part va 1 ⟨!write, write, false⟩ [0, 1, 2, 3] false with
  | .error f =>
    match f.demand with
    | some (pg, port) => if asks then .error (.page pg port) else .error (.fail 1)
    | none => .error (.fail (if f.cause = cPage then 1 else 2))
  | .ok t =>
    if write && s.dev.guarded t.pa 1 then .error (.fail 2)
    else if s.dev.lost t.pa || e == .memErr then .error (.fail 3)
    else if (e == .linkErr && 5 ≤ spaceOf t.pa) || s.dev.unreachable t.pa then .error (.fail 4)
    else if s.dev.paused t.pa then .error .hold
    else .ok t

def State.copyPlace (s : State) (x : Copy) (write : Bool) (e : Ending) (va : Nat) : Except CopyStop Trans :=
  s.enginePlace x.asid x.part (!x.refused) write e va

/-- Has an access of the strand in a slot, made before an engine command, still to act on a byte? For what the engine reads these are
atomics and additions, and stores that its core does not see yet, for what it writes loads and stores too (R213, R215). -/
def State.engineWaits (s : State) (core slot order : Nat) (write : Bool) (pa : Nat) : Bool :=
  match s.strandAt core slot with
  | some st => st.flights.any fun f => f.2.unit < order && f.2.accs.any fun a =>
      (f.2.kind.atHome || (write && f.2.kind.plain) || a.held) && !a.over && overlaps a.pa a.ty.size pa 1
  | none => false

/-- The same for the strands whose slices a copy carries. -/
def State.copyWaits (s : State) (core : Nat) (x : Copy) (write : Bool) (pa : Nat) : Bool :=
  x.slices.any fun z => s.engineWaits core z.slot z.order write pa

/-- A byte of memory as the engines of a core read it: a non-home copy that the die holds (R187), under the stores that the core
has accepted (R215). -/
def State.engineByte (s : State) (core part : Nat) (t : Trans) : Byte :=
  let m := s.dev.mem.get t.pa
  let b := if copied core t.pa t.policy t.rd then
      match tget (s.dev.dieAt (dieOf core)).copies (copyKey part (t.pa / 32)) with
      | some bs => bs.getD (t.pa % 32) 0
      | none => m
    else m
  (overStores (s.dev.coreAt core) seenByAll t.pa [b]).headD 0

/-- A byte of a tile as the copy reads it. -/
def State.tileByte (s : State) (core : Nat) (x : Copy) (e : Ending) (b : TByte) : Except CopyStop Byte :=
  match b.va with
  | none => .ok (BitVec.ofNat 8 b.fill)
  | some va => match s.copyPlace x false e va with
    | .error f => .error f
    | .ok t => if s.copyWaits core x false t.pa then .error .hold
        else .ok (((s.engineByte core x.part t) &&& BitVec.ofNat 8 b.keep) ||| BitVec.ofNat 8 b.fill)

/-- The bytes of a row that a copy delivers; `cpyfill` reads nothing (R280). -/
def State.tileRow (s : State) (core : Nat) (x : Copy) (e : Ending) : Except CopyStop (List Byte) :=
  let d := x.desc
  (List.range 128).mapM fun i =>
    if d.kind = 3 then
      .ok (BitVec.ofNat 8 (if x.tensor.ty.bits = 4 then x.tensor.fill.toNat % 16 * 17
        else x.tensor.fill.toNat / 2 ^ (8 * (i % x.tensor.ty.size)) % 256))
    else s.tileByte core x e (x.tensor.rowByte (origin d.co d.ch) x.row i)

/-- The scales and the specials of a row's eight blocks (R280). -/
def State.sideRow (s : State) (core : Nat) (x : Copy) (e : Ending) : Except CopyStop (List Byte × List Byte) := do
  let d := x.desc
  let get := fun (base : Word) (dflt : Byte) (j : Nat) =>
    match (if d.kind = 3 then none else x.tensor.block (origin d.co d.ch) x.row j) with
    | none => Except.ok dflt
    | some b => s.tileByte core x e ⟨some ((base.toNat + b) % 2 ^ 64), 255, 0⟩
  let sc ← (List.range 8).mapM (get x.tensor.sbase 0x7F)
  let sp ← (List.range 8).mapM (get x.tensor.xbase 0x80)
  .ok (sc, sp)

/-- A row of 128 bytes at its canonical addresses (R248, R279). -/
def putRow (m : Memory) (a : Nat) (bs : List Byte) : Memory :=
  (List.range 8).foldl (fun m j => m.write (canonical (a + 16 * j)) ((bs.drop (16 * j)).take 16)) m

def getRow (m : Memory) (a : Nat) : List Byte := (List.range 128).map fun i => m.get (canonical (a + i))

/-- Bytes posted to the barrier of a receiver (R284), with the generation that the copy captured there. -/
def State.postBytes (s : State) (core pos : Nat) (x : Copy) (addr n : Nat) : State :=
  s.atBarrier core pos x.cohort addr (.post n (tget x.gens pos))

/-- The row count after a row, and the write pointer after so many bytes that every receiver has (R282, R285). -/
def State.rowDone (s : State) (core i : Nat) (x : Copy) (n : Nat) : State :=
  let s := s.setCopy core i { x with row := x.row + 1, page := none, refused := false }
  let c := s.dev.coreAt core
  s.setCore core (c.setChan i { c.chan i with wp := (c.chan i).wp + n })

/-- A row into the buffers: written at every receiver whose port does not fail, then posted (R281, R284 to R286). -/
def State.deliverRow (s : State) (core i : Nat) (x : Copy) (bad : BitVec 4) (bs : List Byte) (side : Option (List Byte × List Byte)) :
    State :=
  let d := x.desc
  let f := s.failAt core i x ((List.range 4).filter fun p => bad.getLsbD p)
  let x := f.1
  let ps := (d.receivers core).filter fun p => !x.failedAt.getLsbD p
  let a := d.addr + 128 * x.row
  let s := ps.foldl (fun s p => s.onCohort (4 * quadOf core + p) x.cohort fun h =>
    if d.wbuf then { h with w := putRow h.w a bs } else { h with a := putRow h.a a bs }) f.2
  let s := match side, d.side with
    | some (sc, sp), some sa => s.onCohort core x.cohort fun h =>
        { h with a := (h.a.write (sa + 8 * x.row) sc).write (sa + 8 * d.rows + 8 * x.row) sp }
    | _, _ => s
  let got := 128 * (x.row + 1)
  let due := got % 1024 = 0 || x.row + 1 = d.rows
  let s := match d.abar with
    | some b => if due then ps.foldl (fun (s : State) p => s.postBytes core p x b (got - x.posted)) s else s
    | none => s
  s.rowDone core i { x with posted := if due then got else x.posted } (if x.failedAt = 0 then 128 else 0)

/-- Bytes of a row written to the tensor, and those of its blocks' scales and specials (R281): the byte of memory, the bits to
write and the value. -/
def State.storeRow (s : State) (x : Copy) (h : Cohort) : List (Nat × Nat × Byte) :=
  let d := x.desc
  let o := origin d.co d.ch
  let tile := x.tile.bind fun n => tget h.tiles n
  let n := match tile with | some t => 128 * t.esize | none => 128
  let row := getRow h.a (d.addr + 128 * x.row)
  let val := fun (i : Nat) => match tile with
    | some t => BitVec.ofNat 8 (t.nat (128 * t.esize * x.row + i) 1)
    | none => row.getD i 0
  let data := (List.range n).filterMap fun i =>
    let b := x.tensor.rowByte o x.row i
    b.va.map fun va => (va, b.keep, val i)
  let blocks := match d.side with
    | none => []
    | some a => (List.range 8).flatMap fun j => match x.tensor.block o x.row j with
      | none => []
      | some b => [((x.tensor.sbase.toNat + b) % 2 ^ 64, 255, h.a.get (a + 8 * x.row + j)),
                   ((x.tensor.xbase.toNat + b) % 2 ^ 64, 255, h.a.get (a + 8 * d.rows + 8 * x.row + j))]
  let _ := s
  data ++ blocks

/-- A byte stored by an engine of a core: its home, the die's copy, and no stale sector in the core's L1 (R186, R215). -/
def State.engineStore (s : State) (core part : Nat) (t : Trans) (keep : Nat) (b : Byte) : State :=
  let k := BitVec.ofNat 8 keep
  let s := s.writePlace core part t.pa [((s.dev.mem.get t.pa) &&& ~~~k) ||| (b &&& k)]
  let c := s.dev.coreAt core
  s.setCore core { c with l1 := tdel c.l1 (t.pa / 32) }

/-- The copy stops at a row: it waits, sends a page request (R286, R338) or fails. -/
def State.copyStops (s : State) (core i : Nat) (x : Copy) (f : CopyStop) : State :=
  match f with
  | .hold => s
  | .page pg port =>
    if x.page = some pg then s
    else
      let s := s.setCopy core i { x with page := some pg }
      { s with dev := { s.dev with pageReqs := s.dev.pageReqs ++ [(port, pg)] } }
  | .fail n => s.failCopy core i x n

/-- The next row that the copy has not read, and the state after the read: with its last byte the tile of a copy out is released
(R312). -/
def State.readRow (s : State) (core : Nat) (x : Copy) (e : Ending) : Except CopyStop (RowData × State) :=
  let d := x.desc
  let y := { x with row := x.row + x.ahead.length }
  if d.kind = 2 then
    match s.cohortAt core x.cohort with
    | none => .error .hold
    | some h =>
      let n := match x.tile.bind fun n => tget h.tiles n with | some t => 128 * t.esize | none => 128
      let s1 := match x.tile with
        | some n => if y.row + 1 = d.rows then s.onCohort core x.cohort fun h => { h with tiles := tdel h.tiles n } else s
        | none => s
      .ok (⟨[], none, s.storeRow y h, n⟩, s1)
  else
    match s.tileRow core y e with
    | .error f => .error f
    | .ok bs =>
      if d.side.isNone then .ok (⟨bs, none, [], 128⟩, s)
      else match s.sideRow core y e with
        | .error f => .error f
        | .ok side => .ok (⟨bs, some side, [], 128⟩, s)

/-- The place of a byte that a copy out writes, once no earlier access of its path holds it back. -/
def State.putPlace (s : State) (core : Nat) (x : Copy) (e : Ending) (va : Nat) : Except CopyStop Trans :=
  match s.copyPlace x true e va with
  | .ok t => if s.copyWaits core x true t.pa then .error .hold else .ok t
  | .error f => .error f

/-- A row that has been read is delivered: to the buffers, or for a copy out to the tensor. -/
def State.putRowData (s : State) (core i : Nat) (x : Copy) (bad : BitVec 4) (e : Ending) (r : RowData) : State :=
  if x.desc.kind = 2 then
    match r.puts.mapM fun b => s.putPlace core x e b.1 with
    | .error f => (s.setCopy core i { x with ahead := r :: x.ahead }).copyStops core i { x with ahead := r :: x.ahead } f
    | .ok ts =>
      let s1 := (r.puts.zip ts).foldl (fun s b => s.engineStore core x.part b.2 b.1.2.1 b.1.2.2) s
      s1.rowDone core i x r.len
  else s.deliverRow core i x bad r.bytes r.side

/-- COPY_ROW_DELIVERY (R281, R311): the next row of the copy that runs on a channel, read now if it has not been read ahead. `bad` are
the receivers whose write port reports an uncorrectable error, `e` how an access of the source ends. -/
def State.copyRow (s : State) (core i : Nat) (bad : BitVec 4) (e : Ending) : State :=
  match (s.dev.coreAt core).running i with
  | none => s
  | some x =>
    if x.detail ≠ 0 || x.desc.rows ≤ x.row then s
    else match x.ahead with
      | r :: more => s.putRowData core i { x with ahead := more } bad e r
      | [] => match s.readRow core x e with
        | .error f => s.copyStops core i x f
        | .ok (r, s1) => s1.putRowData core i x bad e r

/-- The copy that runs on a channel reads a row ahead (R281). -/
def State.readAhead (s : State) (core i : Nat) : State :=
  match (s.dev.coreAt core).running i with
  | none => s
  | some x =>
    if x.detail ≠ 0 || x.desc.rows ≤ x.row + x.ahead.length then s
    else match s.readRow core x .done with
      | .error _ => s
      | .ok (r, s1) => s1.setCopy core i { x with ahead := x.ahead ++ [r] }

def execCopyRowDelivery (core chan : Nat) (writeErrors : BitVec 4) (e : Ending) (s : State) : Out :=
  .next (s.flush.copyRow core chan writeErrors e)

/-- The copy error word (R286). -/
def copyWord (batch ctr recv detail : Nat) : Word :=
  BitVec.ofNat 64 (batch % 2 ^ 24 * 2 ^ 40 + ctr * 2 ^ 36 + recv * 2 ^ 32 + detail)

/-- The ordinal of a unit's batch on its counter. -/
def Strand.ordinalOf (st : Strand) (k u : Nat) : Nat :=
  match (st.counter k).units.find? (·.id == u) with
  | some x => x.ordinal
  | none => 0

/-- COPY_COMPLETE (R283, R286, R311): the copy is over, on the unit of every slice, and its tile is released (R312). Where it has failed at
a receiver and then as a whole, its word shows the latter's detail: which of the two it shows is not stated (log entry 126). -/
def State.endCopy (s : State) (core i : Nat) : State :=
  match (s.dev.coreAt core).running i with
  | none => s
  | some x =>
    let d := x.desc
    if x.detail = 0 && x.row < d.rows then s
    else
      let detail := if x.detail ≠ 0 then x.detail else if x.failedAt = 0 then 0 else 5
      let s := x.slices.foldl (fun s z => match s.strandAt core z.slot with
        | some st =>
          let w := copyWord (st.ordinalOf z.ctr z.unit) z.ctr x.failedAt.toNat detail
          s.completeUnit core z.slot z.unit (if detail = 0 then [] else [⟨z.unit, z.ctr, z.order, cCopyerr, [], w⟩])
        | none => s) s
      let s := match x.tile with
        | some n => s.onCohort core x.cohort fun h => { h with tiles := tdel h.tiles n }
        | none => s
      let c := s.dev.coreAt core
      s.setCore core (c.setChan i { c.chan i with queue := (c.chan i).queue.filter fun y => !y.started })

def execCopyComplete (core chan : Nat) (s : State) : Out := .next (s.flush.endCopy core chan)

/-- The host's answer to a page request of a copy (R286): a refusal fails it. -/
def Chan.pageAnswer (ch : Chan) (page : Nat) (ok : Bool) : Chan :=
  { ch with queue := ch.queue.map fun x => if x.page = some page then { x with page := none, refused := !ok } else x }

end Sys2Proof.Machine
end

