-- ==== Sys2Proof/Machine/Matrix.lean ====
section
/-! DEFINITION. The matrix engine of a quad, major 0x37 (R121, R122, R287 to R292, R314 to R317), and its events. -/
namespace Sys2Proof.Machine

/-! ### Accumulators and entries -/

/-- An accumulator by its cohort, core and name. -/
def accKey (cohort core acc : Nat) : Nat := (cohort * 512 + core) * 2 + acc

/-- The type of an accumulator once every accepted entry has acted: none while it is empty, true for f64 (R287). -/
def Quad.typeAfter (q : Quad) (cohort core acc : Nat) : Option Bool :=
  q.entries.foldl (fun t e =>
    if e.2.cohort = cohort && e.2.core = core && e.2.acc = acc then
      match e.2.kind with
      | .mma _ _ _ _ _ _ _ _ => some e.2.wide
      | .close | .clear => none
      | .read => t
    else t) ((tget q.accs (accKey cohort core acc)).map (·.wide))

def State.quadHere (s : State) : Quad := s.dev.quadAt (quadOf s.coreNo)

/-- May a command name the accumulator: it is granted, the window has a slot, and no f64 accumulator takes its place (R287, R358)? -/
def State.accOk (s : State) (acc : Nat) : Bool :=
  s.cohort.slots != 0 && acc < s.cohort.accs &&
    (acc == 0 || s.quadHere.typeAfter s.strand.cohort s.coreNo 0 != some true)

/-- The same for an `mma` of a type (R194, R287). -/
def State.mmaOk (s : State) (acc : Nat) (wide : Bool) : Bool :=
  let own := s.quadHere.typeAfter s.strand.cohort s.coreNo acc
  s.accOk acc && own != some (!wide) &&
    (!wide || (acc == 0 && s.cohort.accs == 2 && 2 ≤ s.cohort.slots &&
      s.quadHere.typeAfter s.strand.cohort s.coreNo 1 == none))

/-- Does an entry come before another of the same clock, by core position (R288)? -/
def Entry.sooner (e f : Entry) : Bool := e.posted == f.posted && posOf e.core < posOf f.core

/-- A new entry takes its place by age: after all that were posted before it, commands of one clock by ascending core position (R288). -/
def insertEntry (x : Nat × Entry) : List (Nat × Entry) → List (Nat × Entry)
  | [] => [x]
  | y :: r => if x.2.sooner y.2 then x :: y :: r else y :: insertEntry x r

/-- An entry joins the reservation table of the quad. -/
def State.reserve (s : State) (id : Nat) (e : Entry) : State :=
  let q := s.quadHere
  { s with dev := s.dev.setQuad (quadOf s.coreNo) { q with entries := insertEntry (id, e) q.entries } }

/-- Is there room in the reservation table (R276)? -/
def State.entryRoom (s : State) : Bool := s.quadHere.entries.length < 32

def State.entry (s : State) (k : Fin 16) (unit acc : Nat) (wide : Bool) (kind : MKind) : Entry where
  core := s.coreNo
  cohort := s.strand.cohort
  slot := s.slotNo
  ctr := k.val
  unit := unit
  acc := acc
  wide := wide
  kind := kind
  prio := s.cohort.prio
  passed := 0
  started := none
  tile := 0
  ticket := s.dev.ticket
  posted := s.clock

/-- A per-lane operand of `mma`: the 64-bit values of lanes 0 to 127 (R316). -/
def State.laneWords (s : State) (n : Fin 128) : List Word :=
  match s.path.get (.vec n) with
  | some r => r.vals.take 128
  | none => []

/-- Alignment and windows of the operands of an `mma` (R316). -/
def mmaAddrs (h : Cohort) (a b : Nat) (idx : Option Nat) (s : State) : Ex Unit := do
  match idx with
  | none => requireAt (a % 1024 = 0 && a + 16384 ≤ h.asize) a s
  | some i =>
    requireAt (a % 128 = 0 && a + 128 ≤ h.asize) a s
    requireAt (i % 256 = 0 && i + 256 ≤ h.asize) i s
  requireAt (b % 1024 = 0 && b + 16384 ≤ h.wsize) b s

/-- `mma` (R314 to R316). -/
def mmaOp (o : MmaOp) (s : State) : Ex State := do
  let pair := fun (x : Option (Fin 128 × Fin 128)) => match x with | some (a, b) => [Name.vec a, Name.vec b] | none => []
  let ns := fieldNames ([o.aaddr, o.baddr] ++ o.idx.toList) ++ pair o.scales ++ pair o.specials
  let r ← engineReads ns (s.path.lanes &&& allLanes 128) s
  waitFor (s.engineRoom o.k && s.entryRoom) s
  require (s.wholeMask o.mask && 128 ≤ s.strand.width) cMaskeng s
  let wide := o.aty == .f64
  require (s.mmaOk o.acc.toNat wide) cIllop s
  let a := s.field o.aaddr
  let b := s.field o.baddr
  let i := o.idx.map s.field
  mmaAddrs s.cohort a b i s
  let of := fun (x : Option (Fin 128 × Fin 128)) (snd : Bool) => match x with
    | some (p, q) => s.laneWords (if snd then q else p)
    | none => []
  let kind := MKind.mma o a b i (of o.scales false) (of o.scales true) (of o.specials false) (of o.specials true)
  .ok (s.accepted (r.reserve r.uid (s.entry o.k r.uid o.acc.toNat wide kind)) o.la o.k ns)

def execMma (o : MmaOp) (s : State) : Out := (mmaOp o s).out

/-- `mcl`, `mclr` and `mrd` (R317). -/
def accOp (kind : MKind) (o : AccOp) (s : State) : Ex State := do
  waitFor (s.engineRoom o.k && s.entryRoom) s
  require (s.wholeMask o.mask) cMaskeng s
  require (s.accOk o.acc.toNat) cIllop s
  let wide := s.quadHere.typeAfter s.strand.cohort s.coreNo o.acc.toNat == some true
  .ok (s.accepted (s.reserve s.uid (s.entry o.k s.uid o.acc.toNat wide kind)) o.la o.k [])

def execMcl (o : AccOp) (s : State) : Out := (accOp .close o s).out
def execMclr (o : AccOp) (s : State) : Out := (accOp .clear o s).out
def execMrd (o : AccOp) (s : State) : Out := (accOp .read o s).out

/-! ### The arbiter (R289) -/

/-- Do two entries use one accumulator? An f64 accumulator takes both of the core's (R287). -/
def Entry.shares (e f : Entry) : Bool :=
  e.core = f.core && e.cohort = f.cohort && (e.acc = f.acc || e.wide || f.wide)

/-- Entries without an older unfinished entry of their accumulator, oldest first (R122). -/
def headsOf : List Entry → List (Nat × Entry) → List (Nat × Entry)
  | _, [] => []
  | seen, e :: r => if seen.any e.2.shares then headsOf (e.2 :: seen) r else e :: headsOf (e.2 :: seen) r

def Entry.isMma (e : Entry) : Bool :=
  match e.kind with
  | .mma _ _ _ _ _ _ _ _ => true
  | _ => false

def Entry.gathered (e : Entry) : Bool :=
  match e.kind with
  | .mma _ _ _ (some _) _ _ _ _ => true
  | _ => false

/-- The arbiter's choice: an entry passed over 64 times, the oldest first; else the oldest of the highest priority. -/
def choose (es : List (Nat × Entry)) : Option (Nat × Entry) :=
  match es.find? fun e => 64 ≤ e.2.passed with
  | some e => some e
  | none => es.foldl (fun o e => match o with
      | none => some e
      | some x => if x.2.prio < e.2.prio then some e else some x) none

/-- The `mma` entries that wait for a pass at the head of their accumulators. -/
def Quad.waiting (q : Quad) : List (Nat × Entry) := (headsOf [] q.entries).filter fun e => e.2.isMma && e.2.started.isNone

/-! ### Operands (R290, R291) -/

/-- K of a pass (R13, R315). -/
def passK : Ty → Nat
  | .f64 => 2 | .f32 => 8 | .e4m3 | .e5m2 => 128 | .e2m1 => 256 | _ => 64

/-- The bytes of a row that a pass reads, zeros for a row beyond the window. -/
def passRow (m : Memory) (size row unit n : Nat) : List Byte :=
  if row + 128 ≤ size then (List.range n).map fun i => m.get (canonical (row + 16 * unit + i)) else List.replicate n 0

/-- A row of A, by its number from the operand's address, as a pass reads it. -/
def rowOfA (h : Cohort) (o : MmaOp) (a r : Nat) : List Byte :=
  passRow h.a h.asize (a + 128 * r) o.unit.toNat (passK o.aty * o.aty.bits / 8)

/-- The rows of a dense A that an entry's pass reads. -/
def rowsOfA (h : Cohort) (o : MmaOp) (a : Nat) : List (List Byte) := (List.range 128).map (rowOfA h o a)

def rowsOfB (h : Cohort) (o : MmaOp) (b : Nat) : List (List Byte) :=
  (List.range 128).map fun n => passRow h.w h.wsize (b + 128 * n) o.unit.toNat (passK o.bty * o.bty.bits / 8)

/-- The value of an element of a block-scaled operand with its scale and special codes (R109). -/
def blockValue (t : Ty) (c e sp : Nat) : FVal :=
  if e = 255 then .nan
  else mulV (if t = .e2m1 && c = 8 then valueOf .e4m3 sp else valueOf t c) (valueOf .e8m0 e)

/-- The elements of a row, with the scales and specials of its lane where the operand is block-scaled. -/
def elemsOf (t : Ty) (bs : List Byte) (scale special : Option Word) (sel : Nat) : List FVal :=
  let x := leNat bs
  let byte := fun (w : Option Word) (k : Nat) => match w with | some y => y.toNat / 2 ^ (8 * (sel + k / 32)) % 256 | none => 0x80
  (List.range (passK t)).map fun k =>
    let c := x / 2 ^ (k * t.bits) % 2 ^ t.bits
    match scale with
    | none => valueOf t c
    | some _ => blockValue t c (byte scale k) (byte special k)

/-- One pass: for every element the exact sum of the accumulator and the products, rounded once (R121, R316). -/
def passResult (o : MmaOp) (old : List Word) (ra rb : List (List Byte)) (sa sb xa xb : List Word) : List Word :=
  let t : Ty := if o.aty = .f64 then .f64 else .f32
  let of := fun (ty : Ty) (rows : List (List Byte)) (sc sp : List Word) =>
    (List.range 128).map fun r => elemsOf ty (rows.getD r []) (if o.scales.isSome then sc[r]? else none)
      (if o.specials.isSome then sp[r]? else none) o.sel.toNat
  let va := of o.aty ra sa xa
  let vb := of o.bty rb sb xb
  (List.range 16384).map fun i =>
    let acc := valueOf t (old.getD i 0).toNat
    BitVec.ofNat 64 (rne t (sumV (acc :: List.zipWith mulV (va.getD (i / 128) []) (vb.getD (i % 128) []))))

/-! ### Events -/

/-- LATCH_FILL (R290): the gather unit begins to fill the empty latch for the entry that the arbiter ranks first among the gathered ones,
and reads its index list. -/
def State.fillLatch (s : State) (qn : Nat) : State :=
  let q := s.dev.quadAt qn
  if s.dev.heldQuad qn then s
  else match q.latch, choose (q.waiting.filter fun e => e.2.gathered) with
  | none, some (id, e) =>
    match e.kind, s.cohortAt e.core e.cohort with
    | .mma _ _ _ (some i) _ _ _ _, some h =>
      { s with dev := s.dev.setQuad qn { q with latch := some (id, s.clock, (List.range 128).map (fun r => h.a.nat (i + 2 * r) 2), []) } }
    | _, _ => s
  | _, _ => s

/-- The rows that a fill has read when the clocks before `till` have passed: four in each, as they stand in it (R290). -/
def Quad.fill (d : Device) (till : Nat) (q : Quad) : Quad :=
  match q.latch with
  | none => q
  | some (id, t, idx, rows) =>
    if 128 ≤ rows.length then q
    else match q.entries.find? (·.1 == id) with
      | none => { q with latch := none }
      | some (_, e) =>
        match e.kind, tget (d.coreAt e.core).cohorts e.cohort with
        | .mma o a _ _ _ _ _ _, some h =>
          { q with latch := some (id, t, idx, rows ++ ((idx.take (4 * (till - t))).drop rows.length).map (rowOfA h o a)) }
        | _, _ => q

def Device.runLatches (d : Device) (till : Nat) : Device := { d with quads := d.quads.map fun q => (q.1, q.2.fill d till) }

def execLatchFill (quad : Nat) (s : State) : Out := .next (s.flush.fillLatch quad)

/-- PASS_START (R288 to R290): a pass boundary grants the pass to an eligible entry; both operands are read, and the entry's unit
completes. -/
def State.startPass (s : State) (qn : Nat) : State :=
  let q := s.dev.quadAt qn
  let ready := fun (e : Nat × Entry) => !e.2.gathered || match q.latch with
    | some (id, _, _, rows) => id == e.1 && 128 ≤ rows.length
    | none => false
  if s.dev.heldQuad qn then s
  else match q.pass, choose (q.waiting.filter ready) with
  | none, some (id, e) =>
    match e.kind, s.cohortAt e.core e.cohort with
    | .mma o a b idx _ _ _ _, some h =>
      let ra := match idx, q.latch with
        | some _, some (_, _, _, rows) => rows
        | _, _ => rowsOfA h o a
      let es := q.entries.map fun x =>
        if x.1 = id then (x.1, { x.2 with started := some s.clock }) else (x.1, { x.2 with passed := x.2.passed + 1 })
      let q := { q with entries := es, pass := some (id, s.clock, ra, rowsOfB h o b), latch := if e.gathered then none else q.latch }
      ({ s with dev := s.dev.setQuad qn q }).completeUnit e.core e.slot e.unit []
    | _, _ => s
  | _, _ => s

def execPassStart (quad : Nat) (s : State) : Out := .next (s.flush.startPass quad)

def zeroTile : List Word := List.replicate 16384 0

/-- PASS_END (R289, R316), 32 clocks after the pass began: the accumulator takes its sums. -/
def State.endPass (s : State) (qn : Nat) : State :=
  let q := s.dev.quadAt qn
  match q.pass with
  | none => s
  | some (id, t, ra, rb) =>
    if s.clock < t + 32 then s
    else
      let q := { q with pass := none }
      match q.entries.find? (·.1 == id) with
      | none => { s with dev := s.dev.setQuad qn q }
      | some (_, e) =>
        match e.kind with
        | .mma o _ _ _ sa sb xa xb =>
          let key := accKey e.cohort e.core e.acc
          let old := match tget q.accs key with | some x => x.vals | none => zeroTile
          let acc : Acc := ⟨e.wide, passResult o old ra rb sa sb xa xb⟩
          { s with dev := s.dev.setQuad qn { q with accs := tset q.accs key acc, entries := q.entries.filter (·.1 != id) } }
        | _ => { s with dev := s.dev.setQuad qn q }

def execPassEnd (quad : Nat) (s : State) : Out := .next (s.flush.endPass quad)

/-! ### Closes (R292) -/

/-- The slots that a tile of a ring of n slots takes (R194). -/
def Tile.slots (n : Nat) (t : Tile) : List Nat := if t.wide then [t.slot, (t.slot + 1) % n] else [t.slot]

/-- The slot for a tile: the first after that of the newest tile, around the ring, from which the tile's slots are free, two consecutive
ones for f64 (R194, log entry 22). -/
def Cohort.slotFor (h : Cohort) (t : Tile) : Option Nat :=
  let n := h.slots
  let used := h.tiles.flatMap fun x => x.2.slots n
  let from_ := match h.tiles.getLast? with | some x => (x.2.slots n).getLastD 0 + 1 | none => 0
  ((List.range n).map fun i => (from_ + i) % n).find? fun i =>
    (!t.wide || 2 ≤ n) && ({ t with slot := i }.slots n).all fun k => !used.contains k

/-- What a close or a read would write: the accumulator, or +0 of type f32 where it is empty. -/
def Quad.tileOf (q : Quad) (e : Entry) : Tile :=
  match tget q.accs (accKey e.cohort e.core e.acc) with
  | some x => ⟨x.wide, x.vals, false, 0⟩
  | none => ⟨false, zeroTile, false, 0⟩

/-- Entries of a quad that no pass is needed for act once they are first of their accumulators: `mclr` empties it, a close or a
read reserves its tile when a slot is free, in the order of acceptance on its core. -/
def State.actEntry (s : State) (qn id : Nat) : State :=
  let q := s.dev.quadAt qn
  match (headsOf [] q.entries).find? (·.1 == id) with
  | none => s
  | some (_, e) =>
    let put := fun (q : Quad) => { s with dev := s.dev.setQuad qn q }
    match e.kind with
    | .clear =>
      (put { q with accs := tdel q.accs (accKey e.cohort e.core e.acc), entries := q.entries.filter (·.1 != id) }).completeUnit
        e.core e.slot e.unit []
    | .close | .read =>
      let older := (q.entries.takeWhile (·.1 != id)).any fun x => x.2.core = e.core && x.2.cohort = e.cohort && match x.2.kind with
        | .close | .read => true
        | _ => false
      match s.cohortAt e.core e.cohort with
      | none => s
      | some h =>
        let t := q.tileOf e
        if e.started.isSome || older then s
        else match h.slotFor t with
          | none => s
          | some k =>
            let es := q.entries.map fun x => if x.1 = id then (x.1, { x.2 with started := some s.clock, tile := h.nextTile }) else x
            (put { q with entries := es }).onCohort e.core e.cohort fun h =>
              { h with tiles := tset h.tiles h.nextTile { t with slot := k }, nextTile := h.nextTile + 1 }
    | .mma _ _ _ _ _ _ _ _ => s

/-- The entries of every quad, in order of age. -/
def State.actEntries (s : State) : State :=
  (s.dev.quads.filter fun q => !s.dev.preempted q.1).foldl (fun s q => q.2.entries.foldl (fun s e => s.actEntry q.1 e.1) s) s

/-- TILE_CLOSED (R292): 128 clocks after its writing began, 256 for an f64 tile, the tile is closed and visible at the tail. -/
def State.closeTile (s : State) (core : Nat) : State :=
  let qn := quadOf core
  let q := s.dev.quadAt qn
  let due := fun (e : Nat × Entry) => e.2.core = core && !e.2.isMma && match e.2.started with
    | some t => t + (if (q.tileOf e.2).wide then 256 else 128) ≤ s.clock
    | none => false
  match q.entries.find? due with
  | none => s
  | some (id, e) =>
    let accs := if e.kind = .read then q.accs else tdel q.accs (accKey e.cohort e.core e.acc)
    let s := { s with dev := s.dev.setQuad qn { q with accs := accs, entries := q.entries.filter (·.1 != id) } }
    let s := s.onCohort core e.cohort fun h => { h with tiles := tmod h.tiles e.tile fun t => { t with closed := true } }
    s.completeUnit e.core e.slot e.unit []

def execTileClosed (core : Nat) (s : State) : Out := .next (s.flush.closeTile core)

end Sys2Proof.Machine
end

