-- ==== Sys2Proof/Machine/Epilogue.lean ====
section
/-! DEFINITION. The epilogue converter of a core, major 0x38 (R119, R120, R123, R293, R318, R319), and its events. -/
namespace Sys2Proof.Machine

/-- Bytes of a row of output (R293). -/
def outRow : OTy → Nat
  | .bf16 => 256
  | .e4m3 => 128
  | .e2m1 => 64

/-- `epicfg` (R318): it posts nothing. -/
def epicfgOp (o : EpicfgOp) (s : State) : Ex State := do
  let ns := fieldNames ([o.scale, o.bias, o.dest] ++ o.side.toList)
  let r ← engineReads ns s.path.lanes s
  waitFor (!s.strand.acquiring s.pathNo) s
  require (s.wholeMask o.mask) cMaskeng s
  let h := s.cohort
  let c : EpiCfg := { oty := o.oty, act := o.act, scale := s.field o.scale, bias := s.field o.bias, dest := s.field o.dest
                      side := (o.side.map s.field).getD 0 }
  requireAt (c.scale % 4 = 0 && c.scale + 512 ≤ h.asize) c.scale s
  requireAt (c.bias % 4 = 0 && c.bias + 512 ≤ h.asize) c.bias s
  requireAt (c.dest % 1024 = 0 && c.dest + 128 * outRow o.oty ≤ h.asize) c.dest s
  requireAt (o.side.isNone || (c.side % 4 = 0 && c.side + (if o.oty = .e2m1 then 1024 else 512) ≤ h.asize)) c.side s
  .ok (s.openWindow (r.setCohort { r.cohort with epicfg := some c }) o.la ns [] [] 0 true)

def execEpicfg (o : EpicfgOp) (s : State) : Out := (epicfgOp o s).out

/-- `epi` (R319): it takes the next tile in the order of consumers, and a place in the queue of four (R276). -/
def epiOp (la mask k : Fin 16) (s : State) : Ex State := do
  waitFor (s.engineRoom k && s.core.epis.length < 4) s
  require (s.wholeMask mask) cMaskeng s
  match s.cohort.epicfg with
  | none => raise cIllop s
  | some c =>
    require (s.cohort.slots != 0) cIllop s
    let h := s.cohort
    let x : EpiCmd := { cohort := s.strand.cohort, slot := s.slotNo, ctr := k.val, unit := s.uid, tile := h.nextClaim, cfg := c
                        started := none, scales := [], biases := [], ticket := s.dev.ticket }
    let s1 := s.setCohort { h with nextClaim := h.nextClaim + 1 }
    .ok (s.accepted { s1 with core := { s1.core with epis := s1.core.epis ++ [x] } } la k [])

def execEpi (la mask k : Fin 16) (s : State) : Out := (epiOp la mask k s).out

/-! ### Conversion -/

/-- An element after scale, bias and activation, as an f32 code (R123, R318). -/
def epiElem (c : EpiCfg) (wide : Bool) (x : Word) (scale bias : Nat) : Nat :=
  let y := rne .f32 (addV (mulV (valueOf (if wide then .f64 else .f32) x.toNat) (valueOf .f32 scale)) (valueOf .f32 bias))
  match c.act with
  | .none => y
  | .relu => if (valueOf .f32 y).isNan then y else fMax .f32 y 0
  | .clamp lo hi => fMin .f32 (fMax .f32 y lo.toNat) hi.toNat

/-- e + 127 limited to 0 to 254. -/
def clamp8 (e : Int) : Nat := min (e + 127).toNat 254

/-- floor(log2) of a positive finite value. -/
def floorLog2 : FVal → Int
  | .fin _ m e => (Nat.log2 m : Int) + e
  | _ => 0

/-- The magnitude of a finite value, +0 otherwise. -/
def finMag : FVal → FVal
  | .fin _ m e => .fin false m e
  | _ => .fin false 0 0

/-- The greatest magnitude of a list of finite values; +0 where there is none, so that a block without a finite element gets E = 0x00 (log
entry 101). -/
def greatest (xs : List FVal) : FVal := xs.foldl (fun a x => if ltV a (finMag x) then finMag x else a) (.fin false 0 0)

def isFinite : FVal → Bool
  | .fin _ _ _ => true
  | _ => false

/-- x ÷ 2^(E − 127), rounded to nearest even with saturation. -/
def scaled (t : Ty) (e : Nat) (x : FVal) : Nat :=
  roundV t .rne true (match x with | .fin n m k => .fin n m (k + 127 - e) | y => y)

/-- An E4M3 block: scale code and elements (R119). -/
def blockE4 (xs : List FVal) : Nat × List Nat :=
  let a1 := greatest xs
  let e := if a1.isZero then 0 else clamp8 (floorLog2 a1 - 8)
  (e, xs.map fun x => if isFinite x then scaled .e4m3 e x else 0x7F)

/-- An element of an E2M1 block beside a special: −0 would mean the special (R120, step 4). -/
def besideSpecial (c : Nat) : Nat := if c = 8 then 0 else c

/-- An E2M1 block: scale code, special and elements (R120). -/
def blockE2 (xs : List FVal) : Nat × Nat × List Nat :=
  let a1 := greatest xs
  if xs.any fun x => !isFinite x then
    let e := if a1.isZero then 0 else clamp8 (floorLog2 a1 - 2)
    (e, 0x7F, xs.map fun x => if isFinite x then besideSpecial (scaled .e2m1 e x) else 8)
  else if xs.all FVal.isZero then (0, 0x80, xs.map fun x => if x.neg then 8 else 0)
  else
    let k := (List.range xs.length).find? fun i => eqV (finMag (xs.getD i .nan)) a1
    let k := k.getD 0
    let a2 := greatest (xs.eraseIdx k)
    let e0 := (if a2.isZero then floorLog2 a1 else floorLog2 a2) - 2
    let e := clamp8 (max e0 (floorLog2 a1 - 8))
    let out := match a1 with
      | .fin _ m x => ltV (.fin false 6 0) (.fin false m (x + 127 - e))
      | _ => false
    let sp := if out then scaled .e4m3 e (xs.getD k .nan) else 0x80
    (e, sp, (List.range xs.length).map fun i =>
      if out && i = k then 8
      else let c := scaled .e2m1 e (xs.getD i .nan); if out then besideSpecial c else c)

/-- A row's output bytes, the scales and the specials of its blocks, from its f32 codes. -/
def epiRow (t : OTy) (xs : List Nat) : List Byte × List Byte × List Byte :=
  let block := fun (j : Nat) => (xs.drop (32 * j)).take 32 |>.map (valueOf .f32)
  match t with
  | .bf16 => (xs.flatMap fun x => leBytes 2 (cvtFloat .bf16 .f32 .rne false x), [], [])
  | .e4m3 =>
    let bs := (List.range 4).map fun j => blockE4 (block j)
    (bs.flatMap fun b => b.2.map (BitVec.ofNat 8), bs.map fun b => BitVec.ofNat 8 b.1, [])
  | .e2m1 =>
    let bs := (List.range 4).map fun j => blockE2 (block j)
    (bs.flatMap fun b => (List.range 16).map fun i => BitVec.ofNat 8 (b.2.2.getD (2 * i) 0 + 16 * b.2.2.getD (2 * i + 1) 0),
     bs.map fun b => BitVec.ofNat 8 b.1, bs.map fun b => BitVec.ofNat 8 b.2.1)

/-- Units of 16 bytes at their canonical addresses (R248). -/
def putUnits (m : Memory) (a : Nat) (bs : List Byte) : Memory :=
  (List.range (bs.length / 16)).foldl (fun m j => m.write (canonical (a + 16 * j)) ((bs.drop (16 * j)).take 16)) m

/-- Row r of a tile converted into the window (R293). -/
def epiStore (c : EpiCfg) (t : Tile) (scales biases : List Word) (m : Memory) (r : Nat) : Memory :=
  let xs := (List.range 128).map fun n =>
    epiElem c t.wide (t.vals.getD (128 * r + n) 0) (scales.getD n 0).toNat (biases.getD n 0).toNat
  let (bs, sc, sp) := epiRow c.oty xs
  ((putUnits m (c.dest + r * outRow c.oty) bs).write (c.side + 4 * r) sc).write (c.side + 512 + 4 * r) sp

/-! ### Events -/

/-- EPILOGUE_START (R319): the first command starts once its tile is closed, and reads the scales and biases whole. -/
def State.startEpi (s : State) (core : Nat) : State :=
  let c := s.dev.coreAt core
  match c.epis with
  | [] => s
  | x :: r =>
    match s.cohortAt core x.cohort with
    | none => s
    | some h =>
      let words := fun (a : Nat) => (List.range 128).map fun n => BitVec.ofNat 64 (h.a.nat (a + 4 * n) 4)
      if s.dev.heldQuad (quadOf core) || x.started.isSome || !(match tget h.tiles x.tile with | some t => t.closed | none => false) then s
      else s.setCore core { c with epis :=
        { x with started := some s.clock, scales := words x.cfg.scale, biases := words x.cfg.bias } :: r }

def execEpilogueStart (core : Nat) (s : State) : Out := .next (s.flush.startEpi core)

/-- EPILOGUE_COMPLETE (R293): 256 clocks after the start, 512 for an f64 tile, the output is written, the tile's slots are released
and the unit completes. -/
def State.endEpi (s : State) (core : Nat) : State :=
  let c := s.dev.coreAt core
  match c.epis with
  | [] => s
  | x :: r =>
    match x.started, (s.cohortAt core x.cohort).bind fun h => tget h.tiles x.tile with
    | some t0, some t =>
      if s.clock < t0 + (if t.wide then 512 else 256) then s
      else
        let s := s.setCore core { c with epis := r }
        let s := s.onCohort core x.cohort fun h =>
          { h with a := (List.range 128).foldl (epiStore x.cfg t x.scales x.biases) h.a, tiles := tdel h.tiles x.tile }
        s.completeUnit core x.slot x.unit []
    | _, _ => s

def execEpilogueComplete (core : Nat) (s : State) : Out := .next (s.flush.endEpi core)

end Sys2Proof.Machine
end

