-- ==== Sys2Proof/Machine/Collect.lean ====
section
/-! DEFINITION. Collectives, major 0x39 (R294, R320 to R322), and their event. -/
namespace Sys2Proof.Machine

def Partition.group (p : Partition) (g : Nat) : Option Group :=
  (tget p.groups g).bind fun x => if x.valid && g < 256 then some x else none

def Device.setGroup (d : Device) (p g : Nat) (x : Group) : Device :=
  let y := d.partAt p
  d.setPart p { y with groups := tset y.groups g x }

/-- The die whose engine an entry names for this member (R321, R380). -/
def Group.die (g : Group) : Nat := g.members.getD g.rank 0 / 2 ^ 14 % 4

/-- Collectives of a group that its engine holds (R276). -/
def Group.held (g : Group) : Nat := (g.queue.filter fun x => !x.wait).length

/-- ALIGN at acceptance (R321). -/
def alignAt (a : Word) (s : State) : Ex Unit :=
  raiseAddr cAlign ((lanesOf s.strand.width s.path.lanes).map fun l => ⟨l, cAlign, a⟩) s

/-- A unit whose `wait` acquires at `.pod`. -/
def Strand.podUnit (st : Strand) (k u : Nat) : Strand :=
  let c := st.counter k
  st.setCounter k { c with units := c.units.map fun x => if x.id = u then { x with pod := true } else x }

/-- A command of major 0x39 is accepted into its group's sequence. -/
def collectOp (la mask k : Fin 16) (ns : List Name) (g : Nat) (make : Group → Coll) (check : Ex Unit) (s : State) : Ex State := do
  let r ← engineReads ns s.path.lanes s
  let e := s.part.group g
  waitFor (s.engineRoom k && match e with | some x => x.held < 8 || (make x).wait | none => true) s
  require (s.wholeMask mask) cMaskeng s
  match e with
  | none => raise cProt s
  | some x =>
    require (x.die == dieOf s.coreNo) cProt s
    check
    let c := { make x with unit := r.uid }
    let y := { x with queue := x.queue ++ [c], pos := x.pos + if c.wait then 0 else 1 }
    let t := s.accepted { r with dev := r.dev.setGroup s.partNo g y } la k ns
    .ok (if c.wait then { t with strand := t.strand.podUnit k.val c.unit } else t)

/-- `coll` (R320, R321). -/
def collOp (o : CollOp) (s : State) : Ex State :=
  let dst := s.peek o.dst
  let src := s.peek o.src
  let ns := [Name.scl o.dst, .scl o.src] ++ ([o.count, o.group].filterMap scName)
  let check : Ex Unit := do
    if dst.toNat % o.ty.size = 0 then .ok () else alignAt dst s
    if src.toNat % o.ty.size = 0 then .ok () else alignAt src s
  collectOp o.la o.mask o.k ns (s.scNat o.group) (fun x =>
    { m := x.m, rank := x.rank, members := x.members
      core := s.coreNo, slot := s.slotNo, ctr := o.k.val, unit := 0, wait := false, kind := o.kind, ty := o.ty, dst := dst, src := src
      count := s.scNat o.count, asid := s.asid, pos := x.pos, launch := s.strand.launch, ticket := s.dev.ticket }) check s

def execColl (o : CollOp) (s : State) : Out := (collOp o s).out

/-- `collwait` (R322). -/
def collwaitOp (la mask k : Fin 16) (g : SC) (s : State) : Ex State :=
  collectOp la mask k ((scName g).toList) (s.scNat g) (fun x =>
    { m := x.m, rank := x.rank, members := x.members
      core := s.coreNo, slot := s.slotNo, ctr := k.val, unit := 0, wait := true, kind := .allgat, ty := .n8, dst := 0, src := 0
      count := 0, asid := s.asid, pos := x.pos, launch := s.strand.launch, ticket := s.dev.ticket }) (.ok ()) s

def execCollwait (la mask k : Fin 16) (g : SC) (s : State) : Out := (collwaitOp la mask k g s).out

/-! ### The tree of R294 -/

def treeStep (op : Comb) (t : Ty) (step : Nat) (vs : List Word) : List Word :=
  (List.range vs.length).map fun r =>
    if r % (2 * step) = 0 && r + step < vs.length then combine op t (vs.getD r 0) (vs.getD (r + step) 0) else vs.getD r 0

/-- The contributions of the ranks to one element, combined. -/
def treeOf (op : Comb) (t : Ty) (vs : List Word) : Word :=
  ((List.range 14).foldl (fun vs i => treeStep op t (2 ^ i) vs) vs).headD 0

/-- Bytes of a member's source and of its destination (R321). -/
def Coll.srcLen (x : Coll) (m : Nat) : Nat :=
  x.ty.size * x.count * match x.kind with | .redsc _ => m | _ => 1
def Coll.dstLen (x : Coll) (m : Nat) : Nat :=
  x.ty.size * x.count * match x.kind with | .allgat => m | _ => 1

/-- What a member's destination holds, from the sources of all members in rank order. -/
def Coll.result (x : Coll) (m rank : Nat) (src : List (List Byte)) : List Byte :=
  let z := x.ty.size
  let elem := fun (r e : Nat) => BitVec.ofNat 64 (leNat (((src.getD r []).drop (z * e)).take z))
  let red := fun (op : Comb) (first : Nat) => (List.range x.count).flatMap fun e =>
    leBytes z (treeOf op x.ty ((List.range m).map fun r => elem r (first + e))).toNat
  match x.kind with
  | .allgat => src.flatten
  | .allred op => red op 0
  | .redsc op => red op (rank * x.count)

/-- The places of a member's source, or of its destination, once no earlier access of its path holds them back. -/
def State.collPlaces (s : State) (part : Nat) (x : Coll) (write : Bool) : Except CopyStop (List Trans) :=
  (List.range (if write then x.dstLen x.m else x.srcLen x.m)).mapM fun i =>
    match s.enginePlace x.asid part false write .done (((if write then x.dst else x.src).toNat + i) % 2 ^ 64) with
    | .ok t => if s.engineWaits x.core x.slot x.unit write t.pa then .error .hold else .ok t
    | .error f => .error f

/-- The first collective of a group's sequence on this device ends at its member, with a detail of R286 or 0. -/
def State.endColl (s : State) (part g : Nat) (x : Coll) (detail : Nat) : State :=
  match tget (s.dev.partAt part).groups g with
  | none => s
  | some y =>
    let s := { s with dev := s.dev.setGroup part g { y with queue := y.queue.drop 1 } }
    s.completeUnit x.core x.slot x.unit
      (if detail = 0 then [] else [⟨x.unit, x.ctr, x.unit, cCopyerr, [], copyWord x.pos x.ctr 0 detail⟩])

/-- The entries of this device that list the members of a collective for one rank: partition and handle. -/
def Device.entriesOf (d : Device) (x : Coll) (rank : Nat) : List (Nat × Nat) :=
  d.parts.flatMap fun p => p.2.groups.filterMap fun g =>
    if g.2.valid && g.2.m = x.m && g.2.members = x.members && g.2.rank = rank then some (p.1, g.1) else none

/-- The entry for a rank of the group that an entry belongs to. Where several groups have one list of members, their entries go together in
their order: the manual gives a group no name of its own (log entry 127). -/
def Device.mateOf (d : Device) (x : Coll) (part g rank : Nat) : Option (Nat × Nat) :=
  if rank = x.rank then some (part, g)
  else match (d.entriesOf x x.rank).findIdx? (· == (part, g)) with
    | some i => (d.entriesOf x rank)[i]?
    | none => none

/-- What the engine of an entry holds first, if its sequence has come to a collective. -/
def Device.headOf (d : Device) (e : Nat × Nat) : Option (Nat × Nat × Coll) :=
  ((tget (d.partAt e.1).groups e.2).bind fun y => y.queue.head?).bind fun y => if y.wait then none else some (e.1, e.2, y)

/-- The members of a collective on this device whose sequence has come to it, by rank: partition, handle and what their engine holds (R321,
R371). -/
def Device.localHead (d : Device) (x : Coll) (part g rank : Nat) : Option (Nat × Nat × Coll) := (d.mateOf x part g rank).bind d.headOf

/-- Is the member of a rank on this device? -/
def Coll.isLocal (x : Coll) (r : Nat) : Bool := x.members.getD r 0 % 2 ^ 14 = Config.pkgNumber.toNat

/-- A member's source, as its engine reads it. -/
def State.collSource (s : State) (part : Nat) (x : Coll) : Except CopyStop (List Byte) :=
  (s.collPlaces part x false).map fun ps => ps.map (s.engineByte x.core part)

/-- A collective ends at one member of this device: with its result at its destination, or with a detail. -/
def State.endMember (s : State) (src : List (List Byte)) (detail : Nat) (e : Nat × Nat × Coll) : State :=
  let (part, g, x) := e
  match s.collSource part x, s.collPlaces part x true with
  | .error (.fail d), _ | _, .error (.fail d) => s.endColl part g x d
  | _, .ok qs =>
    if detail ≠ 0 then s.endColl part g x detail
    else ((qs.zip (x.result x.m x.rank src)).foldl (fun s b => s.engineStore x.core part b.1 255 b.2) s).endColl part g x 0
  | _, _ => s

def isHold {α : Type} : Except CopyStop α → Bool
  | .error (.fail _) | .ok _ => false
  | _ => true

/-- COLLECTIVE_COMPLETE (R294, R321, R322): the first of a group's sequence ends at its members on this device, once the sequence of each
of them has come to it. Their engines read their sources; those of the members elsewhere come with the event, by rank, and so does a
failure that they or the fabric cause. Members here that differ in operation, type or size fail with detail 7, and so does one
whose source another member could not give (log entry 24). A `collwait` ends by itself. -/
def State.completeColl (s : State) (part g failure : Nat) (sources : List Byte) : State :=
  match ((tget (s.dev.partAt part).groups g).bind fun y => y.queue.head?) with
  | none => s
  | some x =>
    if x.wait then s.endColl part g x 0
    else
      let n := x.srcLen x.m
      let own := fun (r : Nat) => s.dev.localHead x part g r
      let ranks := List.range x.m
      let here := ranks.filterMap fun r => if x.isLocal r then own r else none
      let busy := here.any fun e => isHold (s.collSource e.1 e.2.2) || isHold (s.collPlaces e.1 e.2.2 true)
      if ranks.any (fun r => x.isLocal r && (own r).isNone) || busy then s
      else if failure = 0 && sources.length ≠ x.m * n && ranks.any (fun r => !x.isLocal r) then s
      else
        let alike := here.all fun e => e.2.2.kind == x.kind && e.2.2.ty == x.ty && e.2.2.count == x.count
        let given := here.all fun e => (s.collSource e.1 e.2.2).toOption.isSome
        let detail := if failure = 3 || failure = 4 then failure else if failure ≠ 0 || !alike || !given then 7 else 0
        let src := ranks.map fun r => match (if x.isLocal r then own r else none) with
          | some e => (s.collSource e.1 e.2.2).toOption.getD []
          | none => (sources.drop (r * n)).take n
        here.foldl (fun s e => s.endMember src detail e) s

def execCollectiveComplete (part group failure : Nat) (sources : List Byte) (s : State) : Out :=
  .next (s.flush.completeColl part group failure sources)

end Sys2Proof.Machine
end

