-- ==== Sys2Proof/Machine/Queues.lean ====
section
/-! DEFINITION. Queues, major 0x23 (R295, R303 to R308, R373, R374), task spawns (R298, R307), and what `rolesw` and a role switch
share (R177, R297). -/
namespace Sys2Proof.Machine

/-- Queue q of the core, when the cohort's queue table configures it (R295, R304). -/
def State.queue (s : State) (q : Fin 16) : Option Queue :=
  if s.cohort.queues then (tget s.core.queues q.val).bind fun x => if x.cohort = s.strand.cohort then some x else none else none

def State.setQueue (s : State) (q : Nat) (x : Queue) : State := { s with core := { s.core with queues := tset s.core.queues q x } }

/-- The queue after its occupancy changed: since when it has been at or below L, at or above H (R297), and the reserve flag, which
clears below C. -/
def Queue.at (x : Queue) (occ clock : Nat) : Queue :=
  { x with
    occ := occ
    lowSince := if occ ≤ x.low && x.low < x.occ then clock else x.lowSince
    highSince := if x.high ≤ occ && x.occ < x.high then clock else x.highSince
    reserve := x.reserve && x.cap ≤ occ }

/-- A path that waits at a queue, and since when (R297). -/
def State.blockedAt (s : State) : State :=
  { s with path := { s.path with blocked := some (s.path.blocked.getD s.clock) } }

/-- An element of a ring. Of a ring that runs past the cohort's window an element there reads as zero and is not written, as of an operand
of a streaming operation (R190, R191, log entry 124). -/
def Cohort.ringGet (c : Cohort) (a : Nat) : Word := BitVec.ofNat 64 (if a + 4 ≤ c.asize then c.a.nat a 4 else 0)
def Cohort.ringPut (c : Cohort) (a : Nat) (v : Word) : Memory := if a + 4 ≤ c.asize then c.a.write a (leBytes 4 v.toNat) else c.a

/-- After what has acted in this clock, does one of a lower rank come too late (R295)? -/
def outOfTurn (acted : Nat × Nat) (clock rank : Nat) : Bool := acted.1 = clock && rank < acted.2

/-- How many slots the takes of this clock have freed: they count until the next (R305). -/
def freed (took : Nat × Nat) (clock : Nat) : Nat := if took.1 = clock then took.2 else 0

/-- Elements that a send finds in a local queue. -/
def Queue.fill (x : Queue) (clock : Nat) : Nat := x.occ + freed x.took clock

/-- Write an element at the tail of a local queue (R305). -/
def State.publish (s : State) (q : Nat) (x : Queue) (v : Word) : State :=
  let co := s.cohort
  let s := s.setCohort { co with a := co.ringPut (x.base + 4 * x.tail) v }
  s.setQueue q ({ x with tail := (x.tail + 1) % x.cap }.at (x.occ + 1) s.clock)

/-- Take the element at the head of a local queue; a reserved element then moves into the ring (R297). -/
def State.take (s : State) (q : Nat) (x : Queue) : Word × State :=
  let co := s.cohort
  let v := co.ringGet (x.base + 4 * x.head)
  let y := { x with head := (x.head + 1) % x.cap, took := (s.clock, freed x.took s.clock + 1), acted := (s.clock, s.slotNo) }
  if x.cap < x.occ then
    let s := s.setCohort { co with a := co.ringPut (x.base + 4 * x.tail) x.reserved }
    (v, s.setQueue q ({ y with tail := (x.tail + 1) % x.cap }.at (x.occ - 1) s.clock))
  else (v, s.setQueue q (y.at (x.occ - 1) s.clock))

/-- The bridge of a queue, when both owners have bound it (R373). -/
def Device.liveBridge (d : Device) (b : Nat) : Option Bridge :=
  (tget d.bridges b).bind fun x => match x.sender, x.receiver with
    | some (a, r), some (b, t) => if r = b && t = a then some x else none
    | _, _ => none

def Bridge.sentBy (x : Bridge) (p : Nat) : Bool := match x.sender with | some (a, _) => a == p | none => false
def Bridge.takenBy (x : Bridge) (p : Nat) : Bool := match x.receiver with | some (a, _) => a == p | none => false

/-- The queues of a core that are ends of a bridge, with its fill (R297, R373). -/
def Core.fillOf (c : Core) (b occ clock : Nat) : Core :=
  { c with queues := c.queues.map fun q => if q.2.kind = 1 && q.2.base = b then (q.1, q.2.at occ clock) else q }

/-- A bridge's ring changes: every queue that is an end of it has its fill. -/
def Device.setBridge (d : Device) (b : Nat) (x : Bridge) (clock : Nat) : Device :=
  { d with bridges := tset d.bridges b x, cores := d.cores.map fun c => (c.1, c.2.fillOf b x.ring.length clock) }

def State.setBridge (s : State) (b : Nat) (x : Bridge) : State :=
  { s with dev := s.dev.setBridge b x s.clock, core := s.core.fillOf b x.ring.length s.clock }

/-- Elements that a send finds in a bridge. -/
def Bridge.fill (x : Bridge) (clock : Nat) : Nat := x.ring.length + freed x.took clock

/-- The place of a send or a take of the path in focus in the order of its clock at a bridge: sends before takes, each in ascending strand
slot; of two cores' strands in one slot the lower core's first (R295, R305, log entry 125). -/
def State.bridgeRank (s : State) (takes : Bool) : Nat := (if takes then 2 ^ 16 else 0) + 512 * s.slotNo + s.coreNo

/-- A bridge after a send and after a take. -/
def Bridge.sent (x : Bridge) (clock rank : Nat) (v : Word) : Bridge := { x with ring := x.ring ++ [v], acted := (clock, rank) }
def Bridge.after (x : Bridge) (clock rank : Nat) (r : List Word) : Bridge :=
  { x with ring := r, took := (clock, freed x.took clock + 1), acted := (clock, rank) }

/-- `qsend` and `qsend.y` (R305, R306). -/
def qsendOp (q : Fin 16) (a : SC) (s : State) : Ex State := do
  let r ← readSrcs [(scSrc a, .n32)] [] s.path.lanes s
  let v := low32 ((r.1.map (·.at 0)).getD 0 0)
  let s1 ← splitLanes s r.2.2 s.path.pc 0 r.2.1 [] []
  match s.queue q with
  | none => raise cQueueerr s
  | some x =>
    if x.kind = 2 then raise cQueueerr s
    else if x.kind = 1 then
      match s.dev.liveBridge x.base with
      | none => raise cQueueerr s
      | some b =>
        if !b.sentBy s.partNo then raise cQueueerr s
        else if b.cap ≤ b.fill s.clock then .error s.blockedAt
        else if outOfTurn b.acted s.clock (s.bridgeRank false) then .error s
        else
          let s2 ← releaseAt .pkg s s1
          .ok (s2.setBridge x.base (b.sent s.clock (s.bridgeRank false) v)).done
    else if x.cap ≤ x.fill s.clock then .error s.blockedAt
    else
      let s2 ← releaseAt .core s s1
      .ok (s2.publish q.val x v).done

def execQsend (_yield : Bool) (q : Fin 16) (a : SC) (s : State) : Out := (qsendOp q a s).out

/-- The path in focus can perform an acquire: its earlier loads are bound (R206). `s0` is the state to stall with. -/
def acquirable (s0 s : State) : Ex State :=
  let s1 := s.bindAll
  if s1.allBound then .ok s1 else .error s0

/-- Take one element of a queue, as `qrecv` does, before which `check` tests the destination; with the acquire. -/
def takeElem (q : Fin 16) (check : State → Ex Unit) (s : State) : Ex (Word × State) :=
  match s.queue q with
  | none => raise cQueueerr s
  | some x =>
    if x.kind = 2 then raise cQueueerr s
    else if x.kind = 1 then
      match s.dev.liveBridge x.base with
      | none => raise cQueueerr s
      | some b =>
        if !b.takenBy s.partNo then raise cQueueerr s
        else match b.ring with
          | [] => .error s.blockedAt
          | v :: r => do
            waitFor (!outOfTurn b.acted s.clock (s.bridgeRank true)) s
            check s
            let s1 ← acquirable s s
            .ok (v, (s1.setBridge x.base (b.after s.clock (s.bridgeRank true) r)).acquireAt .pkg)
    else if x.occ = 0 then .error s.blockedAt
    else do
      waitFor (!outOfTurn x.acted s.clock s.slotNo) s
      check s
      let s1 ← acquirable s s
      let t := s1.take q.val x
      .ok (t.1, t.2.acquireAt .core)

/-- `qrecv` and `qrecv.y` (R305, R306): NAMEBUSY leaves the element in place. -/
def qrecvOp (d : Dest) (q : Fin 16) (s : State) : Ex State := do
  waitFor (!s.strand.acquiring s.pathNo) s
  let t ← takeElem q (fun s => checkDest d false s s) s
  .ok (writeDest d false s.path.lanes (fun _ => t.1) t.2).done

def execQrecv (_yield : Bool) (d : Dest) (q : Fin 16) (s : State) : Out := (qrecvOp d q s).out

/-! ### Task rings (R298) -/

/-- The ring of a launch's task queue, at its base address, on the device that spawns into it. -/
def ringKey (dev launch : Nat) (base : Word) : Nat := (launch * 65536 + dev) * 2 ^ 64 + base.toNat

def TaskRing.empty : TaskRing := ⟨0, 0, 0, 0, 0, 2, 0, 0, 0, false, []⟩

/-- Is the target of a task queue a core of this device? -/
def Queue.here (x : Queue) : Bool := x.dev = Config.pkgNumber.toNat

/-- The target core of a task queue of this device. -/
def State.targetCore (s : State) (x : Queue) : Core := if x.core = s.coreNo then s.core else s.dev.coreAt x.core

/-- The ring of a task queue: as the scheduler of its target core holds it, or, where that is on another device, as the spawners of this
device share it. -/
def State.taskRing (s : State) (x : Queue) : TaskRing :=
  tgetD (if x.here then (s.targetCore x).rings else s.dev.farRings) (ringKey x.dev s.strand.launch x.ring)
    { TaskRing.empty with
      srcDev := x.dev, srcCore := if x.here then 0 else x.core, launch := s.strand.launch, base := x.ring, cap := x.cap, since := s.clock }

def State.setTaskRing (s : State) (x : Queue) (r : TaskRing) : State :=
  let k := ringKey x.dev s.strand.launch x.ring
  let c := s.targetCore x
  let c := { c with rings := tset c.rings k r }
  if !x.here then { s with dev := { s.dev with farRings := tset s.dev.farRings k r } }
  else if x.core = s.coreNo then { s with core := c } else s.setCore x.core c

/-- The error bit of a queue (R299): that of a task queue stands with its ring. -/
def State.queueErr (s : State) (x : Queue) : Bool := if x.kind = 2 then (s.taskRing x).err else x.err

def State.setQueueErr (s : State) (q : Nat) (x : Queue) (e : Bool) : State :=
  if x.kind = 2 then s.setTaskRing x { s.taskRing x with err := e } else s.setQueue q { x with err := e }

/-- Head and tail of a task queue's ring. -/
def State.taskEnds (s : State) (x : Queue) : Nat × Nat := ((s.taskRing x).head, (s.taskRing x).tail)

/-- Move the head over slots whose tasks have been taken or discarded, which are n at most. -/
def TaskRing.settle : Nat → TaskRing → TaskRing
  | 0, r => r
  | n + 1, r => if r.taken.contains r.head then TaskRing.settle n { r with head := r.head + 1, taken := r.taken.filter (· != r.head) } else r

/-- A spawning core learns the head of the ring, at a core of a device, that a queue of it spawns into. -/
def Queue.learn (dev core : Nat) (r : TaskRing) (x : Queue) : Queue :=
  if x.kind = 2 && x.dev = dev && x.core = core && x.ring = r.base && x.cohort / 2 ^ 64 = r.launch then
    { x with head := r.head, occ := x.tail - r.head }
  else x

/-- Every spawning core of this device learns it. -/
def Device.learn (d : Device) (dev core : Nat) (r : TaskRing) : Device :=
  { d with cores := d.cores.map fun c => (c.1, { c.2 with queues := c.2.queues.map fun q => (q.1, q.2.learn dev core r) }) }

/-- The head of a ring that lies with a core of another device comes back from there, with the error bit it sets (R298, R299). -/
def Device.farHead (d : Device) (key head : Nat) (bad : Bool) : Device :=
  match tget d.farRings key with
  | none => d
  | some r =>
    let r := { r with head := head, err := r.err || bad }
    ({ d with farRings := tset d.farRings key r } : Device).learn r.srcDev r.srcCore r

/-- `qstat` and `qstat.cap` (R308). -/
def qstatOp (cap : Bool) (d : Dest) (q : Fin 16) (s : State) : Ex State :=
  match s.queue q with
  | none => raise cQueueerr s
  | some x =>
    let b := if x.kind = 1 then tget s.dev.bridges x.base else none
    let occ := match b with | some y => y.ring.length | none => x.occ
    let c := match b with | some y => y.cap | none => x.cap
    let v := if cap then c
      else occ % 2 ^ 17 + (if x.reserve then 2 ^ 17 else 0) + (if s.queueErr x then 2 ^ 18 else 0) + 2 ^ 19 * x.kind
    (setScalar d false (BitVec.ofNat 64 v) s s).map State.done

def execQstat (cap : Bool) (d : Dest) (q : Fin 16) (s : State) : Out := (qstatOp cap d q s).out

/-- The address of a slot of a task ring. -/
def slotAddr (ring : Word) (cap i : Nat) : Nat := (ring.toNat + 48 * (i % cap)) % 2 ^ 64

/-- The place of a global word that the path in focus can write. -/
def State.wordPlace (s : State) (a : Nat) : Option Nat :=
  match translateAligned s.dev s.asid s.partNo (a % 2 ^ 64) 8 ⟨false, true, false⟩ [0, 1, 2] false with
  | .ok x => if s.dev.lost x.pa || s.dev.guarded x.pa 8 then none else some x.pa
  | .error _ => none

/-- The places of the six words of a slot of a task ring; none where one of them cannot be written, which drops the task (R307). -/
def State.slotPlaces (s : State) (ring : Word) (cap i : Nat) : Option (List Nat) :=
  (List.range 6).mapM fun k => s.wordPlace (slotAddr ring cap i + 8 * k)

/-- The n slots from the tail on. -/
def State.slotsFrom (s : State) (x : Queue) (tail n : Nat) : List (Option (List Nat)) :=
  (List.range n).map fun i => s.slotPlaces x.ring x.cap (tail + i)

/-- Does a paused stack hold back a word of the n slots from the tail on (R237)? -/
def State.slotsPaused (s : State) (x : Queue) (tail n : Nat) : Bool :=
  (s.slotsFrom x tail n).any fun e => (e.getD []).any s.dev.paused

/-- Write global words of the issuing core, eight bytes each, at their homes. -/
def State.putWords (s : State) (ws : List (Nat × Word)) : State :=
  ws.foldl (fun s e =>
    let acc := { laneAcc .n64 .add 0 0 e.2 0 with pa := e.1 }
    let s1 := s.writePlace s.coreNo s.partNo e.1 (leBytes 8 e.2.toNat)
    { s1 with core := { s1.core with l1 := writeL1 s1.core.l1 [acc] } }) s

/-- What a slot holds (R298): the entry, zero, and the record of 32 bytes in the A-buffer. -/
def taskWords (a : Memory) (entry : Word) (rec_ : Nat) : List Word :=
  entry :: 0 :: (List.range 4).map fun i => BitVec.ofNat 64 (a.nat (rec_ + 8 * i) 8)

/-- The words of tasks with their places, in lane order. -/
def taskPuts (slots : List (Option (List Nat))) (tasks : List (List Word)) : List (Nat × Word) :=
  (slots.zip tasks).flatMap fun e => (e.1.getD []).zip e.2

/-- The tail of a task queue advances at its target past its new slots (R298, R307); those whose tasks were dropped set the error bit, and
hold up no task behind them. -/
def State.setTail (s : State) (q : Nat) (x : Queue) (slots : List (Option (List Nat))) : State :=
  let r := s.taskRing x
  let tail := r.tail + slots.length
  let dropped := ((List.range slots.length).zip slots).filterMap fun e => if e.2.isNone then some (r.tail + e.1) else none
  let r1 := TaskRing.settle (r.taken.length + dropped.length) { r with
    tail := tail, since := if r.head = r.tail then s.clock else r.since, err := r.err || !dropped.isEmpty
    taken := if x.here then r.taken ++ dropped else [] }
  let s := (s.setQueue q { x with head := r1.head, tail := tail, occ := tail - r1.head }).setTaskRing x r1
  if x.here then s else { s with dev := { s.dev with fabricTails := s.dev.fabricTails ++ [(x.dev, x.core, tail)] } }

/-- `tspawn` (R307). -/
def tspawnOp (m : Fin 16) (q : Fin 16) (e : Fin 64) (a : Name) (s : State) : Ex State := do
  let en := s.path.mask m
  let r ← readSrcs [(.scl e, .n64), (nameSrc a, .n32)] [] en s
  match s.queue q with
  | none => raise cQueueerr s
  | some x =>
    if x.kind ≠ 2 then raise cQueueerr s
    else
      let at_ := fun (i l : Nat) => (r.1.map (·.at l)).getD i 0
      let rec_ := fun (l : Nat) => natAt .n32 (at_ 1 l)
      let bad := r.2.1 ++ (lanesOf s.strand.width (without en r.2.1)).filterMap fun l =>
        if rec_ l % 32 ≠ 0 then some ⟨l, cAlign, BitVec.ofNat 64 (rec_ l)⟩
        else if s.cohort.asize < rec_ l + 32 then some ⟨l, cProt, BitVec.ofNat 64 (rec_ l)⟩ else none
      let lanes := lanesOf s.strand.width (without en bad)
      if s.queueErr x then (if s.path.windowOpen then .error s else raise cQueueerr (s.setQueueErr q.val x false))
      else if x.cap < lanes.length then raise cQueueerr s
      else
        let (head, tail) := s.taskEnds x
        if x.cap - (tail - head) < lanes.length then .error s.blockedAt
        else if s.slotsPaused x tail lanes.length then .error s
        else
          let s1 ← releaseAt (if x.here then .pkg else .pod) s r.2.2
          let slots := s.slotsFrom x tail lanes.length
          let s2 := (s1.putWords (taskPuts slots (lanes.map fun l => taskWords s.cohort.a (at_ 0 l) (rec_ l)))).setTail q.val x slots
          let s3 ← splitLanes s s2 s.path.pc 0 bad [] []
          .ok s3.done

def execTspawn (m : Fin 16) (q : Fin 16) (e : Fin 64) (a : Name) (s : State) : Out := (tspawnOp m q e a s).out

/-! ### Switching roles (R177, R297) -/

/-- Is the path the strand's only one, with no open divergence and no fragment parked (R177)? -/
def State.sole (s : State) : Bool := s.strand.paths.length ≤ 1 && s.strand.splits.isEmpty

/-- A live-in scalar: the 32-bit word of the kernel arguments at an offset; where it cannot be read, a value the manual does not
state. -/
def State.liveIn (s : State) (off : Nat) : Word × State :=
  let a := (s.launch.args.toNat + 4 * off) % 2 ^ 64
  match translateAligned s.dev s.asid s.partNo a 4 ⟨true, false, false⟩ [0, 1, 2] false with
  | .ok x => (BitVec.ofNat 64 (s.dev.mem.nat x.pa 4), s)
  | .error _ => (Config.freeWord s.draws, { s with draws := s.draws + 1 })

/-- The live-ins of a role, into scalar names from `n` upward. -/
def State.liveIns (s : State) : List Nat → Nat → State
  | [], _ => s
  | off :: r, n =>
    let v := s.liveIn off
    let rc := { newRec v.2 false Config.liveCount [low32 v.1] s.path.pc with rid := v.2.uid }
    ({ v.2 with path := v.2.path.settle (.scl (Fin.ofNat 64 n)) rc, uid := v.2.uid + 1 }).liveIns r (n + 1)

/-- Step 2 of a role switch: records, masks and walkers are cleared. -/
def Path.cleared (p : Path) : Path := { p with v := [], sc := [], masks := [], walkers := [] }

/-- Steps 2, 4 and 5 of a role switch: records, masks and walkers are cleared, live-ins loaded, and the path enters the role. `got` is the
element of a named queue. The switch ends the issuing run where its strand has it, and no other strand's (R151, log entry 136). A role
without an entry raises HDR after that. -/
def State.toRole (s : State) (role : Nat) (got : Option Word) : State :=
  let pc := s.path.pc
  let p := { s.path.cleared with status := .ready, blocked := none }
  let p := match got with
    | some v => p.put (.scl 0) (newRec s false 1 [v] pc)
    | none => p
  let s := { s with path := p, strand := { s.strand with role := some role }, uid := s.uid + 1,
                     core := { s.core with run := if s.core.lastSlot = s.slotNo then 8 else s.core.run } }
  let s := s.liveIns ((s.launch.kernel.roles[role]?.map (·.argw)).getD []) (if got.isSome then 1 else 0)
  match s.launch.kernel.roles[role]?.bind (·.entry) with
  | none => { s with path := s.path.trapped (pathTrap cHdr pc s.path.blk) }
  | some a => (s.trace 1 0x32 0 pc [] (leBytes 8 a.toNat)).goTo a false pc .nothing

/-- Step 3 of a `rolesw` that names a queue, its records freed: the element is taken once there is one, with the acquire. -/
def State.roleTake (s : State) : State :=
  match s.path.status with
  | .roleWait n q =>
    match tget s.core.queues q with
    | none => s
    | some x =>
      if x.kind = 1 then
        match s.dev.liveBridge x.base with
        | none => s
        | some b => match b.ring with
          | [] => s
          | v :: r =>
            let s1 := s.bindAll
            if !s1.allBound || outOfTurn b.acted s.clock (s.bridgeRank true) then s
            else ((s1.setBridge x.base (b.after s.clock (s.bridgeRank true) r)).acquireAt .pkg).toRole n (some v)
      else
        let s1 := s.bindAll
        if x.occ = 0 || !s1.allBound || outOfTurn x.acted s.clock s.slotNo then s
        else
          let t := s1.take q x
          (t.2.acquireAt .core).toRole n (some t.1)
  | _ => s

/-- Does the path's partition hold the live bridge of a queue as receiver? -/
def State.receives (s : State) (x : Queue) : Bool :=
  match s.dev.liveBridge x.base with
  | some b => b.takenBy s.partNo
  | none => false

/-- `rolesw` (R177). The records are freed before it waits for an element: where a waiting path raises QUEUEERR for its bridge, they are
gone (R374, log entry 89). -/
def roleswOp (role : SC) (q : Option (Fin 16)) (s : State) : Ex State := do
  waitFor (s.strand.idle && !s.path.windowOpen) s
  let r ← readSrcs [(scSrc role, .n32)] [] s.path.lanes s
  let s1 ← splitLanes s r.2.2 s.path.pc 0 r.2.1 [] []
  let n := natAt .n32 ((r.1.map (·.at 0)).getD 0 0)
  if !s.sole || 3 < n then raise cIllop s
  else
    match q with
    | none => .ok (s1.issued.toRole n none)
    | some q =>
      match s.queue q with
      | none => raise cQueueerr s
      | some x =>
        if x.kind = 2 || (x.kind = 1 && !s.receives x) then raise cQueueerr s
        else
          let s2 := s1.issued
          .ok { s2 with path := { s2.path.cleared with status := .roleWait n q.val } }.roleTake

/-- The queue at which a path waits, blocked, by its next instruction, or in a `rolesw`. -/
def Path.queueAt (p : Path) : Option Nat :=
  match p.status with
  | .roleWait _ q => some q
  | .ready =>
    if p.blocked.isNone then none
    else match p.blk.wordAt p.pc with
      | none => none
      | some w => match decode w (p.blk.wordAt (p.pc + 8)) with
        | .ok (.qsend _ q _) | .ok (.qrecv _ _ q) => some q.val
        | _ => none
  | _ => none

/-- A path that waits on a bridge raises QUEUEERR, its instruction without effect (R374), once no long-latency instruction before it can
fault any more (R38). -/
def Path.failBridge (queues : Tbl Queue) (b cohort : Nat) (p : Path) : Path :=
  match p.queueAt.bind (tget queues) with
  | some x =>
    if x.kind = 1 && x.base = b && x.cohort = cohort then
      (if p.windowOpen then { p with status := .queueErr } else p.trapped (p.trapHere cQueueerr))
    else p
  | none => p

def Core.failBridge (c : Core) (b : Nat) : Core :=
  { c with strands := c.strands.map fun e =>
      (e.1, { e.2 with paths := e.2.paths.map fun p => (p.1, p.2.failBridge c.queues b e.2.cohort) }) }

/-- A bridge without the bindings of a partition, if it has any. -/
def Bridge.leave (b : Bridge) (pn : Nat) : Option Bridge :=
  let mine := fun (e : Option (Nat × Nat)) => match e with | some (p, _) => p == pn | none => false
  if mine b.sender || mine b.receiver then
    some { b with sender := if mine b.sender then none else b.sender, receiver := if mine b.receiver then none else b.receiver }
  else none

/-- A bridge is zeroed, its ring and its state, and given its ends (R374, R384). -/
def Device.zeroBridge (d : Device) (b : Nat) (x : Bridge) (clock : Nat) : Device :=
  let d := d.setBridge b { x with ring := [], took := (0, 0), acted := (0, 0) } clock
  { d with cores := d.cores.map fun c => (c.1, c.2.failBridge b) }

def execRolesw (role : SC) (q : Option (Fin 16)) (s : State) : Out := (roleswOp role q s).out

end Sys2Proof.Machine
end

