-- ==== Sys2Proof/Machine/Moves.lean ====
section
/-! DEFINITION. Moves and name management, major 0x05; address arithmetic, 0x06; long constants, 0x07 (R80 to R85, R28). -/
namespace Sys2Proof.Machine

def execMov (o : Op1) (s : State) : Out :=
  (regOp o.d o.mask o.ty.wide [(o.a, o.ty)] (fun v => v.getD 0 0) s).out

def execMovi (o : MoviOp) (s : State) : Out :=
  (regOp o.d o.mask o.ty.wide [] (fun _ => o.imm.signExtend 64) s).out

/-- A record with its count changed, kept while it is live (R28, R82). -/
def recount (x : Name) (c : Option Nat) (s : State) : Ex State :=
  match s.path.get x with
  | some r => .ok ({ s with path := s.path.settle x { r with count := c } }).done
  | none => raise cExname s

/-- `drop` (R28, R82): cancels n reads, or frees the record whatever its count; a name without a record, or with fewer reads,
raises EXNAME. So does one whose record a drop has cancelled already and only a pending load still keeps: whether the name has a record
there is not stated (log entry 134). -/
def dropName (x : Name) (cnt : BitVec 4) (s : State) : Ex State :=
  match (s.path.get x).map (·.count) with
  | none | some (some 0) => raise cExname s
  | some none => recount x (if cnt = 15 then some 0 else none) s
  | some (some k) =>
    if cnt = 15 then recount x (some 0) s
    else if cnt.toNat ≤ k then recount x (some (k - cnt.toNat)) s
    else raise cExname s

def execDrop (x : Name) (cnt : BitVec 4) (s : State) : Out := (dropName x cnt s).out

/-- `hold` (R82): makes the record held, or a held record counted; one that a drop has cancelled and only a pending load still keeps raises
EXNAME (log entry 134). -/
def holdName (x : Name) (cnt : BitVec 4) (s : State) : Ex State :=
  match (s.path.get x).map (·.count) with
  | none | some (some 0) => raise cExname s
  | some none => recount x (if cnt = 15 then none else some cnt.toNat) s
  | some (some _) => if cnt = 15 then recount x none s else raise cExname s

def execHold (x : Name) (cnt : BitVec 4) (s : State) : Out := (holdName x cnt s).out

/-- `mmov` (R81): the bits of a mask operand, or where a counted source is not zero. -/
def execMmov (mask md : Fin 16) (a : MSrc) (s : State) : Out :=
  match a with
  | .mask m => (maskOp md mask [(.special 0, .n32)] (fun v => (s.path.mask m).getLsbD (v.getD 0 0).toNat) s).out
  | .value t a => (maskOp md mask [(a, t)] (fun v => natAt t (v.getD 0 0) != 0) s).out

def execMsel (o : MselOp) (s : State) : Out :=
  (regOpL o.d o.mask o.ty.wide [(o.a, o.ty), (o.b, o.ty)]
    (fun l v => if (s.path.mask o.mc).getLsbD l then v.getD 0 0 else v.getD 1 0) s).out

/-- The address of `lea` and `leax` (R84). -/
def leaVal (t : Ty) (signed : Bool) (a b c : Word) : Word :=
  let e (x : Word) : Word := if signed then (x.setWidth 32).signExtend 64 else low32 x
  a + e b * BitVec.ofNat 64 t.size + e c

def leaOp (signed : Bool) (o : Op3) (s : State) : Ex State :=
  regOp o.d o.mask true [(o.a, .n64), (o.b, .i32), (o.c, .i32)]
    (fun v => leaVal o.ty signed (v.getD 0 0) (v.getD 1 0) (v.getD 2 0)) s

def execLea (o : Op3) (s : State) : Out := (leaOp true o s).out
def execLeax (o : Op3) (s : State) : Out := (leaOp false o s).out

def execMovl (o : MovlOp) (s : State) : Out :=
  (regOp o.d o.mask o.ty.wide [] (fun _ => o.imm) s).out

end Sys2Proof.Machine
end

