-- ==== Sys2Proof/Machine/Window.lean ====
section
/-! DEFINITION. Which names an instruction reads and writes, and the rules of the lookahead window (R35 to R37). -/
namespace Sys2Proof.Machine

def dName (d : Dest) : List Name := (destName d).toList.map (·.1)
def scN (x : SC) : List Name := (scName x).toList
def afN (x : AField) : List Name := (afName x).toList
def optSc (x : Option SC) : List Name := match x with | some a => scN a | none => []
def optAf (x : Option AField) : List Name := match x with | some a => afN a | none => []
def optScl (x : Option (Fin 64)) : List Name := match x with | some a => [.scl a] | none => []

/-- What an instruction reads, in operand order, and the names it writes. -/
structure Uses where
  srcs : List Src
  names : List Name
  writes : List Name
  deriving DecidableEq, Repr

def Uses.empty : Uses := ⟨[], [], []⟩
def usesOf (d : Dest) (srcs : List Src) (names : List Name) : Uses := ⟨srcs, names, dName d⟩

/-- The names of an instruction; the events read and write none. `drop` and `hold` take no counted read and make no record (R82), and
whether a window counts them as reading or writing their name is not stated: here they write it, so that none in a window undoes what
the long-latency instruction read or wrote (log entry 90). -/
def usesInstr : Instr → Uses
  | .add o | .sub o | .mul o | .mulhi o | .imin o | .imax o | .iand o | .ior o | .ixor o | .iandn o | .shl o | .shr o | .sar o
  | .rotl o | .bfx o | .divq o | .remq o | .addsat o | .subsat o | .fadd o | .fsub o | .fmul o | .fmin o | .fmax o
  | .fcopysign o => usesOf o.d [o.a, o.b] []
  | .mad o | .bfi o | .sel o | .lea o | .leax o | .fma o | .fclamp o | .fmax3 o | .fmin3 o | .dot2 o | .dot4 o | .dot8 o =>
    usesOf o.d [o.a, o.b, o.c] []
  | .iabs o | .ineg o | .inot o | .popc o | .clz o | .ctz o | .brev o | .mov o | .fabs o | .fneg o => usesOf o.d [o.a] []
  | .addi o | .muli o | .andi o | .ori o | .xori o | .shli o | .shri o | .sari o | .mini o | .maxi o => usesOf o.d [o.a] []
  | .cmpEq o | .cmpNe o | .cmpLt o | .cmpLe o | .cmpGt o | .cmpGe o => usesOf .sink [o.a, o.b] []
  | .cmpiEq o | .cmpiNe o | .cmpiLt o | .cmpiLe o | .cmpiGt o | .cmpiGe o => usesOf .sink [o.a] []
  | .movi o => usesOf o.d [] []
  | .drop x _ | .hold x _ => ⟨[], [], [x]⟩
  | .mmov _ _ (.mask _) => Uses.empty
  | .mmov _ _ (.value _ a) => usesOf .sink [a] []
  | .msel o => usesOf o.d [o.a, o.b] []
  | .movl o => usesOf o.d [] []
  | .brnz x _ | .brz x _ | .ret x => ⟨[], [.scl x], []⟩
  | .call d _ => usesOf d [] []
  | .callx d t => usesOf d [] [.scl t]
  | .wset o => ⟨[], scN o.base, []⟩
  | .wrd d _ _ => usesOf d [] []
  | .fdiv o => usesOf o.d [o.a, o.b] []
  | .frcp o | .frsq o | .fsqrt o | .fexp2 o | .flog2 o | .fsin o | .fcos o | .ftanh o => usesOf o.d [o.a] []
  | .cvt o => usesOf o.d [o.a] []
  | .cvtsc o | .cvtpk o => usesOf o.d [o.a, o.b] []
  | .fcmp o => usesOf .sink [o.a, o.b] []
  | .fclass o => usesOf o.d [o.a] []
  | .fisnan o => usesOf .sink [o.a] []
  | .sxAdd o | .sxMul o | .sxFma o | .sxMax o | .sxMin o => ⟨[], afN o.d ++ afN o.a ++ afN o.b, []⟩
  | .sxCvt o => ⟨[], afN o.d ++ afN o.a, []⟩
  | .sxExp2 o => ⟨[], afN o.d ++ afN o.a, []⟩
  | .sxSum o => ⟨[], afN o.d ++ afN o.a, []⟩
  | .shflIdx o | .shflUp o | .shflDn o | .shflXor o | .bcast o => usesOf o.d [.vec o.a, o.b] []
  | .matchLanes o => usesOf o.d [.vec o.a] []
  | .ballot d _ b => usesOf d [] (optSc b)
  | .any d _ | .all d _ | .mpop d _ | .mfirst d _ | .mlast d _ => usesOf d [] []
  | .scan o => usesOf o.d [.vec o.a] []
  | .reduce o => usesOf o.d [.vec o.a] []
  | .mrank o => usesOf o.d [.vec o.a] []
  | .cattach _ t | .cdetach _ t => ⟨[], scN t, []⟩
  | .cgrow d n => usesOf d [] (scN n)
  | .rolesw r _ => ⟨[], scN r, []⟩
  | .cwidth n => ⟨[], scN n, []⟩
  | .cprio n => ⟨[], scN n, []⟩
  | .qsend _ _ a => ⟨[], scN a, []⟩
  | .qrecv _ d _ => usesOf d [] []
  | .tspawn _ _ e a => ⟨[], [.scl e, a], []⟩
  | .qstat _ d _ => usesOf d [] []
  | .ldG o | .ldR o | .ldH o | .ldC o | .ldA o | .ldxA o | .ldW o | .crpop o | .crpeek o => usesOf o.d [o.base, o.index] []
  | .stG o | .stR o | .stH o | .stA o | .stxA o | .redAdd o | .redMin o | .redMax o => ⟨[nameSrc o.data, o.base, o.index], [], []⟩
  | .atomAdd o | .atomMin o | .atomMax o | .atomAnd o | .atomOr o | .atomXor o | .atomExch o | .atomInc o =>
    usesOf o.d [o.base, o.b] []
  | .atomCas o => usesOf o.d [o.base, o.b, swapSrc o.b] []
  | .pfG o => usesOf .sink [o.base, o.index] []
  | .pfCode _ b => usesOf .sink [b] []
  | .wait _ t => ⟨[], scN t, []⟩
  | .bar o | .bararr o => ⟨[], optSc o.n, []⟩
  | .barv o => usesOf o.d [] (optSc o.n)
  | .abinit a n b => ⟨[], scN a ++ scN n ++ scN b, []⟩
  | .abarrive (.arrive a c) => ⟨[], scN a ++ optSc c, []⟩
  | .abarrive (.expect a b) => ⟨[], scN a ++ scN b, []⟩
  | .abexpect a b | .abwait a b => ⟨[], scN a ++ scN b, []⟩
  | .cpy o | .cpyMc o | .cpyst o | .cpyfill o => usesOf o.d [] (optAf o.addr ++ optAf o.abar ++ optScl o.co ++ optScl o.ch ++ optAf o.side)
  | .mma o =>
    ⟨[], afN o.aaddr ++ afN o.baddr ++ optAf o.idx ++
      (match o.scales with | some (a, b) => [.vec a, .vec b] | none => []) ++
      (match o.specials with | some (a, b) => [.vec a, .vec b] | none => []), []⟩
  | .epicfg o => ⟨[], afN o.scale ++ afN o.bias ++ afN o.dest ++ optAf o.side, []⟩
  | .coll o => ⟨[], [.scl o.dst, .scl o.src] ++ scN o.count ++ scN o.group, []⟩
  | .collwait _ _ _ g => ⟨[], scN g, []⟩
  | .rdsr _ d _ | .feat d _ | .tstamp d => usesOf d [] []
  | .wrsr _ a | .sleep a => ⟨[], scN a, []⟩
  | _ => Uses.empty

/-- All counted names an instruction reads (R23). -/
def Uses.reads (u : Uses) : List Name := u.srcs.filterMap srcName ++ u.names

/-- The walkers it reads (R44). -/
def Uses.walkers (u : Uses) : List (Fin 8) := u.srcs.filterMap fun x => match x with | .walker w => some w | _ => none


/-- What the window rules say of the next instruction of a path: it may issue, it stalls, or it raises ILLOP once the window's
instruction has completed (R36, R37). -/
inductive Gate where
  | go | hold | illop
  deriving DecidableEq, Repr

def overlapsNames (xs ys : List Name) : Bool := xs.any ys.contains

/-- Does an instruction with these names and major break a rule of R37? -/
def breaksWindow (b : Block) (w : Window) (m : Nat) (u : Uses) : Bool :=
  (b.wordAt w.pc).isNone || longMajor m || m = 0x08 || m = 0x09 || m = 0x3C || overlapsNames u.reads w.reads ||
    overlapsNames u.writes w.reads || overlapsNames u.writes w.writes

/-- A name that the long-latency instruction writes and a window instruction reads waits for the data under the scoreboard. -/
def gateOf (p : Path) (m : Nat) (u : Uses) : Gate :=
  match p.window with
  | none => .go
  | some w =>
    if w.idx < w.la then (if breaksWindow p.blk w m u then (if w.complete then .illop else .hold) else .go)
    else if w.complete then .go else .hold

end Sys2Proof.Machine
end

