-- ==== Sys2Proof/Machine/System.lean ====
section
/-! DEFINITION. System instructions, major 0x3C (R94 to R101). -/
namespace Sys2Proof.Machine

def execTrap (n : BitVec 6) (s : State) : Out := (raiseWith (α := State) cTrapi n.toNat 0 s).out

/-- Is a breakpoint of the partition enabled (R411)? -/
def Partition.armed (p : Partition) : Bool := p.bps.any fun b => b.2.getLsbD 0

/-- `break` (R95, R412): with a breakpoint armed the partition stops, and the path goes on after `break` when it resumes. -/
def breakOp (n : BitVec 6) (s : State) : Ex State :=
  if s.part.armed then
    .ok ({ s with dev := s.dev.meetStop s.partNo 3 (n.toNat % 8) s.coreNo s.slotNo (pathByte s.path) }).done
  else raiseWith cBreak n.toNat 0 s

def execBrk (n : BitVec 6) (s : State) : Out := (breakOp n s).out

/-- The header of the block in which a trap return goes on: after a `trap` or `break` that ends its block, the next (R96, R404). -/
def Trap.target (t : Trap) : Word :=
  if t.blk.covers t.fpc then
    if (t.cause = cTrapi || t.cause = cBreak) && t.fpc + 8 = t.blk.stop then t.blk.stop else t.blk.base
  else t.fpc

/-- The packet of a transfer by trap return (R404). -/
def State.traceReturn (s : State) (t : Trap) : State :=
  s.trace 1 0x32 0 s.path.pc [] (leBytes 8 t.target.toNat)

/-- Take the reads that a faulting instruction would have made, as far as records are there (R96). -/
def Path.spend (p : Path) (u : Uses) : Path :=
  let p := p.takeReads u.reads
  u.walkers.foldl (fun p w => match tget p.walkers w.val with
    | some x => { p with walkers := tset p.walkers w.val x.step }
    | none => p) p

/-- The path in focus, as `p`, goes on after the instruction at its pc by a trap return from `origin`: in the block of the trap, or, when that
ends there, at the header after it, where a word that is no header raises HDR at the return (R33, R96). -/
def State.resume (s : State) (p : Path) (origin : Word) (u : Undo) : State :=
  let q := Path.skipDone 16 { p with pc := p.nextPc }
  if q.pc = q.blk.stop then ({ s with path := { q with blk := s.path.blk } }).goTo q.blk.stop false origin u
  else { s with path := q }

/-- Take the faulting instruction as executed and go on with its window (R96). -/
def State.skipFault (s : State) (t : Trap) : State :=
  match t.blk.wordAt t.fpc with
  | none => s.returnTo t s.path.pc
  | some w =>
    let u := match decode w (t.blk.wordAt (t.fpc + 8)) with | .ok i => usesInstr i | .error _ => Uses.empty
    let win : Window := {
      pc := t.fpc, la := t.win, idx := 0, done := t.doneMask, complete := true, reads := u.reads, writes := u.writes, undo := []
      walkers := [], flight := 0 }
    let p := { s.path.spend u with
      handler := none, pc := t.fpc, blk := t.blk, status := .ready, window := if t.win = 0 then t.rest else some win }
    let ws := s.path.walkers.filter fun e => u.walkers.any fun x => x.val = e.1
    s.resume (if t.win = 0 then p.windowStep else p) s.path.pc
      ⟨(u.reads.map fun n => (n, s.path.get n)), ws, s.path.handler⟩

/-- `tret` and `tret.skip` (R96): after `trap` and `break` the path goes on with the next instruction. -/
def tretOp (skip : Bool) (s : State) : Ex State :=
  match s.path.handler with
  | none => raise cIllop s
  | some t =>
    if s.path.windowOpen then .error s
    else
      let s1 := s.issued.traceReturn t
      if t.cause = cTrapi || t.cause = cBreak then
        .ok (s1.resume { s1.path with handler := none, pc := t.fpc, blk := t.blk, status := .ready } s.path.pc ⟨[], [], s.path.handler⟩)
      else .ok (if skip then s1.skipFault t else s1.returnTo t s.path.pc)

def execTret (skip : Bool) (s : State) : Out := (tretOp skip s).out

/-- The system registers (R97). -/
def State.sysReg (s : State) (r : SysReg) : Nat :=
  match r with
  | .fdone => match s.path.handler with | some t => t.doneMask.toNat | none => 0
  | .pkg => Config.pkgNumber.toNat
  | .tcode => match s.path.handler with | some t => t.tcode | none => 0
  | .prio => s.cohort.prio
  | .armature => s.launch.kernel.armature

def execRdsr (m : Fin 16) (d : Dest) (r : SysReg) (s : State) : Out :=
  (regOp d m false [] (fun _ => BitVec.ofNat 64 (s.sysReg r)) s).out

/-- `wrsr %fdone` (R97); no other register can be written. Bits beyond the declared window are ignored. Outside a handler it raises PRIV
before it looks at its source, whose want would raise EXNAME: which of the two wins is not stated (log entry 91). -/
def wrsrOp (r : SysReg) (a : SC) (s : State) : Ex State :=
  match r, s.path.handler with
  | .fdone, some t =>
    scalarOp [(scSrc a, .n32)] (fun v s1 =>
      let x := { t with fdone := (v.getD 0 0).setWidth 32 }
      let t := { t with fdone := x.doneMask }
      .ok ({ s1 with path := { s1.path with handler := some t } }).done) s
  | .fdone, none => raise cPriv s
  | _, _ => raise cIllop s

def execWrsr (r : SysReg) (a : SC) (s : State) : Out := (wrsrOp r a s).out

def countBits (n w : Nat) : Nat := ((List.range w).filter n.testBit).length

/-- Feature words (R98). -/
def State.feature (s : State) (n : Nat) : Nat :=
  let p := s.part
  match n with
  | 0 => 12
  | 1 => 0x00001F00
  | 2 => 48
  | 3 => 96
  | 4 => 64
  | 5 => 4096
  | 6 => 2048
  | 7 => 131072
  | 8 => 65536
  | 9 => 262144
  | 10 => 65536
  | 11 => 2
  | 12 => 256
  | 13 => 57
  | 14 => 0x40211000
  | 15 => 8
  | 32 => 800
  | 33 => 4 * countBits p.quads.toNat 128
  | 34 => countBits p.quads.toNat 128
  | 35 => (List.range 4).foldl (fun x d =>
      x + if (s.dev.dieAt d).fenced || p.quads.toNat / 2 ^ (32 * d) % 2 ^ 32 = 0 then 0 else 2 ^ d) 0
  | 36 => p.pairs.toNat
  | 37 => Config.pkgNumber.toNat
  | _ => 0

def execFeat (d : Dest) (n : BitVec 6) (s : State) : Out :=
  (regOp d 0 false [] (fun _ => BitVec.ofNat 64 (s.feature n.toNat)) s).out

def execNop (s : State) : Out := .next s.done

/-- `sleep` (R99): the path is unready for the min(a, 65,535) clocks after that of its issue. -/
def sleepOp (a : SC) (s : State) : Ex State :=
  scalarOp [(scSrc a, .n32)] (fun v s1 =>
    let n := min (natAt .n32 (v.getD 0 0)) 65535
    if n = 0 then .ok s1.done
    else
      let s2 := s1.issued
      .ok { s2 with path := { s2.path with status := .sleep (s2.clock + 1 + n) } }) s

def execSleep (a : SC) (s : State) : Out := (sleepOp a s).out

/-- SLEEP_EXPIRY (R99). -/
def execSleepExpiry (p : PRef) (s : State) : Out :=
  match s.load p.core p.slot p.path with
  | some t =>
    match t.path.status with
    | .sleep till => if till ≤ t.clock then .next ({ t with path := { t.path with status := .ready } }).advance else .next t
    | _ => .next t
  | none => .next s

/-- `prog` (R100, R410): the counters stand still between the end of a trial and the next write of CTGO or EN. -/
def execProg (n : Fin 16) (s : State) : Out :=
  let c := s.core
  let c := if c.progStop then c else { c with prog := tset c.prog n.val ((tgetD c.prog n.val 0 + 1) % 2 ^ 64) }
  .next ({ s with core := c }).done

/-- `tstamp` (R101). -/
def tstampOp (d : Dest) (s : State) : Ex State := do
  waitFor (!s.path.windowOpen) s
  let v := BitVec.ofNat 64 s.now
  let s1 ← setScalar d true v s s
  .ok (s1.trace 2 0x40 0 s.path.pc [] (leBytes 8 v.toNat)).done

def execTstamp (d : Dest) (s : State) : Out := (tstampOp d s).out

end Sys2Proof.Machine
end

