-- ==== Sys2Proof/Machine/Paths.lean ====
section
/-! DEFINITION. Paths: merges at joins, rejoins and barriers (R137 to R139, R335, R336), releases from barriers (R263), entry to
handlers (R339 to R341), path slots (R337), page responses (R338), instruction fetch (R344), and spilling (R148, R149). -/
namespace Sys2Proof.Machine

/-! ### Merging -/

def lowestLane (m : LaneSet) : Nat := (lanesOf 1024 m).headD 1024

/-- The lesser of two counts; a held record's is the greatest (R139). -/
def lesserCount : Option Nat → Option Nat → Option Nat
  | none, x | x, none => x
  | some a, some b => some (min a b)

/-- Insert a path by its lowest lane. -/
def insertPath (p : Nat × Path) : List (Nat × Path) → List (Nat × Path)
  | [] => [p]
  | q :: r => if lowestLane p.2.lanes ≤ lowestLane q.2.lanes then p :: q :: r else q :: insertPath p r

/-- One name of merging paths, in order of their lowest lanes: the record it has in the merged path, and whether its counts differ or
only some paths hold it. `rejoin` makes a name that only some hold lane-divided (R336). Records of different widths merge into one of
the width of the first, and every lane keeps its 64 bits: what becomes of them is not stated (log entry 92). -/
def mergeName (vec rejoin : Bool) (w uid : Nat) (ps : List (Path × Option Rec)) : Option Rec × Bool × Bool :=
  let held := ps.filterMap fun e => e.2.map fun r => (e.1, r)
  match held with
  | [] => (none, false, false)
  | (p0, r0) :: rest =>
    let differ := rest.any fun e => e.2.count != r0.count
    let some_ := held.length != ps.length
    let missing := ps.foldl (fun m e => if e.2.isNone then m ||| e.1.lanes else m) 0
    let absent := held.foldl (fun m e => m ||| (e.2.absent &&& e.1.lanes)) (if rejoin then missing else 0)
    let same := rest.all fun e => e.2.rid == r0.rid
    let owner := fun (l : Nat) => held.find? fun e => e.1.lanes.getLsbD l
    let vals := if vec then (List.range w).map fun l => match owner l with | some e => e.2.vals.getD l 0 | none => 0 else r0.vals
    let pend := if vec then held.foldl (fun acc e => e.2.pend.foldl (fun acc x =>
        let m := x.2 &&& e.1.lanes
        if m = 0 then acc
        else if acc.any (·.1 == x.1) then acc.map fun y => if y.1 = x.1 then (y.1, y.2 ||| m) else y else acc ++ [(x.1, m)]) acc)
        ([] : List (Nat × LaneSet)) else r0.pend
    let failed := held.flatMap fun e => e.2.failed.filter fun f => e.1.lanes.getLsbD f.lane
    let units := held.foldl (fun t e => e.2.units.foldl (fun t u => if e.1.lanes.getLsbD u.1 then tset t u.1 u.2 else t) t) ([] : Tbl Nat)
    let count := rest.foldl (fun c e => lesserCount c e.2.count) r0.count
    let _ := p0
    (some { rid := if same then r0.rid else uid, wide := r0.wide, count := count, vals := vals, pend := pend, absent := absent
            failed := failed, units := units, maker := r0.maker }, differ, some_)

/-- Merge the tables of names. -/
def mergeTables (vec rejoin : Bool) (w uid : Nat) (ps : List (Path × Tbl Rec)) : Tbl Rec × Bool × Bool :=
  (List.range (if vec then 128 else 64)).foldl (fun acc n =>
    match mergeName vec rejoin w (uid + n + (if vec then 0 else 128)) (ps.map fun e => (e.1, tget e.2 n)) with
    | (some r, d, x) => (tset acc.1 n r, acc.2.1 || d, acc.2.2 || x)
    | (none, _, _) => acc) ([], false, false)

/-- Paths merged under R138 or R336: the merged path, which is otherwise the base path, whether counts differ, and whether some
name is live on some of them only. It keeps the lower path slot, and a completed window of which positions are left (R37). Before its
first issue it counts as the path of its strand that issued least recently: R151 does not say how recently (log entry 118). -/
def mergePaths (rejoin : Bool) (w uid : Nat) (base : Path) (ps : List Path) : Path × Bool × Bool :=
  let order := ((ps.map fun p => (0, p)).foldr insertPath []).map (·.2)
  let v := mergeTables true rejoin w uid (order.map fun p => (p, p.v))
  let sc := mergeTables false rejoin w uid (order.map fun p => (p, p.sc))
  let masks := (List.range 16).foldl (fun t m =>
    let x := ps.foldl (fun x p => x ||| (tgetD p.masks m 0 &&& p.lanes)) (0 : LaneSet)
    if x = 0 then t else tset t m x) ([] : Tbl LaneSet)
  let slot := ps.foldl (fun o p => match o, p.slot with | some a, some b => some (min a b) | none, x => x | x, none => x) none
  ({ base with
      lanes := ps.foldl (fun x p => x ||| p.lanes) 0, v := v.1, sc := sc.1, masks := masks
      walkers := (order.headD base).walkers, slot := slot, status := .ready, last := 0
      window := (base :: ps).findSome? (·.window), redo := none
      hold := ps.foldl (fun h p => max h p.hold) 0, codeFrom := ps.foldl (fun n p => max n p.codeFrom) 0
      codeOk := ps.foldl (fun n p => max n p.codeOk) 0
      joinCheck := false, asked := none },
   v.2.1 || sc.2.1, v.2.2 || sc.2.2)

/-- Ids of merged paths are replaced by the id of the merged path wherever they stand (R334, R209). -/
def Strand.absorb (st : Strand) (ids : List Nat) (id : Nat) (p : Path) : Strand :=
  let one := fun (i : Nat) => if ids.contains i then id else i
  let ps := (st.paths.filter fun e => !ids.contains e.1).map fun e => (e.1, { e.2 with parent := e.2.parent.map one })
  { st with paths := tset ps id p,
            flights := st.flights.map fun f => (f.1, { f.2 with paths := (f.2.paths.map one).eraseDups }) }

/-- After a merge: the issuing run ends where its strand has it (R151, log entry 136), and the merged path comes into focus. -/
def State.focusMerged (s : State) (c sl id : Nat) (st : Strand) : State :=
  let co := s.dev.coreAt c
  let co := { co with strands := tset co.strands sl st, run := if co.lastSlot = sl then 8 else co.run }
  let s := s.setCore c co
  (s.load c sl id).getD s

/-! ### Joins (R137 to R139) -/

/-- JOIN_COMPLETE: every path of the split waits at its join, their accesses accepted (R137, R210), the last since an earlier clock; the
merged path is ready from the next clock on (R415). The LIVE and SLIVE check is made once the join's header is known. -/
def State.completeJoin (s : State) (c sl split : Nat) : State :=
  match s.strandAt c sl with
  | none => s
  | some st =>
    match tget st.splits split with
    | none => s
    | some e =>
      let ps := st.paths.filter fun p => p.2.arms.any (·.1 == split)
      let ready := ps.all fun p => (match p.2.status with | .join x t => x == split && t < s.clock | _ => false) && !p.2.windowOpen
      match ps with
      | [] => s
      | p0 :: _ =>
        if !ready then s
        else
          let both := ps.any (fun p => p.2.arms.any (· == (split, true))) && ps.any (fun p => p.2.arms.any (· == (split, false)))
          let base := (ps.foldr insertPath []).headD p0
          let m := mergePaths false st.width s.uid base.2 (ps.map (·.2))
          let p := { m.1 with arms := base.2.arms.drop 1, hold := max m.1.hold (s.clock + 1) }
          let st := st.absorb (ps.map (·.1) ++ e.gone) base.1 p
          let st := ({ st with splits := tdel st.splits split }).closeSplits
          let s := ({ s with uid := s.uid + 256 }).focusMerged c sl base.1 st
          let s := s.traceAs none 1 0x34 0 e.join [base.1] []
          if both && (m.2.1 || m.2.2) then
            { s with path := ({ s.path with pc := e.join }).trapped (pathTrap cCntjoin e.join s.path.blk) }
          else ({ s with path := { s.path with joinCheck := both } }).goTo e.join true e.join .nothing

def execJoinComplete (core slot split : Nat) (s : State) : Out := .next (s.flush.completeJoin core slot split)

/-! ### Rejoins (R335, R336) -/

/-- REJOIN: the fragment in focus merges into its parent, which waits at the rejoin point. -/
def State.rejoinParent (s : State) (c sl id : Nat) : State :=
  match s.strandAt c sl with
  | none => s
  | some st =>
    match tget st.paths id with
    | none => s
    | some f =>
      match f.parent, f.rejoin with
      | some pid, some a =>
        match tget st.paths pid with
        | none => s
        | some q =>
          if f.status == .atRejoin && q.status == .rejoinWait && q.pc == a && !f.windowOpen && !q.windowOpen then
            let m := mergePaths true st.width s.uid q [q, f]
            let st := st.absorb [pid, id] pid m.1
            let s := ({ s with uid := s.uid + 256 }).focusMerged c sl pid st
            let s := s.trace 1 0x37 f.frag a [] []
            if m.2.1 then { s with path := ({ s.path with pc := a }).trapped (pathTrap cCntjoin a s.path.blk) }
            else s.goTo a true a .nothing
          else s
      | _, _ => s

def execRejoin (p : PRef) (s : State) : Out := .next (s.flush.rejoinParent p.core p.slot p.path)

/-! ### Releases from barriers (R262, R263, R335) -/

def atBarrier (l : Level) (t ph : Nat) (p : Path) : Bool :=
  match p.status with
  | .barrier l' t' ph' _ => l' == l && t' == t && ph' == ph
  | _ => false

/-- Fragments of a path, and of its fragments, that wait for the next barrier and wait at this one; with the path itself. -/
def barrierGroup (paths : Tbl Path) (l : Level) (t ph : Nat) : Nat → List Nat → List Nat
  | 0, ids => ids
  | n + 1, ids =>
    let more := (paths.filter fun q => q.2.frag != 0 && q.2.rejoin == none && !ids.contains q.1 &&
      (match q.2.parent with | some x => ids.contains x | none => false) && atBarrier l t ph q.2).map (·.1)
    if more.isEmpty then ids else barrierGroup paths l t ph n (ids ++ more)

/-- The path that a fragment waiting at a barrier merges into there: its parent, if that waits with it, and so on upward. -/
def barrierRoot (paths : Tbl Path) (l : Level) (t ph : Nat) : Nat → Nat → Nat
  | 0, id => id
  | n + 1, id =>
    match tget paths id with
    | none => id
    | some q =>
      match q.parent with
      | some x => if q.frag != 0 && q.rejoin == none && (match tget paths x with | some y => atBarrier l t ph y | none => false)
          then barrierRoot paths l t ph n x else id
      | none => id

/-- BARRIER_RELEASE: the path in focus leaves the barrier, with the acquire of a completed phase and the sum of a `barv`; fragments
that wait at the same tag in the same phase leave it merged with their parent. -/
def State.releaseBarrier (s : State) : State :=
  match s.path.status, s.focus with
  | .barrier l t ph _, some (c, sl, me) =>
    let tag := s.tag l t
    match tag.releases.find? fun r => r.core == c && r.slot == sl && r.path == me && r.phase == ph with
    | none => s
    | some r =>
      if s.clock < r.from_ then s
      else
        let root := barrierRoot s.paths l t ph 8 me
        let ids := barrierGroup s.paths l t ph 8 [root]
        if s.paths.any fun p => ids.contains p.1 && p.2.windowOpen then s
        else
        let s := s.setTag l t { tag with releases := tag.releases.filter fun x =>
          !(x.core == c && x.slot == sl && ids.contains x.path && x.phase == ph) }
        let s := s.flush
        match s.strandAt c sl with
        | none => s
        | some st =>
          let ps := st.paths.filter fun p => ids.contains p.1
          let base := tgetD st.paths root .empty
          let m := if ps.length ≤ 1 then (base, false, false) else mergePaths true st.width s.uid base (ps.map (·.2))
          let d := match base.status with | .barrier _ _ _ d => d | _ => none
          let st := st.absorb ids root { m.1 with status := .ready }
          let s := if ps.length ≤ 1 then s.setStrand c sl st else ({ s with uid := s.uid + 256 }).setCore c
            { s.dev.coreAt c with strands := tset (s.dev.coreAt c).strands sl st }
          let s := (s.load c sl root).getD s
          let s := (ps.filter fun p => p.1 != root).foldl (fun s p => s.trace 1 0x37 p.2.frag s.path.pc [] []) s
          let s := if r.acq then s.acquireAt (levelScope l) else s
          let s := match d with
            | some d => writeDest d false s.path.lanes (fun _ => BitVec.ofNat 64 r.votes) s
            | none => s
          let s := { s with path := s.path.windowStep }
          if m.2.1 then { s with path := s.path.trapped (pathTrap cCntjoin s.path.nextPc s.path.blk) } else s.advance
  | _, _ => s

def execBarrierRelease (p : PRef) (s : State) : Out :=
  match s.load p.core p.slot p.path with
  | some t => .next t.releaseBarrier
  | none => .next s

/-! ### Entry to a handler (R339 to R342) -/

/-- The fault record of a launch that a nested fault ends (R342). -/
def State.faultRecord (s : State) (t : Trap) : List Byte :=
  let kind := if s.path.handler.isSome then 1 else 0
  let outer := match s.path.handler with | some h => h.cause | none => 0
  let lane := if t.faddr.isEmpty then lowestLane s.path.lanes else t.lane
  let where_ := t.cause % 256 + 2 ^ 8 * kind + 2 ^ 9 * s.path.frag + 2 ^ 12 * s.slotNo + 2 ^ 18 * (s.coreNo % 128) +
    2 ^ 25 * dieOf s.coreNo
  leBytes 8 t.fpc.toNat ++ leBytes 8 (tgetD t.faddr lane 0).toNat ++ leBytes 4 where_ ++ leBytes 4 outer ++
    leBytes 8 (s.strand.linear + 2 ^ 32 * lane)

/-- Arms from the outermost split inward, arm F before arm T. -/
def armsBefore : List Bool → List Bool → Bool
  | _, [] => false
  | [], _ :: _ => true
  | a :: r, b :: t => if a == b then armsBefore r t else !a

/-- The order in which traps of a strand are entered (R340): fragment index, arm F before arm T. -/
def trapBefore (p q : Path) : Bool :=
  p.frag < q.frag || (p.frag == q.frag && armsBefore (p.arms.reverse.map (·.2)) (q.arms.reverse.map (·.2)))

/-- The trap that is entered next. -/
def nextTrap (ps : Tbl Path) : Option Nat :=
  (ps.foldl (fun o p =>
    if p.2.status == .trapped && p.2.trap.isSome then
      match o with
      | none => some p
      | some q => if trapBefore p.2 q.2 then some p else some q
    else o) (none : Option (Nat × Path))).map (·.1)

/-- TRAP_ENTRY: once the stores of the path are performed, it enters the handler; a fault in handler mode, or in a kernel without
a handler, ends the launch. -/
def State.enterTrap (s : State) : State :=
  match s.path.trap with
  | none => s
  | some t =>
    if s.clock < s.strand.trapFrom || s.strand.flights.any fun f => f.2.paths.contains s.pathNo && f.2.kind.isStore then s
    else
      let s := { s with strand := { s.strand with trapFrom := s.clock + 1 } }
      match s.path.handler, s.launch.kernel.trap with
      | none, some h => s.takeTrap t h
      | _, _ =>
        let la := s.launch
        let la := if la.ending.isNone then { la with ending := some (2, s.faultRecord t) } else la
        { s with dev := { s.dev with launches := tset s.dev.launches s.strand.launch la } }

def execTrapEntry (core slot : Nat) (s : State) : Out :=
  let s := s.flush
  match (s.strandAt core slot).bind fun st => nextTrap st.paths with
  | none => .next s
  | some id => match s.load core slot id with
    | some t => .next t.enterTrap
    | none => .next s

/-! ### Page responses (R338) -/

/-- The trap of a fetch that failed (R344): %fpc is the address fetched, and %faddr holds it on the path's lanes. -/
def Path.fetchTrap (p : Path) (a : Word) : Path :=
  p.trapped { pathTrap cFetch a p.blk with faddr := (lanesOf 1024 p.lanes).map fun l => (l, a), lane := lowestLane p.lanes }

/-- A path that fetches, after an answer to its request: it fetches again, or raises FETCH (R344), once no long-latency instruction
before can fault any more (R38). -/
def Path.codeAnswer (p : Path) (page : Nat) (ok : Bool) : Path :=
  match p.asked with
  | some q =>
    if q.page ≠ page then p
    else if ok then { p with asked := none }
    else if p.windowOpen then { p with asked := some { q with refused := true } }
    else { p with asked := none }.fetchTrap q.addr
  | none => p

/-- A path after an answer to one of its requests. -/
def Path.pageAnswer (p : Path) (page : Nat) (ok : Bool) : Path :=
  match p.status with
  | .pages open_ refused =>
    if !open_.any (·.1 == page) then p
    else
      let o := open_.filter fun x => x.1 != page
      let r := if ok then refused else refused ++ [page]
      if !o.isEmpty then { p with status := .pages o r }
      else if r.isEmpty then { p with status := .ready, trap := none }
      else match p.trap with
        | some t => { p with redo := none }.trapped
            { t with faddr := t.faddr.map fun (e : Nat × Word) => (e.1, if r.contains (e.2.toNat / 4096 * 4096) then e.2 else 0) }
        | none => p
  | .fetch _ _ _ _ | .refetch => p.codeAnswer page ok
  | _ => p

/-- The same on a core: an answer for the path named, and for a copy of the core that waits for the page (R286). -/
def Core.pageAnswer (c : Core) (r : PRef) (page : Nat) (ok : Bool) : Core :=
  { c with
    strands := tmod c.strands r.slot fun st => { st with paths := tmod st.paths r.path fun p => p.pageAnswer page ok }
    chan0 := c.chan0.pageAnswer page ok, chan1 := c.chan1.pageAnswer page ok }

/-- The same for what lies in a save area (R346). -/
def Saved.pageAnswer (x : Saved) (r : PRef) (page : Nat) (ok : Bool) : Saved :=
  { x with cores := x.cores.map fun c => if c.1 = r.core then (c.1, c.2.pageAnswer r page ok) else c }

def execPageResponse (p : PRef) (page : Nat) (ok : Bool) (s : State) : Out :=
  let s := s.flush
  .next { s with dev := { s.dev with
    cores := tmod s.dev.cores p.core fun c => c.pageAnswer p page ok
    saves := s.dev.saves.map fun x => (x.1, x.2.pageAnswer p page ok) } }

/-! ### Instruction fetch (R31, R32, R344) -/

/-- Blocks that the PF field of a block asks for (R30), as far as they lie in the buffer. -/
def prefetches (ibuf : Tbl Block) (asid : Nat) : Nat → Word → List Word
  | 0, _ => []
  | n + 1, a => a :: match tget ibuf (codeKey asid a) with | some b => prefetches ibuf asid n b.stop | none => []

/-- Does the path wait for the block at an address: to enter it, or for a word of it? -/
def Path.waitsFor (p : Path) (a : Word) : Bool :=
  match p.status with
  | .fetch b _ _ _ => b == a
  | .refetch => p.blk.base == a
  | _ => false

/-- Is a fetch of this block wanted by a path: it waits for it, will enter it from the divergence stack, or prefetches it? -/
def Path.wants (p : Path) (ibuf : Tbl Block) (asid : Nat) (a : Word) : Bool :=
  p.waitsFor a || (match p.status with | .stacked b _ _ => b == a | _ => false) ||
    (prefetches ibuf asid (hdrPf p.blk.hdr) p.blk.stop).contains a

/-- The address of the first word of a block that has not been fetched. -/
def Block.stopAt (b : Block) : Word := b.base + BitVec.ofNat 64 (8 * (b.words.length + 1))

/-- A fetch for the path in focus failed: it sends a page request, or raises FETCH at the address (R338, R344). -/
def State.fetchFailed (s : State) (a : Word) (f : TFault) : State :=
  match f.demand with
  | none => if s.path.windowOpen then s else { s with path := s.path.fetchTrap a }
  | some (page, port) =>
    match s.path.asked with
    | some q => if q.refused && !s.path.windowOpen then { s with path := { s.path with asked := none }.fetchTrap q.addr } else s
    | none => { s with path := { s.path with asked := some ⟨page, port, a, false⟩ }, dev := { s.dev with pageReqs := s.dev.pageReqs ++ [(port, page)] } }

/-- Are the words of the instruction at the pc of the path in its block? -/
def Path.hasWord (p : Path) : Bool :=
  match p.blk.wordAt p.pc with
  | none => p.pc == p.blk.stop
  | some w => !isFormatL w || p.pc + 8 == p.blk.stop || (p.blk.wordAt (p.pc + 8)).isSome

/-- The path in focus waits for a block whose fetch has been tried: it goes on where the block or the word has come, and the fetch of
the word that it waits for has failed otherwise (R344). Text loaded since its last `ifence` it cannot fetch (R394, log entry 93). -/
def State.fetched (s : State) (a : Word) (r : Except FetchStop (Block × Option FetchStop)) : State :=
  match s.path.status, r with
  | .fetch b fall origin u, .ok (blk, stop) =>
    if b ≠ a then s
    else if s.dev.newText s.asid s.path a then { s with path := s.path.fetchTrap a }
    else
      let t := ({ s with path := { s.path with status := .ready } }).goTo a fall origin u
      match t.path.status, stop with
      | .fetch _ _ _ _, some (.fail f) => t.fetchFailed blk.stopAt f
      | _, _ => t
  | .fetch b _ _ _, .error (.fail f) => if b ≠ a then s else s.fetchFailed a f
  | .refetch, .ok (blk, stop) =>
    if s.path.blk.base ≠ a then s
    else
      let old := s.path.blk
      if s.dev.newText s.asid s.path old.stopAt then (if s.path.windowOpen then s else { s with path := s.path.fetchTrap s.path.pc }) else
      let p := { s.path with blk := { old with words := old.words ++ (blk.words.take (hdrLen old.hdr)).drop old.words.length } }
      if p.hasWord then { s with path := { p with status := .ready, asked := none } }
      else match stop with
        | some (.fail f) => s.fetchFailed s.path.pc f
        | _ => s
  | .refetch, .error (.fail f) => if s.path.blk.base ≠ a then s else s.fetchFailed s.path.pc f
  | _, _ => s

/-- BLOCK_FETCH: the block enters the instruction buffer of the core, as far as its words can be fetched, and paths that wait for it
go on. -/
def State.fetchInto (s : State) (cn asid : Nat) (a : Word) (e : Ending) : State :=
  let c := s.dev.coreAt cn
  let mine := c.strands.filter fun x => (s.dev.launchAt x.2.launch).asid = asid && !x.2.spilled
  let may := fun (p : Path) => p.wants c.ibuf asid a
  match mine.find? fun x => x.2.paths.any fun p => may p.2 with
  | none => s
  | some (_, st0) =>
    let r := fetchBlock s.dev asid (s.dev.launchAt st0.launch).part a e
    let old := mine.any fun x => x.2.paths.any fun p => may p.2 && !s.dev.newText asid p.2 a
    let s := match r with
      | .ok (b, _) =>
        if old then { s.setCore cn (c.buffer s.draws (codeKey asid a) b) with draws := s.draws + 16 } else s
      | .error _ => s
    mine.foldl (fun s x => x.2.paths.foldl (fun s p =>
      if p.2.waitsFor a then (match s.load cn x.1 p.1 with | some t => (t.fetched a r).flush | none => s) else s) s) s

def execBlockFetch (core asid : Nat) (f : FetchEnd) (s : State) : Out := .next (s.flush.fetchInto core asid f.addr f.ending)

/-- INSERTED_DELAY_EXPIRY (R410): the path may be ready again. -/
def execInsertedDelayExpiry (p : PRef) (s : State) : Out :=
  match s.load p.core p.slot p.path with
  | some t => if t.path.hold ≤ t.clock then .next { t with path := { t.path with hold := 0 } } else .next t
  | none => .next s

/-! ### Spilling (R148, R149) -/

/-- Is no split-phase load pending into a record of the strand? -/
def Strand.noLoads (st : Strand) : Bool := st.paths.all fun p => (p.2.v ++ p.2.sc).all fun r => r.2.pend.isEmpty

/-- Is the path stalled on slabs, or waiting at a barrier, an arrival barrier or a queue? -/
def Path.waitsAtSync (p : Path) : Bool :=
  match p.status with
  | .barrier _ _ _ _ | .abwait _ _ _ _ _ | .roleWait _ _ => true
  | _ => p.starved || p.blocked.isSome

/-- May the strand be spilled: it is not the oldest, a path of it is stalled on slabs or waits, and it is within its armature? -/
def Strand.spillable (st : Strand) (slot : Nat) (old : Option (Nat × Strand)) : Bool :=
  !st.spilled && (match old with | some x => x.1 != slot | none => false) && slabsHeld st ≤ st.armature &&
    st.paths.any (·.2.waitsAtSync)

/-- The youngest strand that may be spilled. -/
def youngest (sts : Tbl Strand) : Option (Nat × Strand) :=
  let old := oldest sts
  sts.foldl (fun o e => if e.2.spillable e.1 old then
    match o with
    | none => some e
    | some x => if x.2.linear < e.2.linear then some e else o else o) none

/-- The places of the words of a strand's frame in the quarry, as far as they can be written (R7, R149). -/
def Device.framePlaces (d : Device) (st : Strand) : List Nat :=
  let la := d.launchAt st.launch
  let n := frameBytes la.kernel.armature / 8
  (List.range n).filterMap fun i =>
    match translateAligned d la.asid la.part (la.qbase.toNat + st.frame * 8 * n + 8 * i) 8 ⟨false, true, false⟩ [0] false with
    | .ok x => if d.guarded x.pa 8 then none else some x.pa
    | .error _ => none

/-- What a spill writes into a frame of the quarry: bytes of a layout that the manual does not give (log entry 37). -/
def State.writeFrame (s : State) (cn : Nat) (st : Strand) : State :=
  let ps := s.dev.framePlaces st
  let s1 := ((List.range ps.length).zip ps).foldl (fun (s1 : State) e =>
    s1.writePlace cn (s.dev.launchAt st.launch).part e.2 (leBytes 8 (Config.freeWord (s.draws + e.1)).toNat)) s
  { s1 with draws := s.draws + ps.length }

/-- Does a paused stack hold back the frame (R237)? -/
def Device.framePaused (d : Device) (st : Strand) : Bool := (d.framePlaces st).any d.paused

/-- SPILL: after 256 clocks without an issue while a strand is stalled on slabs, the youngest strand that may be goes to its frame and gives
back its slabs and path slots, once no load is pending into its records. -/
def State.spillCore (s : State) (cn : Nat) : State :=
  let c := s.dev.coreAt cn
  if s.clock < c.idleFrom + 256 || !c.strands.any (fun e => !e.2.spilled && e.2.paths.any (·.2.starved)) then s
  else match youngest c.strands with
    | none => s
    | some (sl, st) =>
      if !st.noLoads || s.dev.framePaused st then s
      else
        let s := s.writeFrame cn st
        let c := s.dev.coreAt cn
        let st := { st with spilled := true, paths := st.paths.map fun p => (p.1, { p.2 with slot := none }) }
        s.setCore cn ({ c with strands := tset c.strands sl st, idleFrom := s.clock }.count 3 1)

def execSpill (core : Nat) (s : State) : Out := .next (s.flush.spillCore core)

/-- SPILL_RESTORE: the spilled strand of the lowest linear identifier comes back when the free slabs above the plinth cover it. -/
def State.unspillCore (s : State) (cn : Nat) : State :=
  let c := s.dev.coreAt cn
  let low := c.strands.foldl (fun (o : Option (Nat × Strand)) e => if e.2.spilled then
    match o with
    | none => some e
    | some x => if e.2.linear < x.2.linear then some e else o else o) none
  match low with
  | none => s
  | some (sl, st) =>
    let back := { st with spilled := false }
    if slabsHeld back + plinth c.strands ≤ slabsFree c.strands then
      s.setCore cn ({ c with strands := tset c.strands sl back }.count 4 1)
    else s

def execSpillRestore (core : Nat) (s : State) : Out := .next (s.flush.unspillCore core)

/-! ### Role switches (R297) -/

/-- The queue at which a path is blocked by a yieldable operation, and whether it sends. -/
def Path.yieldsAt (p : Path) : Option (Nat × Bool × Option SC) :=
  match p.blk.wordAt p.pc with
  | none => none
  | some w => match decode w (p.blk.wordAt (p.pc + 8)) with
    | .ok (.qsend true q a) => if p.blocked.isSome then some (q.val, true, some a) else none
    | .ok (.qrecv true _ q) => if p.blocked.isSome then some (q.val, false, none) else none
    | _ => none

/-- The role at the other end of a queue. -/
def otherRole (k : Kernel) (q : Nat) (sends : Bool) : Option (Nat × Role) :=
  ((List.range k.roles.length).zip k.roles).find? fun r => if sends then r.2.inq == some q else r.2.outq == some q

def State.longBlocked (s : State) (p : Path) : Bool := match p.blocked with | some t => t + 256 ≤ s.clock | none => false

/-- Has the far queue of the role been at or below its low mark, or at or above its high mark, for 256 clocks? -/
def State.marksHeld (s : State) (r : Role) (sends : Bool) : Bool :=
  match (if sends then r.outq else r.inq) with
  | none => true
  | some q => match tget s.core.queues q with
    | none => false
    | some x => if sends then x.occ ≤ x.low && x.lowSince + 256 ≤ s.clock else x.high ≤ x.occ && x.highSince + 256 ≤ s.clock

/-- Is the strand blocked at the queue in the given direction, able to switch roles, and long enough where no far queue says when (R297)? -/
def State.rival (s : State) (q : Nat) (sends long : Bool) (st : Strand) : Bool :=
  st.paths.length ≤ 1 && st.splits.isEmpty && st.idle && st.paths.any fun p =>
    (!long || s.longBlocked p.2) && (match p.2.yieldsAt with | some (q', d, _) => q' == q && d == sends | none => false)

/-- ROLE_SWITCH of the strand in focus: it is blocked at a queue that is still full or empty, it has the highest linear identifier among
those blocked there, and the role at the other end can use it: its far queue has held its mark for 256 clocks, or it has none and the
strand has been blocked for 256. -/
def State.switchRole (s : State) : State :=
  match s.path.yieldsAt with
  | none => s
  | some (q, sends, a) =>
    match tget s.core.queues q, otherRole s.launch.kernel q sends with
    | some x, some (n, r) =>
      let far := if sends then r.outq else r.inq
      let higher := s.core.strands.any fun e => e.1 != s.slotNo && s.strand.linear < e.2.linear && s.rival q sends far.isNone e.2
      let still := if sends then x.cap ≤ x.occ else x.occ = 0
      if x.kind ≠ 0 || !still || !s.sole || s.path.windowOpen || !s.strand.idle || (far.isNone && !s.longBlocked s.path) || higher ||
          s.clock < x.lastSwitch + 256 || (sends && x.reserve) || !s.marksHeld r sends then s
      else
        let x := { x with lastSwitch := s.clock }
        if sends then
          match readSrcs [(scSrc (a.getD (.const 0)), .n32)] [] s.path.lanes s with
          | .error _ => s
          | .ok (v, _, s1) =>
            match releaseAt .core s s1 with
            | .error _ => s
            | .ok s2 =>
              let y := { x with reserve := true, reserved := low32 ((v.map fun (x : Val) => x.at 0).getD 0 0), occ := x.cap + 1 }
              let y := { y with highSince := if x.occ < x.high then s.clock else x.highSince }
              (s2.setQueue q y).toRole n none
        else (s.setQueue q x).toRole n none
    | _, _ => s

def execRoleSwitch (p : PRef) (s : State) : Out :=
  match s.load p.core p.slot p.path with
  | some t => .next t.switchRole
  | none => .next s

/-! ### Breakpoints (R411, R412) -/

/-- The breakpoint at the path's next instruction, those aside that the path passes there once. -/
def State.breakpoint (s : State) : Option Nat :=
  (s.part.bps.find? fun b =>
    b.2.getLsbD 0 && va57 b.2 / 8 * 8 = va57 s.path.pc && !s.path.pass.contains (b.1, s.path.pc)).map (·.1)

/-- The path meets the breakpoint: the partition stops, and the path waits for RESUME, after which it passes it. -/
def State.meetBreak (s : State) (n : Nat) : State :=
  { s with path := { s.path with status := .debug, pass := s.path.pass ++ [(n, s.path.pc)] },
           dev := s.dev.meetStop s.partNo 1 n s.coreNo s.slotNo (pathByte s.path) }

def execBreakpointHit (p : PRef) (s : State) : Out :=
  match s.load p.core p.slot p.path with
  | some t => match t.path.status, t.breakpoint with
    | .ready, some n => .next (t.meetBreak n)
    | _, _ => .next t
  | none => .next s

/-! ### What follows from a change of paths at once: waits that have ended, nested arms, path slots -/

/-- Does the path wait at the join of a split? -/
def Path.atJoin (p : Path) (split : Nat) : Bool := match p.status with | .join x _ => x == split | _ => false

/-- May the arm that waits on the divergence stack run: no path of the other arm is still on its way to the join (R134)? -/
def armDue (paths : Tbl Path) (id : Nat) (p : Path) : Bool :=
  match p.arms with
  | [] => true
  | (sp, _) :: _ => paths.all fun q => q.1 == id || !q.2.arms.any (·.1 == sp) || q.2.atJoin sp

/-- One path of the strand in focus is moved on where nothing holds it any more. -/
def State.wake (s : State) : State :=
  let ps := s.paths
  match s.path.status with
  | .stacked a fall origin =>
    if armDue ps s.pathNo s.path then
      let sib := ps.find? fun q => q.1 != s.pathNo && q.2.slot.isSome && (match s.path.arms with
        | (sp, _) :: _ => q.2.atJoin sp
        | [] => false)
      let s := match sib with
        | some (i, q) =>
          { s with path := { s.path with slot := q.slot },
                   strand := { s.strand with paths := tset s.strand.paths i { q with slot := none } } }
        | none => s
      s.goTo a fall origin .nothing
    else s
  | .ready => if s.path.pc = s.path.blk.stop && !s.path.windowOpen then s.goTo s.path.pc true s.path.pc .nothing else s
  | .roleWait _ _ => s.roleTake
  | .queueErr => if s.path.windowOpen then s else { s with path := s.path.trapped (s.path.trapHere cQueueerr) }
  | .rejoinWait => if fragsAt ps s.pathNo s.path.pc then s else s.goTo s.path.pc true s.path.pc .nothing
  | .atRejoin =>
    if ps.any (fun q => some q.1 == s.path.parent) then s else s.goTo s.path.pc true s.path.pc .nothing
  | _ => s

/-- Does the path wait where its slot may pass to another (R337)? -/
def Path.waiting (p : Path) : Bool :=
  match p.status with
  | .join _ _ | .rejoinWait | .atRejoin | .barrier _ _ _ _ => true
  | _ => false

/-- A path that can run takes a path slot: a free one, or that of a path that waits (R131, R337). -/
def grantSlot (ps : Tbl Path) (id : Nat) : Tbl Path :=
  match tget ps id with
  | none => ps
  | some p =>
    if p.slot.isSome || p.status != .ready then ps
    else
      match [0, 1].find? fun k => !ps.any fun q => q.2.slot == some k with
      | some k => tset ps id { p with slot := some k }
      | none =>
        match ps.find? fun q => q.2.slot.isSome && q.2.waiting with
        | some (i, q) => tset (tset ps i { q with slot := none }) id { p with slot := q.slot }
        | none => ps

/-- A strand of the package is tidied: every path woken that can be, and slots granted in the order of the paths' numbers. -/
def State.tidyStrand (s : State) (c sl : Nat) : State :=
  match s.strandAt c sl with
  | none => s
  | some st =>
    if st.spilled then s
    else
      let s := (st.paths.map (·.1)).foldl (fun s i => match s.load c sl i with | some t => t.wake.flush | none => s) s
      match s.strandAt c sl with
      | none => s
      | some st =>
        let ps := (st.paths.map (·.1)).foldl grantSlot st.paths
        s.setCore c { s.dev.coreAt c with strands := tset (s.dev.coreAt c).strands sl { st with paths := ps } }

def State.tidy (s : State) : State :=
  let s := s.flush
  s.dev.cores.foldl (fun s c => c.2.strands.foldl (fun s e => s.tidyStrand c.1 e.1) s) s

end Sys2Proof.Machine
end

