-- ==== Sys2Proof/Machine/Launches.lean ====
section
/-! DEFINITION. From a host command queue to the end of a launch: doorbells and the fetch of commands (R355, R356), the checks of a
launch (R357, R358), completion records (R359), distributors and the placement of cohorts (R360 to R362), `cgrow` (R176, R352), task
strands (R299), and completion with the drain of reductions (R126, R216, R341). -/
namespace Sys2Proof.Machine

/-! ### Host command queues -/

def HQueue.empty : HQueue := ⟨false, false, 0, 4, none, 0, 0, 0, none, []⟩
def Partition.hq (p : Partition) (q : Nat) : HQueue := tgetD p.queues q .empty
def Partition.setHq (p : Partition) (q : Nat) (x : HQueue) : Partition := { p with queues := tset p.queues q x }
def Device.hq (d : Device) (pn q : Nat) : HQueue := (d.partAt pn).hq q
def Device.setHq (d : Device) (pn q : Nat) (x : HQueue) : Device := d.setPart pn ((d.partAt pn).setHq q x)

/-- The space that host addresses of the partition's owner lie in. -/
def Device.hostSpace (d : Device) (pn : Nat) : Option Nat := (d.holder pn).map (1 + ·)

/-- Place and capacity of a queue's ring: the control block's for queue 0 (R379), those of opcode 0x0027 for the others (R380). A ring in
device memory is one while it lies in the partition's stack pairs (R184). -/
def Device.ringOf (d : Device) (pn q : Nat) : Option (Nat × Nat) :=
  let p := d.partAt pn
  let x := p.hq q
  let at_ := fun (dev : Bool) (base logc : Nat) =>
    if dev then (if p.inPairs base (64 * 2 ^ logc) then some (place 0 base, 2 ^ logc) else none) else (d.hostSpace pn).map fun sp => (place sp base, 2 ^ logc)
  if q = 0 then (if 4 ≤ p.cqcap && p.cqcap ≤ 12 then at_ p.loc p.cqbase.toNat p.cqcap else none)
  else if x.set_ then at_ x.dev x.base x.logc else none

/-- The command at the head of a queue, 64 bytes from its place. -/
def Device.command (d : Device) (pn q : Nat) : Option Nat :=
  let x := d.hq pn q
  match d.ringOf pn q with
  | some (base, cap) => if x.head % cap = x.tail % cap then none else some (base + 64 * (x.head % cap))
  | none => none

def Device.opcode (d : Device) (a : Nat) : Nat := d.mem.nat a 2

/-- The command at the head has been taken from the ring. -/
def Device.advance (d : Device) (pn q : Nat) : Device :=
  let x := d.hq pn q
  match d.ringOf pn q with
  | some (_, cap) => d.setHq pn q { x with head := (x.head + 1) % cap }
  | none => d

/-- A command error is counted (R355, R378, R381). -/
def Device.countError (d : Device) (pn q : Nat) : Device :=
  let x := d.hq pn q
  (d.setHq pn q { x with errors := (x.errors + 1) % 2 ^ 64 }).pevent pn 2

/-- DOORBELL (R355, R378): the owner's write sets the tail; another port's is dropped and counted. -/
def execDoorbell (port part queue : Nat) (tail : BitVec 32) (s : State) : Out :=
  let s := s.flush
  let d := s.dev
  if 8 ≤ queue || 8 ≤ part then .next s
  else if d.holder part != some port then .next { s with dev := d.countError part queue }
  else
    match d.ringOf part queue with
    | some (_, cap) => .next { s with dev := d.setHq part queue { d.hq part queue with tail := tail.toNat % cap } }
    | none => .next s

/-! ### Memory as the controllers reach it -/

/-- n bytes at a virtual address of an ASID. -/
def Device.readVirt (d : Device) (asid part va n : Nat) : Option (List Byte) :=
  (List.range n).mapM fun i =>
    match translate d asid part ((va + i) % 2 ^ 64) 1 ⟨true, false, false⟩ [0, 1, 2] false with
    | .ok x => if d.lost x.pa then none else some (d.mem.get x.pa)
    | .error _ => none

/-- Write bytes at a virtual address that is a multiple of their number. -/
def Device.writeVirt (d : Device) (asid part va : Nat) (bs : List Byte) : Option Device :=
  match translateAligned d asid part va bs.length ⟨false, true, false⟩ [0, 1, 2] false with
  | .ok x => if d.lost x.pa then none else some { d with mem := d.mem.write x.pa bs }
  | .error _ => none

/-- A completion record (R359). -/
def completionBytes (status detail ended reissued clock : Nat) (fault : List Byte) : List Byte :=
  leBytes 4 (status + 2 ^ 8 * detail) ++ leBytes 4 ended ++ leBytes 4 reissued ++ leBytes 4 0 ++ leBytes 8 clock ++ leBytes 8 0 ++
    (fault ++ leBytes 32 0).take 32

/-- A completion is written in the queue's ASID and signalled, or dropped and counted (R355, R381). -/
def Device.postRecord (d : Device) (pn q : Nat) (at_ : Option Nat) (bs : List Byte) : Device :=
  match at_, (d.hq pn q).asid with
  | some a, some asid => match d.writeVirt asid pn a bs with
    | some d => d.signal pn q
    | none => d.countError pn q
  | _, _ => d.countError pn q

/-- A descriptor as the queue's ASID shows it. -/
def Device.descriptor (d : Device) (pn q desc : Nat) : Option (List Byte) :=
  (d.hq pn q).asid.bind fun a => d.readVirt a pn desc 128

def bytesNat (bs : List Byte) (o n : Nat) : Nat := leNat ((bs.drop o).take n)

def Device.reject (d : Device) (clock pn q desc detail : Nat) : Device :=
  let at_ := (d.descriptor pn q desc).map fun bs => bytesNat bs 0x30 8
  d.postRecord pn q at_ (completionBytes 1 detail 0 0 ((d.partAt pn).now clock) [])

/-- Opcodes that queue 0 accepts besides the launch (R378). -/
def privileged (op : Nat) : Bool :=
  [0x10, 0x11, 0x12, 0x13, 0x14, 0x20, 0x21, 0x22, 0x23, 0x24, 0x25, 0x26, 0x27, 0x28, 0x29, 0x30, 0x31, 0x32, 0x40].contains op

/-- The command at the head of a queue is fetched if it is a launch or cannot be accepted: a launch waits its turn, anything else
is rejected (R355). -/
def Device.fetchOne (d : Device) (clock pn q : Nat) : Device :=
  match d.command pn q with
  | none => d
  | some a =>
    let op := d.opcode a
    let desc := d.mem.nat (a + 8) 8
    let d1 := d.advance pn q
    let clean := d.mem.nat (a + 2) 2 = 0 && d.mem.nat (a + 16) 48 = 0
    if op = 1 && clean then
      let x := d1.hq pn q
      d1.setHq pn q { x with waiting := x.waiting ++ [desc] }
    else if q = 0 && privileged op then d
    else d1.reject clock pn q desc 1

/-- Commands are fetched from head to tail, up to a privileged one. -/
def Device.fetchAll : Nat → Device → Nat → Nat → Nat → Device
  | 0, d, _, _, _ => d
  | n + 1, d, clock, pn, q => Device.fetchAll n (d.fetchOne clock pn q) clock pn q

/-- Commands between head and tail. -/
def Device.unfetched (d : Device) (pn q : Nat) : Nat :=
  let x := d.hq pn q
  match d.ringOf pn q with
  | some (_, cap) => (x.tail % cap + cap - x.head % cap) % cap
  | none => 0

/-! ### Launches -/

/-- The launch that a descriptor describes (R357). -/
def launchOf (pn q desc : Nat) (k : Kernel) (bs : List Byte) (ordinal : Nat) : Launch :=
  let f := fun (o n : Nat) => bytesNat bs o n
  let w := f 0x14 4
  let v := f 0x18 4
  let cohorts := f 0x10 4
  let spc := w % 256
  { Launch.empty with
    part := pn, queue := q, desc := desc, kernel := k, args := BitVec.ofNat 64 (f 8 8), cohorts := cohorts, spc := spc
    quad := bitN w 8, reissuable := bitN w 9, pmax := fieldN w 10 2, pinit := fieldN w 12 2, acc := fieldN w 14 2, asid := fieldN w 16 12
    awin := v % 256, wwin := fieldN v 8 5, cslots := fieldN v 13 3, grow := fieldN v 16 16, chunk := f 0x1C 2
    podgrp := if f 0x1E 2 = 0xFFFF then none else some (f 0x1E 2), qbase := BitVec.ofNat 64 (f 0x20 8), qsize := f 0x28 8
    done := BitVec.ofNat 64 (f 0x30 8), ordinal := ordinal, counter := cohorts * (spc + 1) }

/-- Strands of a cohort that one core takes. -/
def Launch.perCore (l : Launch) : Nat := if l.quad then (l.spc + 4) / 4 else l.spc + 1

/-- The first check of R358 that fails, 0 for none. -/
def Device.checkLaunch (d : Device) (pn desc : Nat) (bs : List Byte) (l : Launch) (known : Bool) : Nat :=
  let p := d.partAt pn
  let w := bytesNat bs 0x14 4
  let k := l.kernel
  if desc % 64 ≠ 0 || fieldN w 28 4 ≠ 0 || bytesNat bs 0x38 72 ≠ 0 || l.cohorts = 0 || l.chunk = 0 || l.pmax < l.pinit || 2 < l.acc ||
      128 < l.awin || 16 < l.wwin || 4 < l.cslots || l.qbase.toNat % 4096 ≠ 0 || l.done.toNat % 64 ≠ 0 then 1
  else if !(match tget d.asids l.asid with | some a => a.part = pn | none => false) then 2
  else if !known then 3
  else if 2048 < k.armature then 4
  else if 48 < l.perCore || 4096 < l.perCore * k.width || 4096 < l.perCore * k.armature then 5
  else if l.qsize < (l.spc + 1) * frameBytes k.armature then 6
  else if (match l.podgrp with | some g => (tget p.pods g).isNone | none => false) then 7
  else 0

/-- Dies with quads of the partition that are not fenced. -/
def Device.diesOf (d : Device) (pn : Nat) : List Nat :=
  (List.range 4).filter fun i => (d.partAt pn).quads.toNat / 2 ^ (32 * i) % 2 ^ 32 ≠ 0 && !(d.dieAt i).fenced

def Partition.hasQuad (p : Partition) (q : Nat) : Bool := q < 128 && p.quads.getLsbD q

/-- The acquire at `.sys` with which a launch starts (R211, R216): no core of the partition keeps a cached sector, no die a copy of
the partition's; text is fetched anew in the ASID (R394). -/
def Device.acquireAll (d : Device) (pn asid : Nat) : Device :=
  let p := d.partAt pn
  { d with
    cores := d.cores.map fun c => if p.hasQuad (quadOf c.1) then
      (c.1, { c.2 with l1 := [], ibuf := c.2.ibuf.filter fun b => b.1 / 2 ^ 64 != asid }) else c
    dies := d.dies.map fun e => (e.1, { e.2 with copies := e.2.copies.filter fun x => x.1 / 2 ^ 128 != pn }) }

/-- Is the partition in a state in which launches start? -/
def Partition.open_ (p : Partition) : Bool := p.configured && p.preempt.isNone && !p.saved

/-- LAUNCH (R356 to R358): commands of the queue are fetched, and the oldest launch that waits is checked and starts when none of
its queue runs. Every die distributor of the partition asks for a chunk at once (R360). -/
def State.startLaunch (s : State) (pn q : Nat) : State :=
  let d := s.dev.fetchAll (s.dev.unfetched pn q) s.clock pn q
  let s := { s with dev := d }
  let x := d.hq pn q
  match x.running, x.waiting with
  | none, desc :: rest =>
    if !(d.partAt pn).open_ && (d.partAt pn).configured then s
    else
      let d := d.setHq pn q { x with waiting := rest }
      let out := fun (detail : Nat) => { s with dev := d.reject s.clock pn q desc detail }
      if !(d.partAt pn).configured || x.asid.isNone then out 2
      else match d.descriptor pn q desc with
        | none => { s with dev := d.countError pn q }
        | some bs =>
          let p := d.partAt pn
          let entry := BitVec.ofNat 64 (bytesNat bs 0 8)
          let asid := fieldN (bytesNat bs 0x14 4) 16 12
          let k := (p.kernels.find? fun k => k.1 = asid && k.2.entry = entry).map (·.2)
          let l := launchOf pn q desc (k.getD .empty) bs p.ordinals
          match d.checkLaunch pn desc bs l k.isSome with
          | 0 =>
            let l := { l with dists := (d.diesOf pn).map (fun i => (i, ⟨[], some s.clock⟩)), loads := d.loads }
            let p := { p with ordinals := p.ordinals + 1 }.setHq q { x with waiting := rest, running := some d.nextLaunch }
            let d := (d.setPart pn p).acquireAll pn asid
            { s with dev := { d with launches := tset d.launches d.nextLaunch l, nextLaunch := d.nextLaunch + 1 } }
          | n => out n
  | _, _ => s

def execLaunch (part queue : Nat) (s : State) : Out := .next (s.flush.startLaunch part queue)

/-! ### Distributors (R360, R361) -/

def State.setLaunch (s : State) (l : Nat) (x : Launch) : State := { s with dev := { s.dev with launches := tset s.dev.launches l x } }

/-- Has another die of the launch asked before: in an earlier clock, or in the same with a lower number (R360)? -/
def Launch.askedBefore (x : Launch) (die t : Nat) : Bool :=
  x.dists.any fun e => match e.2.asked with
    | some u => u < t || (u == t && e.1 < die)
    | none => false

/-- CHUNK_GRANT (R360): the master hands out the next numbers to the die that asked first. -/
def State.grantChunk (s : State) (pn die l : Nat) : State :=
  match tget s.dev.launches l with
  | none => s
  | some x =>
    match tget x.dists die with
    | none => s
    | some di =>
      let n := min x.chunk (x.cohorts - x.granted)
      if x.part ≠ pn || (match di.asked with | some t => x.askedBefore die t | none => true) || (s.dev.partAt pn).electing.isSome ||
          x.ending.isSome || !(s.dev.partAt pn).open_ then s
      else if n = 0 then s.setLaunch l { x with dists := tset x.dists die { di with asked := none } }
      else s.setLaunch l { x with
        granted := x.granted + n, dists := tset x.dists die ⟨di.chunks ++ [(x.granted, n)], none⟩ }

def execChunkGrant (part die lid : Nat) (s : State) : Out := .next (s.flush.grantChunk part die lid)

/-- The least cohort number that a distributor of the launch holds. -/
def Launch.nextCohort (l : Launch) : Option Nat :=
  l.dists.foldl (fun o e => e.2.chunks.foldl (fun o r => match o with
    | none => some r.1
    | some x => some (min x r.1)) o) none

/-- A distributor without its first number; it asks for its next chunk with the last one of its current. -/
def Dist.take (di : Dist) (more : Bool) (clock : Nat) : Dist :=
  match di.chunks with
  | [] => di
  | (f, n) :: r =>
    let rest := if n ≤ 1 then r else (f + 1, n - 1) :: r
    { chunks := rest, asked := if di.asked.isNone && rest.isEmpty && more then some clock else di.asked }

/-- Quarry frames that strands of a launch hold, resident or spilled. -/
def Device.frames (d : Device) (l : Nat) : List Nat :=
  d.cores.flatMap fun c => c.2.strands.filterMap fun e => if e.2.launch = l && !e.2.gone then some e.2.frame else none

def Device.framesUsed (d : Device) (l : Nat) : Nat := (d.frames l).length

/-- The lowest free frame. -/
def freeFrame (used : List Nat) : Nat := ((List.range (used.length + 1)).find? fun i => !used.contains i).getD 0

/-- Does a core take n more strands of a width and an armature (R145)? A strand that has ended holds nothing (R127). -/
def Core.admits (c : Core) (n width armature : Nat) : Bool :=
  let sts := c.strands.filter fun e => !e.2.gone
  sts.length + n ≤ 48 && sts.foldl (fun x e => x + e.2.width) (n * width) ≤ 4096 &&
    sts.foldl (fun x e => x + e.2.armature) (n * armature) ≤ 4096

/-- Does a core hold the windows, the accumulators and the queues of a cohort of the launch besides its own (R189, R287, R295)? -/
def Core.holds (c : Core) (l : Launch) : Bool :=
  let sum := fun (f : Cohort → Nat) => c.cohorts.foldl (fun n h => n + f h.2) 0
  sum Cohort.asize + 1024 * l.awin ≤ 131072 && sum Cohort.wsize + 4096 * l.wwin ≤ 65536 && sum Cohort.slots + l.cslots ≤ 4 &&
    sum Cohort.accs + l.acc ≤ 2 && (l.kernel.queues.isEmpty || !c.cohorts.any fun h => h.2.queues)

/-- Strands of a cohort that go to quad position i. -/
def Launch.share (l : Launch) (i : Nat) : Nat := (l.spc + 1 + 3 - i) / 4

/-- Cores that a cohort may take on a die, in order, each choice with the strands on each core (R361). -/
def Launch.choices (l : Launch) (p : Partition) (die : Nat) : List (List (Nat × Nat)) :=
  let quads := ((List.range 32).map fun i => 32 * die + i).filter p.hasQuad
  if l.quad then quads.map fun q => (List.range 4).map fun i => (4 * q + i, l.share i)
  else quads.flatMap fun q => (List.range 4).map fun i => [(4 * q + i, l.spc + 1)]

/-- The cores on which the next cohort of a launch fits, whole. -/
def State.roomFor (s : State) (lid die : Nat) (l : Launch) : Option (List (Nat × Nat)) :=
  let frames := l.qsize / frameBytes l.kernel.armature
  if frames < s.dev.framesUsed lid + l.spc + 1 then none
  else (l.choices (s.dev.partAt l.part) die).find? fun cs => cs.all fun e =>
    let c := s.dev.coreAt e.1
    c.admits e.2 l.kernel.width l.kernel.armature && c.holds l

/-- A cohort's number as a key that no other cohort has. -/
def cohortKey (l number : Nat) : Nat := l * 2 ^ 64 + number

/-- The lowest free strand slot. -/
def Core.freeSlot (c : Core) : Option Nat := (List.range 48).find? fun i => (tget c.strands i).isNone

/-- A strand at its entry, waiting for its first block. -/
def newStrand (lid key number linear index armature : Nat) (entry : Word) (lanes : LaneSet) (width : Nat) : Strand :=
  { Strand.empty with
    width := width, launch := lid, cohort := key, number := number, linear := linear, index := index, armature := armature
    entry := entry, exited := allLanes width &&& ~~~lanes
    paths := [(0, { Path.empty with pc := entry, lanes := lanes, slot := some 0, status := .fetch entry true entry .nothing })] }

/-- Put a strand into the lowest free slot of a core; it has a frame in the quarry (R149), and its path fetches what was loaded before
the launch started (R394). -/
def State.takeIn (s : State) (cn : Nat) (st : Strand) : State :=
  let c := s.dev.coreAt cn
  match c.freeSlot with
  | none => s
  | some sl =>
    let ps : Tbl Path := st.paths.map fun p => (p.1, { p.2 with codeFrom := (s.dev.launchAt st.launch).loads, codeOk := (s.dev.launchAt st.launch).loads })
    ({ s with dev := s.dev.orphan cn sl }).setCore cn { c with
      strands := tset c.strands sl { st with frame := freeFrame (s.dev.frames st.launch), paths := ps }
      cohorts := tmod c.cohorts st.cohort fun h => { h with strands := h.strands + 1 } }

/-- The role of the strand of an index: roles take their strands in order (R296). -/
def roleOfIndex : List Role → Nat → Nat → Option Nat
  | [], _, _ => none
  | r :: rs, i, n => if i < r.strands then some n else roleOfIndex rs (i - r.strands) (n + 1)

/-- The tags that a launch attaches its strands to (R141): numbers and level. -/
def Launch.attachSet (l : Launch) : BitVec 8 × Bool := if l.kernel.aset = 0 then (1, l.quad) else (l.kernel.aset, l.kernel.alevel)

/-- A strand of a cohort is admitted at placement (R362): its identifiers, its role with its live-ins, and its tags. -/
def State.placeStrand (s : State) (lid : Nat) (l : Launch) (key number cn i : Nat) : State :=
  let sl := ((s.dev.coreAt cn).freeSlot).getD 0
  let role := roleOfIndex l.kernel.roles i 0
  let r := role.bind fun n => l.kernel.roles[n]?
  let w := l.kernel.width
  let entry := (r.bind (·.entry)).getD l.kernel.entry
  let st := newStrand lid key number (number * (l.spc + 1) + i) i l.kernel.armature entry (allLanes w) w
  let s := s.takeIn cn { st with role := role }
  match s.load cn sl 0 with
  | none => s
  | some t =>
    let t := match r with | some r => t.liveIns r.argw 0 | none => t
    let a := l.attachSet
    ((tagNumbers a.1).foldl (State.attachTag a.2) t).flush

/-- A queue as the code object's table sets it up (R295, R391), with what the ring of its bridge holds (R373). -/
def QEntry.queue (e : QEntry) (key clock occ : Nat) : Queue where
  cohort := key
  kind := e.kind
  base := e.base
  cap := 2 ^ e.logc
  occ := occ
  head := 0
  tail := 0
  high := e.high
  low := e.low
  reserve := false
  reserved := 0
  err := false
  ring := e.ring
  dev := e.dev
  core := e.core
  lowSince := clock
  highSince := clock
  lastSwitch := 0
  took := (0, 0)
  acted := (0, 0)

/-- Elements in the bridge of a queue-table entry. -/
def Device.ringFill (d : Device) (e : QEntry) : Nat := if e.kind = 1 then ((tget d.bridges e.base).map (·.ring.length)).getD 0 else 0

/-- A cohort's share of one core: its windows, zeroed (R190), its priority, and its queues. -/
def State.openCohort (s : State) (lid : Nat) (l : Launch) (key number cn : Nat) : State :=
  let c := s.dev.coreAt cn
  let h := { Cohort.empty with
    launch := lid, number := number, quad := l.quad, asize := 1024 * l.awin, wsize := 4096 * l.wwin, slots := l.cslots, accs := l.acc
    prio := l.pinit, queues := !l.kernel.queues.isEmpty, discardable := true }
  s.setCore cn { c with
    cohorts := tset c.cohorts key h
    queues := if l.kernel.queues.isEmpty then c.queues
      else l.kernel.queues.foldl (fun t e => tset t e.q (e.queue key s.clock (s.dev.ringFill e))) [] }

/-- Place cohort `number` on the cores chosen (R361, R362). -/
def State.placeCohort (s : State) (lid : Nat) (l : Launch) (number : Nat) (cs : List (Nat × Nat)) : State :=
  let key := cohortKey lid number
  let s := cs.foldl (fun s e => s.openCohort lid l key number e.1) s
  (List.range (l.spc + 1)).foldl (fun s i => s.placeStrand lid l key number (cs.getD (i % cs.length) (0, 0)).1 i) s

/-- Launches of a partition that have a cohort to place on a die now, with the cores it takes. -/
def State.candidates (s : State) (pn die : Nat) : List (Nat × Launch × Nat × List (Nat × Nat)) :=
  s.dev.launches.filterMap fun e =>
    let l := e.2
    let first := (tget l.dists die).bind fun di => di.chunks.head?
    match first with
    | some (c, _) =>
      if l.part = pn && l.ending.isNone && l.nextCohort = some c then
        (s.roomFor e.1 die l).map fun cs => (e.1, l, c, cs)
      else none
    | none => none

/-- COHORT_PLACEMENT (R356, R361, R362): the distributor of a die places the next cohort of the launch, if that is the launch whose
turn it is: the launches that can place one take turns in ascending queue number. -/
def State.placeNext (s : State) (pn die lid : Nat) : State :=
  let p := s.dev.partAt pn
  let di := s.dev.dieAt die
  if !p.open_ || p.electing.isSome || di.fenced then s
  else
    let last := tgetD di.lastQ pn 7
    let cs := s.candidates pn die
    let rank := fun (q : Nat) => (q + 7 - last) % 8
    match cs.find? fun e => e.1 = lid with
    | none => s
    | some (_, l, c, at_) =>
      if cs.any fun e => rank e.2.1.queue < rank l.queue then s
      else
        let d := tgetD l.dists die ⟨[], none⟩
        let l1 := { l with placed := l.placed + 1, dists := tset l.dists die (d.take (l.granted < l.cohorts) s.clock) }
        let s := { s with dev := s.dev.setDie die { di with lastQ := tset di.lastQ pn l.queue } }
        (s.setLaunch lid l1).placeCohort lid l c at_

def execCohortPlacement (part die lid : Nat) (s : State) : Out := .next (s.flush.placeNext part die lid)

/-! ### `cgrow` (R142, R176, R352) -/

/-- Commit strands one at a time, up to n, on the cores that the cohort stands on: answers how many. -/
def State.commitStrands (lid key cn : Nat) (entry : Word) : Nat → Nat → State → Nat × State
  | 0, k, s => (k, s)
  | n + 1, k, s =>
    let l := s.dev.launchAt lid
    let cores := if (tgetD (s.dev.coreAt cn).cohorts key .empty).quad then (List.range 4).map fun i => 4 * quadOf cn + i else [cn]
    let room := s.dev.framesUsed lid < l.qsize / frameBytes l.kernel.armature
    match (if l.grown < l.grow && room then cores.find? fun c => (s.dev.coreAt c).admits 1 l.kernel.width l.kernel.armature else none) with
    | none => (k, s)
    | some c =>
      let h := tgetD (s.dev.coreAt c).cohorts key .empty
      let st := newStrand lid key h.number l.counter h.strands l.kernel.armature entry (allLanes l.kernel.width) l.kernel.width
      let s := (s.takeIn c st).setLaunch lid { l with grown := l.grown + 1, counter := l.counter + 1 }
      State.commitStrands lid key cn entry n (k + 1) s

/-- Requests of `cgrow` of a cohort, by their clocks. -/
def Device.growRequests (d : Device) (key : Nat) : List Nat :=
  d.cores.flatMap fun c => c.2.strands.flatMap fun e => if e.2.cohort = key then
    e.2.paths.filterMap fun p => match p.2.status with | .grow _ r => some (r % 2 ^ 64) | _ => none else []

/-- CGROW_ANSWER: from 24 clocks after the request, requests of a cohort in their order; the record holds how many strands were
committed. -/
def State.answerGrow (s : State) : State :=
  match s.path.status, s.focus with
  | .grow d req, some (cn, sl, pn) =>
    let n := req / 2 ^ 64
    let t := req % 2 ^ 64
    let key := s.strand.cohort
    let lid := s.strand.launch
    let f := s.flush
    if s.clock < t + 24 || (f.dev.growRequests key).any (· < t) then s
    else
      let r := match s.launch.kernel.attach with
        | some a => if n = 0 || 1024 < n then (0, f) else State.commitStrands lid key cn a n 0 f
        | none => (0, f)
      match r.2.load cn sl pn with
      | none => r.2
      | some u =>
        let u := { u with path := { u.path with status := .ready } }
        let u := writeDest d false u.path.lanes (fun _ => BitVec.ofNat 64 r.1) u
        ({ u with path := u.path.windowStep }).advance
  | _, _ => s

def execCgrowAnswer (p : PRef) (s : State) : Out :=
  match s.load p.core p.slot p.path with
  | some t => .next t.answerGrow
  | none => .next s

/-! ### Task strands (R298, R299) -/

/-- A slot of a task ring: the entry and the record's eight words; none where it cannot be read. -/
def State.taskSlot (s : State) (r : TaskRing) (i : Nat) : Option (Word × List Word) :=
  let l := s.dev.launchAt r.launch
  let a := (r.base.toNat + 48 * (i % r.cap)) % 2 ^ 64
  let bs := if r.srcDev = Config.pkgNumber.toNat then s.dev.readVirt l.asid l.part a 48
    else some (s.dev.mem.read (place (5 + r.srcDev) a) 48)
  bs.map fun b => (BitVec.ofNat 64 (bytesNat b 0 8), (List.range 8).map fun k => BitVec.ofNat 64 (bytesNat b (16 + 4 * k) 4))

/-- The ring without the slots taken, and its head and error bit as the spawning cores learn them. -/
def State.setRing (s : State) (cn key : Nat) (r : TaskRing) (taken : List Nat) (bad : Bool) : State :=
  let r := TaskRing.settle (r.taken.length + taken.length) { r with taken := r.taken ++ taken, since := s.clock, err := r.err || bad }
  let c := s.dev.coreAt cn
  let s := s.setCore cn { c with rings := tset c.rings key r }
  if r.srcDev = Config.pkgNumber.toNat then { s with dev := s.dev.learn Config.pkgNumber.toNat cn r }
  else { s with dev := { s.dev with fabricHeads := s.dev.fabricHeads ++ [(r.srcDev, r.srcCore, r.srcQ, r.head, bad)] } }

/-- TASK_STRAND_FORM: the scheduler takes the head task and later ones of the same entry, up to 32 among 64 slots, and forms a strand
of width 32 in a cohort of its own; a task of an unknown entry is discarded, and so is one whose slot cannot be read, of which nothing is
stated (log entry 128). On a core that is not of the launch's partition no strand
of it may run (R17): its scheduler knows none of its entries, and discards every task (log entry 94). -/
def State.formStrand (s : State) (cn key : Nat) : State :=
  match tget (s.dev.coreAt cn).rings key with
  | none => s
  | some r =>
    let l := s.dev.launchAt r.launch
    let slots := ((List.range (min 64 (r.tail - r.head))).map (r.head + ·)).filter fun i => !r.taken.contains i
    match slots with
    | [] => s
    | i0 :: _ =>
      let known := if (s.dev.partAt l.part).hasQuad (quadOf cn) then
        (s.taskSlot r i0).bind fun t => l.kernel.tasks.find? fun k => k.1 = t.1 else none
      if l.ending.isSome || !(s.dev.partAt l.part).open_ || (s.dev.dieAt (dieOf cn)).fenced then s
      else match known with
      | none => s.setRing cn key r [i0] true
      | some (entry, arm) =>
        let mine := (slots.filterMap fun i => (s.taskSlot r i).bind fun t => if t.1 = entry then some (i, t.2) else none).take 32
        let c := s.dev.coreAt cn
        if (mine.length < 32 && s.clock < r.since + 64) || !c.admits 1 32 arm || slabsFree c.strands < 8 + plinth c.strands ||
            l.qsize / frameBytes l.kernel.armature ≤ s.dev.framesUsed r.launch then s
        else
          let number := l.cohorts + l.tasks
          let ck := cohortKey r.launch number
          let st := newStrand r.launch ck number l.counter 0 arm entry (allLanes mine.length) 32
          let rec_ := fun (k : Nat) => ({
            rid := s.uid + k, wide := false, count := some 1, pend := [], absent := 0, failed := [], units := [], maker := entry
            vals := (List.range 32).map fun i => match mine[i]? with | some t => t.2.getD k 0 | none => 0 } : Rec)
          let st := { st with task := true, paths := st.paths.map fun p =>
            (p.1, { p.2 with v := (List.range 8).map fun k => (k, rec_ k) }) }
          let h := { Cohort.empty with launch := r.launch, number := number, task := true, prio := l.pinit }
          let s := { s with uid := s.uid + 8 }.setCore cn { c with cohorts := tset c.cohorts ck h }
          let s := (s.takeIn cn st).setLaunch r.launch { l with counter := l.counter + 1, tasks := l.tasks + 1 }
          s.setRing cn key r (mine.map (·.1)) false

def execTaskStrandForm (core ring : Nat) (s : State) : Out := .next (s.flush.formStrand core ring)

/-! ### The end of cohorts and launches -/

def accCohort (k : Nat) : Nat := k / 1024

/-- What the package holds of some cohorts goes: windows, rings, tags, accumulators, queues, and commands of theirs. -/
def Device.dropCohorts (d : Device) (gone : Nat → Bool) : Device :=
  let chan := fun (x : Chan) => { x with queue := x.queue.filter fun y => !gone y.cohort }
  { d with
    cores := d.cores.map fun c => (c.1, { c.2 with
      cohorts := c.2.cohorts.filter fun h => !gone h.1
      strands := c.2.strands.filter fun e => !gone e.2.cohort
      queues := c.2.queues.filter fun q => !gone q.2.cohort
      chan0 := chan c.2.chan0, chan1 := chan c.2.chan1
      epis := c.2.epis.filter fun e => !gone e.cohort })
    quads := d.quads.map fun q =>
      let lives := fun (id : Nat) => q.2.entries.any fun e => e.1 = id && !gone e.2.cohort
      (q.1, { q.2 with
        accs := q.2.accs.filter fun a => !gone (accCohort a.1)
        entries := q.2.entries.filter fun e => !gone e.2.cohort
        latch := match q.2.latch with | some x => if lives x.1 then some x else none | none => none
        tags := q.2.tags.filter fun t => !gone t.1 }) }

/-- Does an engine still hold a command of a cohort? A copy that still lacks a slice is none (R283). -/
def Device.engaged (d : Device) (key : Nat) : Bool :=
  (d.cores.any fun c => (c.2.chan0.queue ++ c.2.chan1.queue).any (fun x => x.cohort = key && x.slices.length = x.n) ||
    c.2.epis.any fun e => e.cohort = key) ||
  d.quads.any fun q => q.2.entries.any fun e => e.2.cohort = key

/-- Cohorts whose strands have all ended and whose commands are over. -/
def Device.overCohorts (d : Device) : List (Nat × Cohort) :=
  (d.cores.flatMap fun c => c.2.cohorts).filter fun h =>
    h.2.launch != 0 && !(d.cores.any fun c => c.2.strands.any (fun e => e.2.cohort = h.1) ||
      c.2.cohorts.any fun x => x.1 = h.1 && x.2.ended < x.2.strands) && !d.engaged h.1

/-- Cohorts end (R195): what they held is free again, and their launch counts them. -/
def State.endCohorts (s : State) : State :=
  let past := s.dev.overCohorts
  if past.isEmpty then s
  else
    let keys := (past.map (·.1)).eraseDups
    let one := fun (s : State) (k : Nat) =>
      match past.find? fun h => h.1 = k with
      | some (_, h) =>
        let l := s.dev.launchAt h.launch
        if h.task || (tget s.dev.launches h.launch).isNone then s else s.setLaunch h.launch { l with ended := l.ended + 1 }
      | none => s
    let s := keys.foldl one s
    { s with dev := s.dev.dropCohorts fun k => keys.contains k }

/-- The START packet of a strand that has become ready for the first time (R404, R422); where START is not traced, the stream only forgets
what it knew of earlier strands of the slot (R406). -/
def State.startStrand (s : State) (cn sl : Nat) : State :=
  match s.strandAt cn sl with
  | none => s
  | some st =>
    if st.started || st.spilled || !st.paths.any fun p => p.2.status == .ready && p.2.slot.isSome then s
    else
      let c := s.dev.coreAt cn
      let pn := (s.dev.launchAt st.launch).part
      let c := { c with
        strands := tset c.strands sl { st with started := true }
        dbg := { c.dbg with sampleNext := c.dbg.sampleNext &&& ~~~(BitVec.ofNat 48 (2 ^ sl)) } }
      if c.dbg.on 0 && c.dbg.slots.getLsbD sl then
        let p : Packet := {
          part := pn, slot := sl, byte := 0, mine := none, pc := 0, new := [(sl, 0)], ty := if c.dbg.on 1 then 0x20 else 0
          rest := [BitVec.ofNat 8 sl] ++ leBytes 4 st.linear ++ leBytes 8 st.entry.toNat, clk := s.clock, starts := true }
        s.setCore cn { c with dbg := { c.dbg with buf := c.dbg.buf ++ [p] } }
      else s.setCore cn c

/-- What follows at once from a step: paths are woken, entries of the matrix engines act, cohorts end, strands start. -/
def State.settleAll (s : State) : State :=
  let s := s.tidy.actEntries.endCohorts
  s.dev.cores.foldl (fun s c => c.2.strands.foldl (fun s e => s.startStrand c.1 e.1) s) s

/-- Everything that a launch left is dropped. -/
def Device.dropLaunch (d : Device) (l : Nat) : Device :=
  let slots := d.cores.flatMap fun c => (c.2.strands.filter fun e => e.2.launch = l).map fun e => (c.1, e.1)
  let d := slots.foldl (fun d x => d.orphan x.1 x.2) d
  let d := d.dropCohorts fun k => k / 2 ^ 64 = l
  { d with
    cores := d.cores.map fun c => (c.1, { c.2 with
      strands := c.2.strands.filter fun e => e.2.launch != l
      rings := c.2.rings.filter fun r => r.2.launch != l
      abuf := c.2.abuf.filter fun x => x.launch != l })
    farRings := d.farRings.filter fun r => r.2.launch != l
    launches := tdel d.launches l }

/-- Insert a partial by cohort number and linear identifier (R126). -/
def insertPartial (p : Partial) : List Partial → List Partial
  | [] => [p]
  | q :: r => if (p.number, p.linear) = (q.number, q.linear) || p.number < q.number || (p.number = q.number && p.linear < q.linear)
      then p :: q :: r else q :: insertPartial p r

/-- The partials of a launch, of the buffers and of the overflow area, in ascending cohort number and then linear identifier (R126,
R363). -/
def State.partials (s : State) (lid : Nat) (l : Launch) : List Partial :=
  let bufs := s.dev.cores.flatMap fun c => (c.2.abuf.filter fun x => x.launch = lid).map fun x => { x with core := c.1 }
  let outs := (s.ovfSlots l.part l.ordinal).filterMap fun (_, lin, num, va, v, o, t) =>
    (s.placeOf l.asid l.part va t).map fun pa =>
      ({ launch := lid, linear := lin, core := 512, number := num, va := va, pa := pa, op := o, ty := t, val := v, ticket := 0 } :
        Partial)
  (bufs ++ outs).foldr insertPartial []

/-- The drain at kernel end (R126, R363). -/
def State.drainPartials (s : State) (lid : Nat) (l : Launch) : State :=
  let t := (s.partials lid l).foldl (fun s x => s.addPartial x.core l.part x.pa x.op x.ty x.val) s
  (s.ovfSlots l.part l.ordinal).foldl (fun s e => s.freeSlot l.part e.1) t

/-- Are the accesses that strands of the launch issued performed, and the commands that its engines carry out over (R216, R341)? -/
def Device.quiet (d : Device) (l : Nat) : Bool :=
  let mine := fun (k : Nat) => k / 2 ^ 64 = l
  (d.cores.all fun c =>
    (c.2.strands.all fun e => e.2.launch != l || e.2.flights.all fun f => !f.2.passed) &&
    ((c.2.chan0.queue ++ c.2.chan1.queue).all fun x => !mine x.cohort || !x.started) &&
    c.2.epis.all fun x => !mine x.cohort || x.started.isNone) &&
  (d.quads.all fun q => q.2.entries.all fun e => !mine e.2.cohort || e.2.started.isNone) &&
  d.parts.all fun p => p.2.groups.all fun g => g.2.queue.all fun x => x.launch != l

/-- Have all cohorts of the launch run to their ends, with nothing of it left? -/
def Device.finished (d : Device) (l : Nat) (x : Launch) : Bool :=
  x.ended = x.cohorts && x.granted = x.cohorts && (x.dists.all fun e => e.2.chunks.isEmpty) &&
  d.cores.all fun c => (c.2.cohorts.all fun h => h.2.launch != l) && (c.2.strands.all fun e => e.2.launch != l) &&
    c.2.rings.all fun r => r.2.launch != l || r.2.head = r.2.tail

/-- LAUNCH_COMPLETION (R216, R341, R359): the partials are drained, the record is posted and signalled, and the launch is gone. -/
def State.completeLaunch (s : State) (pn lid : Nat) : State :=
  match tget s.dev.launches lid with
  | none => s
  | some x =>
    if x.part ≠ pn || !s.dev.quiet lid || (x.ending.isNone && !s.dev.finished lid x) || !(s.dev.partAt pn).open_ then s
    else if ((s.partials lid x).any fun y => s.dev.paused y.pa) || (s.ovfSlots x.part x.ordinal).any fun e => s.dev.slotPaused x.part e.1 then s
    else
      let status := match x.ending with | some e => e | none => (0, [])
      let s := s.drainPartials lid x
      let d := s.dev.dropLaunch lid
      let q := d.hq pn x.queue
      let d := d.setHq pn x.queue { q with running := none }
      let bs := completionBytes status.1 0 x.ended x.reissued ((d.partAt pn).now s.clock) status.2
      { s with dev := d.postRecord pn x.queue (some x.done.toNat) bs }

def execLaunchCompletion (part lid : Nat) (s : State) : Out := .next (s.flush.completeLaunch part lid)

end Sys2Proof.Machine
end

