-- ==== Sys2Proof/Machine/Commands.lean ====
section
/-! DEFINITION. Privileged commands on queue 0 (R378 to R380) and what they do: configuration and zeroing (R17, R18, R384), the seal,
address spaces and their tables (R196 to R202), tensor, group and export tables, bridges (R373, R374), host command queues, the
overflow area, pod groups, keys, the power cap, cancelling, and the quarantine queue (R202). -/
namespace Sys2Proof.Machine

/-! ### Commands -/

/-- What comes of a command: it is done, it is rejected with a detail (R380), or it is not over yet. -/
inductive Cmd where
  | ok (d : Device)
  | bad (detail : Nat)
  | wait (d : Device)

/-- The place of an address that a command on queue 0 gives (R379). -/
def Device.locPlace (d : Device) (pn a : Nat) : Nat :=
  if (d.partAt pn).loc then place 0 a else place (match d.hostSpace pn with | some sp => sp | none => 1) a

/-- The head command of queue 0, if it has this opcode: its operand address and status address. No command is taken while no port
owns the partition (R377). -/
def Device.privCmd (d : Device) (pn op : Nat) : Option (Nat × Nat) :=
  match d.holder pn, d.command pn 0 with
  | some _, some a => if pn < 8 && d.opcode a = op then some (d.mem.nat (a + 8) 8, d.mem.nat (a + 16) 8) else none
  | _, _ => none

/-- A command that was found on the device `d0` completes, and leaves `d`: its status is written, where it lies in the host's storage or
still in the partition's own (R184, log entry 138), the head moves on, and vector 8p is signalled (R378, R381). -/
def Device.finishCmd (d0 d : Device) (pn status detail : Nat) (st : Nat) : Device :=
  let bs := leBytes 8 (status + 2 ^ 8 * detail)
  let d := if (d0.partAt pn).loc && !(d.partAt pn).inPairs st 8 then d else { d with mem := d.mem.write (d0.locPlace pn st) bs }
  (d.advance pn 0).signal pn 0

/-- Reads the operand: n bytes at an offset. -/
abbrev Opnd := Nat → Nat → Nat

/-- Run a command of an opcode. Operands lie at multiples of 8; an unconfigured partition accepts only 0x0010 (R380). `check` are the
conditions of detail 0x01 on the operand, given whether its address is 0. -/
def runCmd (op pn : Nat) (check : Opnd → Bool → Bool) (body : Opnd → Device → Cmd) (s : State) : Out :=
  let s := s.flush
  match s.dev.privCmd pn op with
  | none => .next s
  | some (a, st) =>
    let f : Opnd := fun o n => s.dev.mem.nat (s.dev.locPlace pn a + o) n
    let r := if a % 8 ≠ 0 || !check f (a = 0) then .bad 1
      else if op ≠ 0x10 && !(s.dev.partAt pn).configured then .bad 2
      else body f s.dev
    match r with
    | .ok d => .next { s with dev := s.dev.finishCmd d pn 0 0 st }
    | .bad n => .next { s with dev := s.dev.finishCmd s.dev pn 1 n st }
    | .wait d => .next { s with dev := d }

/-! ### Physical ranges -/

/-- Zero a range of storage. -/
def Memory.zero (m : Memory) (base size : Nat) : Memory := ⟨m.cells.filter fun c => !(base ≤ c.1 && c.1 < base + size)⟩

/-- What is left of a range outside another. -/
def cutRange (y r : Nat × Nat) : List (Nat × Nat) :=
  if y.1 + y.2 ≤ r.1 || r.1 + r.2 ≤ y.1 then [r]
  else (if r.1 < y.1 then [(r.1, y.1 - r.1)] else []) ++
    if y.1 + y.2 < r.1 + r.2 then [(y.1 + y.2, r.1 + r.2 - (y.1 + y.2))] else []

/-- What is left of some ranges outside others. -/
def minusRanges (rs ys : List (Nat × Nat)) : List (Nat × Nat) := ys.foldl (fun rs y => rs.flatMap (cutRange y)) rs

/-- Conflict tags of a range are empty again. -/
def Device.dropTags (d : Device) (base size : Nat) : Device :=
  { d with ctags := d.ctags.filter fun t => !(base ≤ 32 * t.1 && 32 * t.1 < base + size) }

/-! ### Quarantine (R201, R202) -/

/-- The part of a range that lies in stack pairs of the partition: only that much could be reached (R184). -/
def Partition.clip (p : Partition) (r : Nat × Nat) : List (Nat × Nat) :=
  (List.range 8).filterMap fun i =>
    let lo := max r.1 (i * 2 ^ 37)
    let hi := min (r.1 + r.2) ((i + 1) * 2 ^ 37)
    if p.pairs.getLsbD i && lo < hi then some (lo, hi - lo) else none

/-- Storage of a partition enters the quarantine queue with the current ticket, which rises; a full queue makes the command wait. -/
def Device.quarantined (d : Device) (pn : Nat) (all : List (Nat × Nat)) : Cmd :=
  let rs := all.flatMap (d.partAt pn).clip
  if rs.isEmpty then .ok d
  else if 4096 ≤ d.quarantine.length then .wait d
  else .ok { d with quarantine := d.quarantine ++ [(d.ticket, rs)], ticket := (d.ticket + 1) % 2 ^ 64 }

/-- Tickets of what a core has in flight. -/
def Core.tickets (c : Core) : List Nat :=
  (c.strands.flatMap fun e => e.2.flights.map fun f => f.2.ticket) ++ (c.chan0.queue ++ c.chan1.queue).map (·.ticket) ++
    c.epis.map (·.ticket) ++ c.abuf.map (·.ticket)

/-- Tickets of everything in flight in the package; a reduction whose partial lies in an overflow area has not been performed (R203). -/
def Device.tickets (d : Device) : List Nat :=
  (d.cores.flatMap fun c => c.2.tickets) ++ (d.quads.flatMap fun q => q.2.entries.map fun e => e.2.ticket) ++
    d.parts.flatMap fun p => if p.2.saved then [] else
      (p.2.groups.flatMap fun g => g.2.queue.map (·.ticket)) ++ p.2.ovfTickets.map (·.2)

/-- Does storage in the queue lie in some ranges? No mapping may reach it before it is zeroed (R202). -/
def Device.queued (d : Device) (rs : List (Nat × Nat)) : Bool :=
  d.quarantine.any fun e => e.2.any fun q => rs.any fun r => r.1 < q.1 + q.2 && q.1 < r.1 + r.2

/-- QUARANTINE_RELEASE: entries that no access in flight can reach are zeroed and released. -/
def execQuarantineRelease (s : State) : Out :=
  let s := s.flush
  let ts := s.dev.tickets
  let free := fun (e : Nat × List (Nat × Nat)) => ts.all fun t => e.1 < t
  let gone := (s.dev.quarantine.filter free).flatMap (·.2)
  let d := gone.foldl (fun d r => { d.dropTags r.1 r.2 with mem := d.mem.zero r.1 r.2 }) s.dev
  .next { s with dev := { d with quarantine := d.quarantine.filter fun e => !free e } }

/-- No core's buffer holds a word of the ASID any more (R200, R398). -/
def Device.dropCode (d : Device) (asid : Nat) : Device :=
  { d with cores := d.cores.map fun c => (c.1, { c.2 with ibuf := c.2.ibuf.filter fun b => b.1 / 2 ^ 64 != asid }) }

/-! ### Configuration (0x0010), zeroing (R384), the seal (0x0011) -/

def shareOf (p : Partition) (die : Nat) : Nat := p.shares.getD die 0

/-- Quads, pairs and L2 that leave a partition are zeroed. -/
def Device.zeroQuad (d : Device) (q : Nat) : Device :=
  { d with quads := tdel d.quads q, cores := (List.range 4).foldl (fun t i => tdel t (4 * q + i)) d.cores }

/-- Does a place lie in a stack pair? -/
def inPair (i pa : Nat) : Bool := spaceOf pa = 0 && pairOf pa = i

/-- An access of the partition without a way into a stack pair that the partition has given up: lanes still to be performed there raise
PROT (R184). -/
def Flight.without (f : Flight) (i : Nat) : Flight :=
  { f with accs := f.accs.map fun a => if f.passed && a.val.isNone && a.bad.isNone && inPair i a.pa then { a with bad := some cProt } else a }

/-- A core of the partition that gives up a stack pair keeps no sector, no partial and no trace buffer there (log entry 129). -/
def Core.without (c : Core) (i : Nat) : Core :=
  { c with
    l1 := c.l1.filter fun x => !inPair i (x.1 * 32)
    abuf := c.abuf.filter fun x => !inPair i x.pa
    dbg := if inPair i c.dbg.tbase.toNat && c.dbg.ctl.getLsbD 0 then { c.dbg with ctl := c.dbg.ctl &&& ~~~1#64, buf := [] } else c.dbg
    strands := c.strands.map fun e => (e.1, { e.2 with flights := e.2.flights.map fun f => (f.1, f.2.without i) }) }

/-- A stack pair leaves a partition: it is zeroed, and nothing of the partition reaches it any more, its overflow area there included
(R184, R363, R384). -/
def Device.zeroPair (d : Device) (pn i : Nat) : Device :=
  let d := d.dropTags (i * 2 ^ 37) (2 ^ 37)
  let p := d.partAt pn
  let d := if p.ovfSize ≠ 0 && inPair i p.ovfBase then d.setPart pn { p with ovfBase := 0, ovfSize := 0, ovfOrder := [], ovfTickets := [] } else d
  { d with
    mem := d.mem.zero (i * 2 ^ 37) (2 ^ 37)
    cores := d.cores.map fun c => if p.hasQuad (quadOf c.1) then (c.1, c.2.without i) else c
    dies := d.dies.map fun x => (x.1, { x.2 with copies := x.2.copies.filter fun c => !inPair i (c.1 % 2 ^ 128 * 32) }) }

/-- The partition's share of a die's L2 is zeroed: non-home copies, and the conflict tags of the lines homed there (R18, R188). -/
def Device.zeroL2 (d : Device) (pn die : Nat) : Device :=
  let x := d.dieAt die
  let p := d.partAt pn
  { d.setDie die { x with copies := x.copies.filter fun c => c.1 / 2 ^ 128 != pn } with
    ctags := d.ctags.filter fun t => !p.homes die t.1 }

/-- The partition gives up what it does not keep. -/
def Device.giveUp (d : Device) (pn : Nat) (quads : BitVec 128) (pairs : BitVec 8) (shares : List Nat) : Device :=
  let p := d.partAt pn
  let d := ((List.range 128).filter fun q => p.quads.getLsbD q && !quads.getLsbD q).foldl Device.zeroQuad d
  let d := ((List.range 8).filter fun i => p.pairs.getLsbD i && !pairs.getLsbD i).foldl (fun d i => d.zeroPair pn i) d
  ((List.range 4).filter fun i => shares.getD i 0 < shareOf p i).foldl (fun d i => d.zeroL2 pn i) d

/-- A partition has changed its owner: its keys are withdrawn (R385), and the bridges that its former owner bound are zeroed (R374, R384);
they are live again once the new owner has bound them (log entry 98). -/
def Device.changeOwner (d : Device) (clock pn port : Nat) : Device :=
  let d := d.bridges.foldl (fun d b => match b.2.leave pn with | some x => d.zeroBridge b.1 x clock | none => d) d
  d.setPart pn { d.partAt pn with owner := some port, keys := [] }

/-- The owner of a partition as semaphores have it now; a partition that none owns keeps what its last owner left. -/
def Device.settleOwner (d : Device) (clock pn : Nat) : Device :=
  match d.holder pn with
  | some port => if (d.partAt pn).owner = some port then d else d.changeOwner clock pn port
  | none => d

/-- Dies on which a share of the L2 is required (R18). -/
def needsL2 (quads : BitVec 128) (pairs : BitVec 8) (die : Nat) : Bool :=
  quads.toNat / 2 ^ (32 * die) % 2 ^ 32 ≠ 0 || pairs.toNat / 2 ^ (2 * die) % 4 ≠ 0

/-- Opcode 0x0010. A share asked for on a die where the partition has neither a quad nor a homed pair is not held (R18). -/
def execConfigure (part : Nat) (s : State) : Out :=
  let clock := s.clock
  runCmd 0x10 part
    (fun f _ => f 0x11 3 = 0 && f 0x18 8 = 0 && (List.range 4).all fun i => f (0x14 + i) 1 ≤ 16)
    (fun f d =>
      let p := d.partAt part
      let quads := BitVec.ofNat 128 (f 0 16)
      let pairs := BitVec.ofNat 8 (f 0x10 1)
      let asked := (List.range 4).map fun i => f (0x14 + i) 1
      let shares := (List.range 4).map fun i => if needsL2 quads pairs i then asked.getD i 0 else 0
      let others := d.parts.filter fun x => x.1 != part
      if p.sealed then .bad 2
      else if others.any (fun x => x.2.quads &&& quads != 0 || x.2.pairs &&& pairs != 0) ||
          (List.range 4).any fun i => 16 < others.foldl (fun n x => n + shareOf x.2 i) (asked.getD i 0) then .bad 3
      else if quads = 0 || pairs = 0 then .bad 4
      else if (List.range 4).any fun i => needsL2 quads pairs i && shares.getD i 0 = 0 then .bad 5
      else
        let d := (d.giveUp part quads pairs shares).settleOwner clock part
        let p := d.partAt part
        let p := { p with
          quads := quads, pairs := pairs, shares := shares, configured := true, clock0 := if p.configured then p.clock0 else clock
          ahead := if p.configured then p.ahead else 0
          ordinals := if p.configured then p.ordinals else 0 }
        let d := d.setPart part p
        .ok (d.setPart part { p with master := (d.diesOf part).headD 0 })) s

def execSealPartition (part : Nat) (s : State) : Out :=
  runCmd 0x11 part (fun _ none_ => none_) (fun _ d =>
    let p := d.partAt part
    if p.sealed then .bad 2 else .ok (d.setPart part { p with sealed := true })) s

/-! ### Address spaces (0x0020 to 0x0023) -/

/-- An ASID that is live in the partition. -/
def Device.asidIn (d : Device) (pn a : Nat) : Option Asid := (tget d.asids a).bind fun x => if x.part = pn then some x else none

/-- The physical range that a range entry's target covers, when it lies in the stacks. -/
def rangeTarget (m : Memory) (e : Nat) : List (Nat × Nat) :=
  let base := m.nat e 8
  let limit := m.nat (e + 8) 8
  let off := m.nat (e + 16) 8
  let f := m.nat (e + 24) 8
  if bitN f 0 && fieldN f 5 3 ≤ 1 && fieldN f 8 2 ≠ 3 && f < 2 ^ 25 && base < limit then [((base + off) % 2 ^ 64, limit - base)] else []

/-- The frame of a leaf entry of a level, when it is valid and lies in the stacks. -/
def leafFrame (level e : Nat) : List (Nat × Nat) :=
  if entryOk e && bitN e 63 && level ≤ 3 && fieldN e 5 3 ≤ 1 then [(fieldN e 12 40 * 4096, 2 ^ (12 + 9 * (level - 1)))] else []

/-- Every frame that a table of a level maps. -/
def frames (m : Memory) : Nat → Nat → List (Nat × Nat)
  | 0, _ => []
  | l + 1, tbl => (List.range 512).flatMap fun i =>
    let e := m.nat (tbl + 8 * i) 8
    if !entryOk e then []
    else if bitN e 63 then leafFrame (l + 1) e
    else frames m l (fieldN e 12 40 * 4096)

/-- The table that an entry of a level points to. -/
def pointee (level e : Nat) : Option Nat := if 2 ≤ level && entryOk e && !bitN e 63 then some (fieldN e 12 40 * 4096) else none

/-- The frames that an entry of a level maps, by itself or through lower tables. -/
def entryFrames (m : Memory) (level e : Nat) : List (Nat × Nat) :=
  match pointee level e with
  | some t => frames m (level - 1) t
  | none => leafFrame level e

/-- The tables that an entry of a level adds to an address space: the page it points to and those below it, each with the table that
points to it. -/
def subTables (m : Memory) : Nat → Nat → Nat → List (Nat × Nat)
  | 0, _, _ => []
  | l + 1, tbl, e => match pointee (l + 1) e with
    | none => []
    | some t => (t, tbl) :: (List.range 512).flatMap fun i => subTables m l t (m.nat (t + 8 * i) 8)

/-- Opcode 0x0020 without bit 15. Tables that are there already map at once, so the command waits while storage that they map lies in the
quarantine queue (R202). -/
def execAsidCreate (part : Nat) (s : State) : Out :=
  runCmd 0x20 part
    (fun f _ => fieldN (f 0 8) 12 3 = 0 && f 2 6 = 0 && (bitN (f 0 2) 15 ||
      (f 8 8 % 4096 = 0 && f 0x10 8 % 2048 = 0 && f 0x18 8 % 128 = 0 && f 0x20 8 ≤ 65536)))
    (fun f d =>
      let a := f 0 2 % 4096
      let p := d.partAt part
      if bitN (f 0 2) 15 then .wait d
      else if (tget d.asids a).isSome then .bad 3
      else if !(p.inPairs (f 8 8) 4096 && p.inPairs (f 0x10 8) 2048 && p.inPairs (f 0x18 8) (128 * f 0x20 8)) then .bad 4
      else if d.queued ((((List.range 64).flatMap fun i => rangeTarget d.mem (f 0x10 8 + 32 * i)) ++ frames d.mem 5 (f 8 8)).flatMap p.clip)
        then .wait d
      else .ok { d with
        asids := tset d.asids a ⟨part, f 8 8, f 0x10 8, f 0x18 8, f 0x20 8⟩
        tables := d.tables ++ (List.range 512).flatMap fun i =>
          (subTables d.mem 5 (f 8 8) (d.mem.nat (f 8 8 + 8 * i) 8)).map fun e => (a, e.1, e.2) }) s

def execAsidDestroy (part : Nat) (s : State) : Out :=
  runCmd 0x20 part
    (fun f _ => fieldN (f 0 8) 12 3 = 0 && f 2 6 = 0)
    (fun f d =>
      let a := f 0 2 % 4096
      if !bitN (f 0 2) 15 then .wait d
      else if d.launches.any fun l => l.2.part = part && l.2.asid = a then .bad 2
      else match d.asidIn part a with
        | none => .bad 4
        | some x =>
          let rs := ((List.range 64).flatMap fun i => rangeTarget d.mem (x.ranges + 32 * i)) ++ frames d.mem 5 x.root
          match d.quarantined part rs with
          | .ok d =>
            let p := d.partAt part
            let d := d.setPart part { p with kernels := p.kernels.filter fun k => k.1 != a }
            .ok ({ d with
              asids := tdel d.asids a, tables := d.tables.filter (·.1 != a), texts := d.texts.filter (·.2.1 != a) }.dropCode a)
          | r => r) s

/-- Opcode 0x0021. The old entry goes first, its targets enter the queue, and the new one is written once none of its targets lies in
the queue (R202). -/
def execWriteRangeEntry (part : Nat) (s : State) : Out :=
  runCmd 0x21 part
    (fun f _ => f 0 2 < 4096 && f 2 2 < 64 && f 4 12 = 0)
    (fun f d =>
      let a := f 0 2
      match d.asidIn part a with
      | none => .bad 4
      | some x =>
        let e := x.ranges + 32 * f 2 2
        let bs := leBytes 32 (f 0x10 32)
        let m := d.mem.write e bs
        let flags := f 0x28 8
        let same := d.mem.read e 32 = bs
        if !(d.partAt part).holdsTable x.ranges then .bad 4
        else if bitN flags 2 && bitN flags 3 then .bad 6
        else
          match d.quarantined part (if same then [] else rangeTarget d.mem e) with
          | .ok d =>
            if !same && d.queued ((rangeTarget m e).flatMap (d.partAt part).clip) then
              .wait ({ d with mem := d.mem.write e (leBytes 32 0) }.dropCode a)
            else .ok ({ d with mem := m }.dropCode a)
          | r => r) s

/-- The table of a level on the walk to an address: every upper entry valid and no leaf, every table in the partition. -/
def tableAt (p : Partition) (m : Memory) (va level : Nat) : Nat → Nat → Option Nat
  | 0, _ => none
  | l + 1, tbl =>
    if !p.holdsTable tbl then none
    else if l + 1 = level then some tbl
    else
      let e := m.nat (tbl + 8 * fieldN va (12 + 9 * l) 9) 8
      if entryOk e && !bitN e 63 && fieldN e 1 3 = 0 then tableAt p m va level l (fieldN e 12 40 * 4096) else none

/-- Does the storage that a new entry names, a lower table or a page of the stacks, lie in the partition (R380)? A leaf at level 4 or 5
names none (R199). -/
def Partition.entryIn (p : Partition) (level e : Nat) : Bool :=
  if !bitN e 0 then true
  else if bitN e 63 then 3 < level || 1 < fieldN e 5 3 || p.inPairs (fieldN e 12 40 * 4096) (2 ^ (12 + 9 * (level - 1)))
  else p.inPairs (fieldN e 12 40 * 4096) 4096

/-- Texts of an address space without what lies in some ranges of virtual addresses: those pages are retired (R398). -/
def Device.cutTexts (d : Device) (asid : Nat) (spans : List (Nat × Nat)) : Device :=
  { d with texts := d.texts.flatMap fun t => if t.2.1 = asid then
      (minusRanges [(t.2.2.1, t.2.2.2 - t.2.2.1)] spans).map fun r => (t.1, asid, r.1, r.1 + r.2) else [t] }

/-- The entries of a table and its address space after some of them, whose spans begin at `va`, changed: the tables that lie under it
follow (R7, R199). -/
def Device.writeEntries (d : Device) (asid level va tbl idx : Nat) (old new : List Nat) : Device :=
  let size := 2 ^ (12 + 9 * (level - 1))
  let spans := (List.range old.length).filterMap fun i => if old.getD i 0 = new.getD i 0 then none else some (va + i * size, size)
  let d := d.cutTexts asid spans
  let m := d.mem.write (tbl + 8 * idx) (new.flatMap (leBytes 8))
  let off := (old.flatMap (subTables d.mem level tbl)).map (·.1)
  let on := (new.flatMap (subTables m level tbl)).map fun e => (asid, e.1, e.2)
  { d with mem := m, tables := (d.tables.filter fun t => !(t.1 = asid && off.contains t.2.1)) ++ on }

/-- Opcode 0x0022 with an op (R200, R202, R380). Entries whose frames change go first, those frames enter the queue, and the new entries
are written once none of their frames lies in the queue (R202). -/
def pagesCmd (op part : Nat) (s : State) : Out :=
  runCmd 0x22 part
    (fun f _ =>
      let n := f 4 2
      f 0 2 < 4096 && 1 ≤ f 2 1 && f 2 1 ≤ 5 && f 3 1 ≤ 1 && 1 ≤ n && n ≤ 512 && f 6 2 = 0 && f 0x10 16 = 0 && f 8 8 < 2 ^ 57 &&
        f 8 8 % 2 ^ (12 + 9 * (f 2 1 - 1)) = 0)
    (fun f d =>
      let level := f 2 1
      let va := f 8 8
      let n := f 4 2
      let idx := fieldN va (12 + 9 * (level - 1)) 9
      let new := (List.range n).map fun i => if op = 0 then f (0x20 + 8 * i) 8 else 0
      if f 3 1 ≠ op then .wait d
      else
        let tbl := (d.asidIn part (f 0 2)).bind fun x => tableAt (d.partAt part) d.mem va level 5 x.root
        match tbl with
        | none => .bad 4
        | some t =>
          let old := (List.range n).map fun i => d.mem.nat (t + 8 * (idx + i)) 8
          if 512 < idx + n || !new.all ((d.partAt part).entryIn level) then .bad 4
          else if new.any fun e => bitN e 2 && bitN e 3 then .bad 6
          else
            let lost := fun (x : Nat × Nat) => if x.1 = x.2 then [] else
              minusRanges (entryFrames d.mem level x.1) (entryFrames d.mem level x.2)
            let kept := (old.zip new).map fun x => if (lost x).isEmpty then x.1 else 0
            match d.quarantined part ((old.zip new).flatMap lost) with
            | .ok d =>
              let gained := (old.zip new).flatMap fun x => if x.1 = x.2 then [] else entryFrames d.mem level x.2
              if d.queued (gained.flatMap (d.partAt part).clip) then .wait ((d.writeEntries (f 0 2) level va t idx old kept).dropCode (f 0 2))
              else .ok ((d.writeEntries (f 0 2) level va t idx old new).dropCode (f 0 2))
            | r => r) s

def execPagesWrite (part : Nat) (s : State) : Out := pagesCmd 0 part s
def execPagesInvalidate (part : Nat) (s : State) : Out := pagesCmd 1 part s

def execWriteTensorRecord (part : Nat) (s : State) : Out :=
  runCmd 0x23 part
    (fun f _ => f 0 2 < 4096 && f 4 12 = 0)
    (fun f d =>
      match d.asidIn part (f 0 2) with
      | some x => if x.ntensors ≤ f 2 2 || !(d.partAt part).holdsTable (x.tensors + 128 * f 2 2) then .bad 4
        else .ok { d with mem := d.mem.write (x.tensors + 128 * f 2 2) (leBytes 128 (f 0x10 128)) }
      | none => .bad 4) s

/-! ### Group, export, bridge and pod tables (0x0024 to 0x0026, 0x0029) -/

/-- A member list of n entries of 16 bits. -/
def Device.members (d : Device) (pn a n : Nat) : List Nat := (List.range n).map fun i => d.mem.nat (d.locPlace pn (a + 2 * i)) 2

/-- Does the list name this device at a rank? -/
def namesMe (ms : List Nat) (rank : Nat) : Bool :=
  match ms[rank]? with
  | some x => x % 2 ^ 14 = Config.pkgNumber.toNat
  | none => false

def Group.empty : Group := ⟨false, 0, 0, [], [], 0⟩

def execWriteGroupEntry (part : Nat) (s : State) : Out :=
  runCmd 0x24 part
    (fun f _ => f 1 1 ≤ 1 && 1 ≤ f 2 2 && f 2 2 ≤ 16384)
    (fun f d =>
      let h := f 0 1
      let p := d.partAt part
      let old := tgetD p.groups h .empty
      let m := f 2 2
      let rank := f 4 4
      let ms := d.members part (f 8 8) m
      if m ≤ rank || !namesMe ms rank then .bad 4
      else .ok (d.setPart part { p with
        groups := tset p.groups h { old with valid := f 1 1 = 1, m := m, rank := rank, members := ms } })) s

def execWriteExportEntry (part : Nat) (s : State) : Out :=
  runCmd 0x25 part
    (fun f _ => f 0 1 < 64 && f 1 1 < 8 && f 2 6 = 0 && f 0x18 2 < 2 ^ 14 && f 0x1A 2 < 2 ^ 14 && f 0x1C 4 = 0 && f 0x28 8 = 0)
    (fun f d =>
      let x : Export := {
        valid := bitN (f 1 1) 0, r := bitN (f 1 1) 1, w := bitN (f 1 1) 2, base := f 8 8, limit := f 0x10 8, first := f 0x18 2
        last := f 0x1A 2, local_ := f 0x20 8 }
      let p := d.partAt part
      if x.limit ≤ x.base || !p.inPairs x.local_ (x.limit - x.base) then .bad 4
      else .ok (d.setPart part { p with exports := tset p.exports (f 0 1) x })) s

def Bridge.empty : Bridge := ⟨none, none, 0, [], (0, 0), (0, 0)⟩

/-- Opcode 0x0026 with an action (R373, R374): 0 bind as sender, 1 as receiver, 2 unbind. -/
def bridgeCmd (act part : Nat) (body : Nat → Nat → Nat → Device → Bridge → Cmd) (s : State) : Out :=
  runCmd 0x26 part
    (fun f _ => f 0 1 < 16 && f 1 1 ≤ 2 && f 2 1 < 8 && f 3 1 = 0 && f 5 3 = 0 && f 8 8 = 0 &&
      (f 1 1 ≠ 0 || (1 ≤ f 4 1 && f 4 1 ≤ 12)))
    (fun f d => if f 1 1 ≠ act then .wait d else body (f 0 1) (f 2 1) (f 4 1) d (tgetD d.bridges (f 0 1) .empty)) s

/-- Is an end of the bridge bound by other partitions than these two? -/
def Bridge.foreign (b : Bridge) (x y : Nat) : Bool :=
  let other := fun (e : Option (Nat × Nat)) => match e with
    | some (p, q) => !((p = x && q = y) || (p = y && q = x))
    | none => false
  other b.sender || other b.receiver

def execBindBridgeSender (part : Nat) (s : State) : Out :=
  bridgeCmd 0 part (fun n peer logc d b =>
    if b.foreign part peer then .bad 3
    else if (match b.sender with | some e => e != (part, peer) | none => false) ||
        (match b.receiver with | some e => e != (peer, part) | none => false) then .bad 4
    else .ok { d with bridges := tset d.bridges n { b with sender := some (part, peer), cap := 2 ^ logc } }) s

def execBindBridgeReceiver (part : Nat) (s : State) : Out :=
  bridgeCmd 1 part (fun n peer _ d b =>
    if b.foreign part peer then .bad 3
    else if (match b.receiver with | some e => e != (part, peer) | none => false) ||
        (match b.sender with | some e => e != (peer, part) | none => false) then .bad 4
    else .ok { d with bridges := tset d.bridges n { b with receiver := some (part, peer) } }) s

/-- The bridge without the bindings of a partition: its ring and state are zeroed, and the peer hears of it (R374, R381). -/
def Device.unbind (d : Device) (clock part n : Nat) : Device :=
  let b := tgetD d.bridges n .empty
  match b.leave part with
  | some x => ([x.sender, x.receiver].filterMap fun e => e.map (·.1)).foldl (fun d p => d.pevent p 3) (d.zeroBridge n x clock)
  | none => d

def execUnbindBridge (part : Nat) (s : State) : Out :=
  let clock := s.clock
  bridgeCmd 2 part (fun n peer _ d b => if b.foreign part peer then .bad 3 else .ok (d.unbind clock part n)) s

/-- Opcode 0x0029 with an action (R372): bind or unbind. -/
def podCmd (unbind : Bool) (part : Nat) (body : Nat → Opnd → Device → Cmd) (s : State) : Out :=
  runCmd 0x29 part
    (fun f _ => f 0 1 < 16 && f 1 1 ≤ 1 && f 2 2 = 0 && f 0xC 4 = 0 && (f 1 1 = 1 || (1 ≤ f 8 2 && f 8 2 ≤ 16384)))
    (fun f d => if (f 1 1 = 1) != unbind then .wait d else body (f 0 1) f d) s


def execBindPodGroup (part : Nat) (s : State) : Out :=
  podCmd false part (fun slot f d =>
    let p := d.partAt part
    let key := f 4 4
    let m := f 8 2
    let rank := f 0xA 2
    let ms := (d.members part (f 0x10 8) m).map (· % 2 ^ 14)
    if p.pods.any fun x => x.1 != slot && x.2.key = key then .bad 3
    else if m ≤ rank || !namesMe ms rank then .bad 4
    else .ok (d.setPart part { p with pods := tset p.pods slot ⟨key, m, rank, ms, false⟩ })) s

def execUnbindPodGroup (part : Nat) (s : State) : Out :=
  podCmd true part (fun slot _ d =>
    let p := d.partAt part
    if d.launches.any fun l => l.2.part = part && l.2.podgrp = some slot then .bad 2
    else .ok (d.setPart part { p with pods := tdel p.pods slot })) s

/-! ### Queues, the overflow area, keys, the cap, cancelling -/

def execSetQueue (part : Nat) (s : State) : Out :=
  runCmd 0x27 part
    (fun f _ => f 0 1 < 8 && f 1 1 ≤ 1 && f 2 2 < 4096 && f 5 3 = 0 && f 0x10 8 = 0 &&
      (f 0 1 = 0 || (4 ≤ f 4 1 && f 4 1 ≤ 12 && f 8 8 % 64 = 0)))
    (fun f d =>
      let q := f 0 1
      let x := d.hq part q
      if (if q = 0 then 1 < d.unfetched part 0 else d.unfetched part q ≠ 0) then .bad 2
      else if (d.asidIn part (f 2 2)).isNone || (q ≠ 0 && f 1 1 = 1 && !(d.partAt part).inPairs (f 8 8) (64 * 2 ^ f 4 1)) then .bad 4
      else if q = 0 then .ok (d.setHq part 0 { x with asid := some (f 2 2) })
      else .ok (d.setHq part q { x with
        set_ := true, dev := f 1 1 = 1, base := f 8 8, logc := f 4 1, asid := some (f 2 2), head := 0, tail := 0 })) s

def execSetOverflowArea (part : Nat) (s : State) : Out :=
  runCmd 0x28 part
    (fun f _ => f 0 8 % 4096 = 0 && f 8 8 % 4096 = 0)
    (fun f d =>
      let p := d.partAt part
      if d.launches.any fun l => l.2.part = part then .bad 2
      else if f 8 8 ≠ 0 && !p.inPairs (f 0 8) (f 8 8) then .bad 4
      else .ok (d.setPart part { p with ovfBase := f 0 8, ovfSize := f 8 8, ovfOrder := [], ovfTickets := [] })) s

/-- Opcode 0x0031 with an action: enrol or withdraw a key (R385). -/
def keyCmd (withdraw : Bool) (part : Nat) (body : Nat → Opnd → Device → Partition → Cmd) (s : State) : Out :=
  runCmd 0x31 part
    (fun f _ => f 0 1 < 8 && f 1 1 ≤ 1 && f 2 6 = 0)
    (fun f d => if (f 1 1 = 1) != withdraw then .wait d else body (f 0 1) f d (d.partAt part)) s

def execEnrolKey (part : Nat) (s : State) : Out :=
  keyCmd false part (fun slot f d p => .ok (d.setPart part { p with keys := tset p.keys slot (leBytes 48 (f 8 48)) })) s

def execWithdrawKey (part : Nat) (s : State) : Out :=
  keyCmd true part (fun slot _ d p =>
    if (tget p.keys slot).isNone then .bad 4 else .ok (d.setPart part { p with keys := tdel p.keys slot })) s

/-- A cap may only be lowered (R383, R388). -/
def execSetPowerCap (part : Nat) (s : State) : Out :=
  runCmd 0x32 part (fun f _ => f 2 6 = 0) (fun f d =>
    let p := d.partAt part
    if p.cap ≤ f 0 2 then .bad 3 else .ok (d.setPart part { p with cap := f 0 2 })) s

/-- Opcode 0x0040: a launch that runs ends as under R341, one that waits completes at once, both with status 0x04. -/
def execCancelLaunch (part : Nat) (s : State) : Out :=
  let clock := s.clock
  runCmd 0x40 part
    (fun f _ => f 0 1 < 8 && f 1 7 = 0)
    (fun f d =>
      let q := f 0 1
      let desc := f 8 8
      let d := if q = 0 then d else d.fetchAll (d.unfetched part q) clock part q
      let x := d.hq part q
      match x.running.bind fun l => (tget d.launches l).bind fun y => if y.desc = desc then some (l, y) else none with
      | some (l, y) => .ok { d with launches := tset d.launches l { y with ending := some (y.ending.getD (4, [])) } }
      | none =>
        if !x.waiting.contains desc then .bad 4
        else
          let at_ := (d.descriptor part q desc).map fun bs => bytesNat bs 0x30 8
          let d := d.setHq part q { x with waiting := x.waiting.erase desc }
          .ok (d.postRecord part q at_ (completionBytes 4 0 0 0 ((d.partAt part).now clock) []))) s

end Sys2Proof.Machine
end

