-- ==== Sys2Proof/Machine/Compare.lean ====
section
/-! DEFINITION. Comparisons into masks, majors 0x03 and 0x04 (R78, R79). -/
namespace Sys2Proof.Machine

def cmpOp (c : Cond) (o : CmpOp) (s : State) : Ex State :=
  maskOp o.md o.mask [(o.a, o.ty), (o.b, o.ty)] (fun v => condInt c o.ty o.uns (v.getD 0 0) (v.getD 1 0)) s

def cmpIOp (c : Cond) (o : CmpIOp) (s : State) : Ex State :=
  maskOp o.md o.mask [(o.a, o.ty)] (fun v => condInt c o.ty o.uns (v.getD 0 0) (o.imm.signExtend 64)) s

def execCmpEq (o : CmpOp) (s : State) : Out := (cmpOp .eq o s).out
def execCmpNe (o : CmpOp) (s : State) : Out := (cmpOp .ne o s).out
def execCmpLt (o : CmpOp) (s : State) : Out := (cmpOp .lt o s).out
def execCmpLe (o : CmpOp) (s : State) : Out := (cmpOp .le o s).out
def execCmpGt (o : CmpOp) (s : State) : Out := (cmpOp .gt o s).out
def execCmpGe (o : CmpOp) (s : State) : Out := (cmpOp .ge o s).out
def execCmpiEq (o : CmpIOp) (s : State) : Out := (cmpIOp .eq o s).out
def execCmpiNe (o : CmpIOp) (s : State) : Out := (cmpIOp .ne o s).out
def execCmpiLt (o : CmpIOp) (s : State) : Out := (cmpIOp .lt o s).out
def execCmpiLe (o : CmpIOp) (s : State) : Out := (cmpIOp .le o s).out
def execCmpiGt (o : CmpIOp) (s : State) : Out := (cmpIOp .gt o s).out
def execCmpiGe (o : CmpIOp) (s : State) : Out := (cmpIOp .ge o s).out

end Sys2Proof.Machine
end

