-- ==== Sys2Proof/Machine/CrossLane.lean ====
section
/-! DEFINITION. Cross-lane operations, major 0x20 (R168 to R172), and mask operations, major 0x21 (R173). -/
namespace Sys2Proof.Machine

/-- A cross-lane instruction (R168), with the widths of its result and of the values of `a`: `f` gets the enabled set that can proceed, the values of `a`, and those of its other source;
it answers the lane values and the mask that it writes beside them. -/
def crossOp (d : Dest) (m : Fin 16) (wide sw : Bool) (a : Fin 128) (srcs : List (Src × Ty)) (mo : Fin 16)
    (f : LaneSet → (Nat → Word) → (Nat → Word) → (Nat → Word) × (Nat → Bool)) (s : State) : Ex State := do
  let en := s.enabled d m
  let r ← readSrcs ((.vec a, if sw then .n64 else .n32) :: srcs) [] en s
  checkDest d wide s r.2.2
  let good := without en r.2.1
  let va := r.1.getD 0 (.one 0)
  let vb := r.1.getD 1 (.one 0)
  let out := f good (fun l => fit sw (va.at l)) vb.at
  let s1 := writeDest d wide good out.1 r.2.2
  let s2 := if mo = 0 then s1
    else { s1 with path := s1.path.setMask mo (ofLanes ((lanesOf s.strand.width good).filter out.2)) }
  let s3 ← splitLanes s s2 s.path.pc 0 r.2.1 [] []
  .ok s3.done

/-- The signed value of 32 bits. -/
def sint32 (x : Word) : Int := (x.setWidth 32).toInt

/-- A result of signed 32-bit arithmetic. -/
def wrap32 (x : Int) : Int := (BitVec.ofInt 32 x).toInt

/-- The source lane of a raw index, and whether it was out of range (R128, R169). -/
def srcLane (w : Nat) (j : Int) : Nat × Bool := ((j.emod w).toNat, j < 0 || (w : Int) ≤ j)

def shflOp (raw : Int → Int → Int) (o : ShflOp) (s : State) : Ex State :=
  let w := s.strand.width
  crossOp o.d o.mask o.ty.wide o.ty.wide o.a [(o.b, .i32)] o.mo (fun en a b =>
    let at_ := fun (l : Nat) => srcLane w (raw l (sint32 (b l)))
    (fun l => if en.getLsbD (at_ l).1 then a (at_ l).1 else 0, fun l => (at_ l).2)) s

def execShflIdx (o : ShflOp) (s : State) : Out := (shflOp (fun _ b => b) o s).out
def execShflUp (o : ShflOp) (s : State) : Out := (shflOp (fun i b => wrap32 (i - b)) o s).out
def execShflDn (o : ShflOp) (s : State) : Out := (shflOp (fun i b => wrap32 (i + b)) o s).out
def execShflXor (o : ShflOp) (s : State) : Out :=
  (shflOp (fun i b => (BitVec.ofInt 32 i ^^^ BitVec.ofInt 32 b).toInt) o s).out

/-- `bcast` (R169): one index for all lanes; a scalar destination takes the value once. -/
def execBcast (o : ShflOp) (s : State) : Out := (shflOp (fun _ b => b) o s).out

/-- Lanes of a set with the value of a lane. -/
def peers (w : Nat) (en : LaneSet) (a : Nat → Word) (l : Nat) : List Nat := (lanesOf w en).filter fun j => a j == a l

def execMatchLanes (o : MatchOp) (s : State) : Out :=
  (crossOp o.d o.mask false o.ty.wide o.a [] o.ml (fun en a _ =>
    let ps := peers s.strand.width en a
    (fun l => BitVec.ofNat 64 (if o.cnt then (ps l).length else (ps l).headD 0), fun l => (ps l).headD 0 == l)) s).out

def execMrank (o : MrankOp) (s : State) : Out :=
  (crossOp o.d o.mask false o.ty.wide o.a [] 0 (fun en a _ =>
    (fun l => BitVec.ofNat 64 ((peers s.strand.width en a l).filter (· < l)).length, fun _ => false)) s).out

/-- A scalar written from masks of the path. -/
def maskScalar (d : Dest) (x : Nat) (s : State) : Ex State := do
  let s1 ← setScalar d false (BitVec.ofNat 64 x) s s
  .ok s1.done

def maskWord (m : LaneSet) (j : Nat) : Nat := (m.extractLsb' (32 * j) 32).toNat

/-- `ballot` and `ballot.sum` (R171). -/
def ballotOp (d : Dest) (ms : Fin 16) (b : Option SC) (s : State) : Ex State :=
  let m := s.path.mask ms
  match b with
  | none =>
    maskScalar d ((List.range 32).foldl (fun n j => n + if maskWord m j = 0 then 0 else 2 ^ j) 0) s
  | some b => do
    let r ← readSrcs [(scSrc b, .n32)] [] s.path.lanes s
    let j := natAt .n32 ((r.1.map (·.at 0)).getD 0 0)
    let s1 ← setScalar d false (BitVec.ofNat 64 (if j < s.strand.width / 32 then maskWord m j else 0)) s r.2.2
    let s2 ← splitLanes s s1 s.path.pc 0 r.2.1 [] []
    .ok s2.done

def execBallot (d : Dest) (ms : Fin 16) (b : Option SC) (s : State) : Out := (ballotOp d ms b s).out
def execAny (d : Dest) (ms : Fin 16) (s : State) : Out :=
  (maskScalar d (if s.path.mask ms = 0 then 0 else 1) s).out
def execAll (d : Dest) (ms : Fin 16) (s : State) : Out :=
  (maskScalar d (if s.path.mask ms = s.path.lanes then 1 else 0) s).out

/-- One step of a combination (R172). -/
def combStep (o : Comb) (t : Ty) (a b : Word) : Word :=
  if t.isInt then match o with | .add => aAdd t a b | .min => aMin t a b | .max => aMax t a b
  else
    let x := a.toNat % 2 ^ t.bits
    let y := b.toNat % 2 ^ t.bits
    BitVec.ofNat 64 (match o with | .add => fAdd t x y | .min => fMin t x y | .max => fMax t x y)

/-- The identities (R172). -/
def combId (o : Comb) (t : Ty) : Word :=
  if t.isInt then match o with | .add => 0 | .min => narrow t (intMax t) | .max => narrow t (intMin t)
  else match o with
    | .add => 0
    | .min => BitVec.ofNat 64 (infiniteCode t false false)
    | .max => BitVec.ofNat 64 (infiniteCode t false true)

/-- A value taken at the width of its type and written to a record; a NaN is written as the canonical one (R110). -/
def atType (t : Ty) (x : Word) : Word := if t.isInt then extendTo t x.toNat else BitVec.ofNat 64 (rne t (valueOf t (natAt t x)))

/-- The running values over lanes in ascending order: for each lane the value before it and the value with it. -/
def runComb (o : Comb) (t : Ty) (a : Nat → Word) : List Nat → Option Word → List (Nat × Option Word × Word)
  | [], _ => []
  | l :: r, acc =>
    let v := match acc with | none => atType t (a l) | some x => combStep o t x (a l)
    (l, acc, v) :: runComb o t a r (some v)

def execScan (o : ScanOp) (s : State) : Out :=
  (crossOp o.d o.mask o.ty.wide o.ty.wide o.a [] 0 (fun en a _ =>
    let run := runComb o.op o.ty a (lanesOf s.strand.width en) none
    (fun l => match run.find? (·.1 == l) with
      | some (_, before, v) => if o.excl then before.getD (combId o.op o.ty) else v
      | none => 0, fun _ => false)) s).out

def execReduce (o : ReduceOp) (s : State) : Out :=
  (crossOp o.d o.mask o.ty.wide o.ty.wide o.a [] 0 (fun en a _ =>
    let v := match (runComb o.op o.ty a (lanesOf s.strand.width en) none).getLast? with
      | some (_, _, v) => v
      | none => combId o.op o.ty
    (fun _ => v, fun _ => false)) s).out

/-! ### Masks (R173) -/

/-- A mask written under R79 from masks of the path. -/
def maskBits (m md : Fin 16) (x : LaneSet) (s : State) : State :=
  ({ s with path := s.path.setMask md (x &&& s.path.mask m) }).done

def execMand (m md ma mb : Fin 16) (s : State) : Out := .next (maskBits m md (s.path.mask ma &&& s.path.mask mb) s)
def execMor (m md ma mb : Fin 16) (s : State) : Out := .next (maskBits m md (s.path.mask ma ||| s.path.mask mb) s)
def execMxor (m md ma mb : Fin 16) (s : State) : Out := .next (maskBits m md (s.path.mask ma ^^^ s.path.mask mb) s)
def execMnot (m md ma : Fin 16) (s : State) : Out := .next (maskBits m md (~~~(s.path.mask ma)) s)

def execMpop (d : Dest) (ma : Fin 16) (s : State) : Out := (maskScalar d (countLanes s.strand.width (s.path.mask ma)) s).out
def execMfirst (d : Dest) (ma : Fin 16) (s : State) : Out :=
  (maskScalar d ((lanesOf s.strand.width (s.path.mask ma)).headD 0xFFFFFFFF) s).out
def execMlast (d : Dest) (ma : Fin 16) (s : State) : Out :=
  (maskScalar d ((lanesOf s.strand.width (s.path.mask ma)).getLastD 0xFFFFFFFF) s).out

end Sys2Proof.Machine
end

