-- ==== Sys2Proof/Machine/Signature.lean ====
section
/-! DEFINITION. The signature scheme of code objects and firmware, SLH-DSA-SHA2-192s (R385): R385 names it and FIPS 205 for its
definition, which is taken from that standard and from FIPS 180-4 (log entry 9). -/
namespace Sys2Proof.Machine

/-! ### SHA-256 and SHA-512 (FIPS 180-4) -/

/-- First 64 bits of the fractional parts of the cube roots of the first 80 primes: the round constants of SHA-512, and with their
upper halves those of SHA-256. -/
def shaK : List Nat :=
  [0x428a2f98d728ae22, 0x7137449123ef65cd, 0xb5c0fbcfec4d3b2f, 0xe9b5dba58189dbbc,
    0x3956c25bf348b538, 0x59f111f1b605d019, 0x923f82a4af194f9b, 0xab1c5ed5da6d8118,
    0xd807aa98a3030242, 0x12835b0145706fbe, 0x243185be4ee4b28c, 0x550c7dc3d5ffb4e2,
    0x72be5d74f27b896f, 0x80deb1fe3b1696b1, 0x9bdc06a725c71235, 0xc19bf174cf692694,
    0xe49b69c19ef14ad2, 0xefbe4786384f25e3, 0x0fc19dc68b8cd5b5, 0x240ca1cc77ac9c65] ++
  [0x2de92c6f592b0275, 0x4a7484aa6ea6e483, 0x5cb0a9dcbd41fbd4, 0x76f988da831153b5,
    0x983e5152ee66dfab, 0xa831c66d2db43210, 0xb00327c898fb213f, 0xbf597fc7beef0ee4,
    0xc6e00bf33da88fc2, 0xd5a79147930aa725, 0x06ca6351e003826f, 0x142929670a0e6e70,
    0x27b70a8546d22ffc, 0x2e1b21385c26c926, 0x4d2c6dfc5ac42aed, 0x53380d139d95b3df,
    0x650a73548baf63de, 0x766a0abb3c77b2a8, 0x81c2c92e47edaee6, 0x92722c851482353b] ++
  [0xa2bfe8a14cf10364, 0xa81a664bbc423001, 0xc24b8b70d0f89791, 0xc76c51a30654be30,
    0xd192e819d6ef5218, 0xd69906245565a910, 0xf40e35855771202a, 0x106aa07032bbd1b8,
    0x19a4c116b8d2d0c8, 0x1e376c085141ab53, 0x2748774cdf8eeb99, 0x34b0bcb5e19b48a8,
    0x391c0cb3c5c95a63, 0x4ed8aa4ae3418acb, 0x5b9cca4f7763e373, 0x682e6ff3d6b2b8a3,
    0x748f82ee5defb2fc, 0x78a5636f43172f60, 0x84c87814a1f0ab72, 0x8cc702081a6439ec] ++
  [0x90befffa23631e28, 0xa4506cebde82bde9, 0xbef9a3f7b2c67915, 0xc67178f2e372532b,
    0xca273eceea26619c, 0xd186b8c721c0c207, 0xeada7dd6cde0eb1e, 0xf57d4f7fee6ed178,
    0x06f067aa72176fba, 0x0a637dc5a2c898a6, 0x113f9804bef90dae, 0x1b710b35131c471b,
    0x28db77f523047d84, 0x32caab7b40c72493, 0x3c9ebe0a15c9bebc, 0x431d67c49c100d4c,
    0x4cc5d4becb3e42b6, 0x597f299cfc657e2a, 0x5fcb6fab3ad6faec, 0x6c44198c4a475817]

/-- First 64 bits of the fractional parts of the square roots of the first 8 primes: the initial values, of SHA-256 their upper halves. -/
def shaH : List Nat :=
  [0x6a09e667f3bcc908, 0xbb67ae8584caa73b, 0x3c6ef372fe94f82b, 0xa54ff53a5f1d36f1,
    0x510e527fade682d1, 0x9b05688c2b3e6c1f, 0x1f83d9abfb41bd6b, 0x5be0cd19137e2179]

/-- One of the two hash functions: the width of its words, three rotations of each of Σ0 and Σ1, two rotations and a shift of each of σ0
and σ1, and the number of its rounds. -/
structure Sha (w : Nat) where
  bigA : Nat × Nat × Nat
  bigE : Nat × Nat × Nat
  small0 : Nat × Nat × Nat
  small1 : Nat × Nat × Nat
  rounds : Nat

def sha256 : Sha 32 := ⟨(2, 13, 22), (6, 11, 25), (7, 18, 3), (17, 19, 10), 64⟩
def sha512 : Sha 64 := ⟨(28, 34, 39), (14, 18, 41), (1, 8, 7), (19, 61, 6), 80⟩

/-- The bytes of a number, the most significant first. -/
def beBytes (n v : Nat) : List Byte := (List.range n).map fun i => BitVec.ofNat 8 (v / 2 ^ (8 * (n - 1 - i)))

/-- The number of some bytes, the most significant first. -/
def beNat (bs : List Byte) : Nat := bs.foldl (fun n b => 256 * n + b.toNat) 0

def rot3 {w : Nat} (r : Nat × Nat × Nat) (x : BitVec w) : BitVec w := x.rotateRight r.1 ^^^ x.rotateRight r.2.1 ^^^ x.rotateRight r.2.2
def rotShift {w : Nat} (r : Nat × Nat × Nat) (x : BitVec w) : BitVec w := x.rotateRight r.1 ^^^ x.rotateRight r.2.1 ^^^ x >>> r.2.2

/-- A round: the eight working variables, and the next 16 words of the message schedule. -/
def Sha.round {w : Nat} (f : Sha w) (s : List (BitVec w) × List (BitVec w)) (k : Nat) : List (BitVec w) × List (BitVec w) :=
  match s with
  | ([a, b, c, d, e, g, h, i], m) =>
    let m0 := m.headD 0
    let t1 := i + rot3 f.bigE e + ((e &&& g) ^^^ (~~~e &&& h)) + BitVec.ofNat w (k / 2 ^ (64 - w)) + m0
    let t2 := rot3 f.bigA a + ((a &&& b) ^^^ (a &&& c) ^^^ (b &&& c))
    let next := rotShift f.small1 (m.getD 14 0) + m.getD 9 0 + rotShift f.small0 (m.getD 1 0) + m0
    ([t1 + t2, a, b, c, d + t1, e, g, h], m.drop 1 ++ [next])
  | s => s

/-- One block of 16 words into the chaining value. -/
def Sha.block {w : Nat} (f : Sha w) (h : List (BitVec w)) (bs : List Byte) : List (BitVec w) :=
  let m := (List.range 16).map fun i => BitVec.ofNat w (beNat ((bs.drop (w / 8 * i)).take (w / 8)))
  List.zipWith (· + ·) h ((shaK.take f.rounds).foldl f.round (h, m)).1

/-- The digest of a message. -/
def Sha.hash {w : Nat} (f : Sha w) (msg : List Byte) : List Byte :=
  let size := 2 * w
  let used := msg.length + 1 + w / 4
  let padded := msg ++ 0x80#8 :: List.replicate ((size - used % size) % size) 0#8 ++ beBytes (w / 4) (8 * msg.length)
  let h := (List.range (padded.length / size)).foldl (fun h i => f.block h ((padded.drop (size * i)).take size))
    (shaH.map fun x => BitVec.ofNat w (x / 2 ^ (64 - w)))
  h.flatMap fun x => beBytes (w / 8) x.toNat

/-! ### The functions of SLH-DSA-SHA2-192s (FIPS 205): n = 24, h = 63, d = 7, h' = 9, a = 14, k = 17, w = 16, m = 39 -/

/-- An address: layer, tree, type, and three words. -/
structure SlhAdrs where
  layer : Nat
  tree : Nat
  ty : Nat
  w1 : Nat
  w2 : Nat
  w3 : Nat

/-- The compressed form of 22 bytes. -/
def SlhAdrs.bytes (x : SlhAdrs) : List Byte :=
  beBytes 1 x.layer ++ beBytes 8 x.tree ++ beBytes 1 x.ty ++ beBytes 4 x.w1 ++ beBytes 4 x.w2 ++ beBytes 4 x.w3

def slhF (seed : List Byte) (x : SlhAdrs) (m : List Byte) : List Byte :=
  (sha256.hash (seed ++ List.replicate 40 0#8 ++ x.bytes ++ m)).take 24

/-- H, and T of any length. -/
def slhH (seed : List Byte) (x : SlhAdrs) (m : List Byte) : List Byte :=
  (sha512.hash (seed ++ List.replicate 104 0#8 ++ x.bytes ++ m)).take 24

/-- The message digest of 39 bytes: one block of MGF1. -/
def slhMsg (r seed root m : List Byte) : List Byte :=
  (sha512.hash (r ++ seed ++ sha512.hash (r ++ seed ++ root ++ m) ++ beBytes 4 0)).take 39

/-- Some digits of b bits of a string of bytes, the most significant first. -/
def slhDigits (bs : List Byte) (b n : Nat) : List Nat :=
  (List.range n).map fun i => beNat bs / 2 ^ (8 * bs.length - b * (i + 1)) % 2 ^ b

/-- Element i of n bytes. -/
def slhPart (bs : List Byte) (i : Nat) : List Byte := (bs.drop (24 * i)).take 24

/-- The root over a leaf at an index of a tree of some height, by its authentication path; `at_` is the address at a height and index. -/
def slhClimb (seed : List Byte) (at_ : Nat → Nat → SlhAdrs) (auth : List Byte) (height i : Nat) (leaf : List Byte) : List Byte :=
  (List.range height).foldl (fun node j =>
    let x := at_ (j + 1) (i / 2 ^ (j + 1))
    if i / 2 ^ j % 2 = 0 then slhH seed x (node ++ slhPart auth j) else slhH seed x (slhPart auth j ++ node)) leaf

/-- The FORS public key that a signature gives. -/
def slhFors (seed : List Byte) (tree leaf : Nat) (sig md : List Byte) : List Byte :=
  let ds := slhDigits md 14 17
  let roots := (List.range 17).flatMap fun i =>
    let d := ds.getD i 0
    let at_ := fun (h j : Nat) => (⟨0, tree, 3, leaf, h, j⟩ : SlhAdrs)
    let s := sig.drop (24 * 15 * i)
    slhClimb seed at_ (s.drop 24) 14 (i * 2 ^ 14 + d) (slhF seed (at_ 0 (i * 2 ^ 14 + d)) (slhPart s 0))
  slhH seed ⟨0, tree, 4, leaf, 0, 0⟩ roots

/-- The WOTS+ public key that a signature of a message gives: 48 digits of the message and 3 of their checksum. -/
def slhWots (seed : List Byte) (layer tree pair : Nat) (sig m : List Byte) : List Byte :=
  let ds := slhDigits m 4 48
  let sum := ds.foldl (fun n d => n + (15 - d)) 0
  let all := ds ++ slhDigits (beBytes 2 (16 * sum)) 4 3
  let tops := (List.range 51).flatMap fun i =>
    let d := all.getD i 0
    (List.range (15 - d)).foldl (fun x j => slhF seed ⟨layer, tree, 0, pair, i, d + j⟩ x) (slhPart sig i)
  slhH seed ⟨layer, tree, 1, pair, 0, 0⟩ tops

/-- The root of the tree of a layer that a signature of 60 elements of a message gives. -/
def slhXmss (seed : List Byte) (layer tree leaf : Nat) (sig m : List Byte) : List Byte :=
  slhClimb seed (fun h j => ⟨layer, tree, 2, 0, h, j⟩) (sig.drop (24 * 51)) 9 leaf (slhWots seed layer tree leaf sig m)

/-- Does the signature verify against a key of 48 bytes over the message, in the pure form of FIPS 205 with an empty context (log entry 9)? -/
def slhVerify (key sig msg : List Byte) : Bool :=
  let seed := key.take 24
  let root := key.drop 24
  let digest := slhMsg (slhPart sig 0) seed root (0#8 :: 0#8 :: msg)
  let tree := beNat ((digest.drop 30).take 7) % 2 ^ 54
  let leaf := beNat (digest.drop 37) % 2 ^ 9
  let fors := slhFors seed tree leaf (sig.drop 24) (digest.take 30)
  let ht := sig.drop (24 * (1 + 17 * 15))
  let top := (List.range 7).foldl (fun node j =>
    let i := (tree * 2 ^ 9 + leaf) / 2 ^ (9 * j)
    slhXmss seed j (i / 2 ^ 9) (i % 2 ^ 9) (ht.drop (24 * 60 * j)) node) fors
  key.length = 48 && sig.length = 16224 && top == root

end Sys2Proof.Machine
end

