-- ==== Sys2Proof/Machine/Loading.lean ====
section
/-! DEFINITION. Code objects: their layout, verification and loading with opcode 0x0030 (R385, R389 to R394). -/
namespace Sys2Proof.Machine

/-- The header of a code object (R389). -/
structure ObjHdr where
  magic : Nat
  rev : Nat
  nk : Nat
  textoff : Nat
  textsize : Nat
  dataoff : Nat
  datasize : Nat
  ktaboff : Nat
  auxoff : Nat
  nrel : Nat
  nlink : Nat
  reloff : Nat
  linkoff : Nat
  symoff : Nat
  sigoff : Nat
  rsv : Nat
  deriving DecidableEq, Repr

def ObjHdr.of (bs : List Byte) : ObjHdr where
  magic := bytesNat bs 0 4
  rev := bytesNat bs 4 2
  nk := bytesNat bs 6 2
  textoff := bytesNat bs 8 8
  textsize := bytesNat bs 0x10 8
  dataoff := bytesNat bs 0x18 8
  datasize := bytesNat bs 0x20 8
  ktaboff := bytesNat bs 0x28 8
  auxoff := bytesNat bs 0x30 8
  nrel := bytesNat bs 0x38 4
  nlink := bytesNat bs 0x3C 4
  reloff := bytesNat bs 0x40 8
  linkoff := bytesNat bs 0x48 8
  symoff := bytesNat bs 0x50 8
  sigoff := bytesNat bs 0x58 8
  rsv := bytesNat bs 0x60 32

/-- Offsets of the headers of a text that parses as a chain of valid blocks ending exactly at its size (R30, R31, R393). -/
def headersFrom (text : List Byte) : Nat → Nat → Option (List Nat)
  | 0, _ => none
  | n + 1, o =>
    if o = text.length then some []
    else
      let h := BitVec.ofNat 64 (bytesNat text o 8)
      let next := o + 8 * (hdrLen h + 1)
      if hdrMarker h ≠ 0x3F || hdrLen h = 0 || hdrReserved h || text.length < next then none
      else (headersFrom text n next).map (o :: ·)

def none64 : Nat := 2 ^ 64 - 1

/-- Entry i of the kernel table (R390), entry i of the auxiliary tables (R391). -/
def ObjHdr.kernelBytes (h : ObjHdr) (bs : List Byte) (i : Nat) : List Byte := (bs.drop (h.ktaboff + 64 * i)).take 64
def ObjHdr.auxBytes (h : ObjHdr) (bs : List Byte) (i : Nat) : List Byte := (bs.drop (h.auxoff + 32 * i)).take 32

/-- Auxiliary entries of a kernel: first entry and number, for roles, queues and tasks. -/
def rolesOf (k : List Byte) : List Nat := (List.range (bytesNat k 0x2D 1)).map (bytesNat k 0x2C 1 + ·)
def queuesOf (k : List Byte) : List Nat := (List.range (bytesNat k 0x2F 1)).map (bytesNat k 0x2E 1 + ·)
def tasksOf (k : List Byte) : List Nat := (List.range (bytesNat k 0x32 2)).map (bytesNat k 0x30 2 + ·)

/-- Is an offset one of a header, or none where that is allowed? -/
def offsetOk (hs : List Nat) (opt : Bool) (o : Nat) : Bool := hs.contains o || (opt && o = none64)

def roleOk (hs : List Nat) (r : List Byte) : Bool :=
  let q := fun (b : Nat) => b < 16 || b = 0x80 || (0x80 ≤ b && b < 0x90)
  r.length = 32 && offsetOk hs true (bytesNat r 0 8) && q (bytesNat r 8 1) && q (bytesNat r 9 1) && bytesNat r 0xA 1 ≤ 8 &&
    bytesNat r 0xB 1 = 0 && bytesNat r 0x18 8 = 0

def queueOk (r : List Byte) : Bool :=
  let kind := bytesNat r 1 1
  let logc := bytesNat r 8 1
  let hi := bytesNat r 0xA 2
  let lo := bytesNat r 0xC 2
  r.length = 32 && bytesNat r 0 1 < 16 && kind ≤ 2 && 1 ≤ logc && logc ≤ (if kind = 2 then 16 else 12) && bytesNat r 2 2 = 0 &&
    bytesNat r 9 1 = 0 && bytesNat r 0xE 2 = 0 && bytesNat r 0x1C 4 = 0 && bytesNat r 0x18 4 < 2 ^ 23 &&
    (kind ≠ 0 || (lo < hi && hi ≤ 2 ^ logc && bytesNat r 4 4 % 4 = 0)) && (kind ≠ 1 || bytesNat r 4 4 < 16) &&
    (kind ≠ 2 || bytesNat r 4 4 = 0)

def taskOk (hs : List Nat) (r : List Byte) : Bool :=
  r.length = 32 && offsetOk hs false (bytesNat r 0 8) && bytesNat r 0xA 22 = 0

/-- The layout rules of a kernel table entry. -/
def ObjHdr.kernelOk (h : ObjHdr) (bs : List Byte) (hs : List Nat) (i : Nat) : Bool :=
  let k := h.kernelBytes bs i
  let f := bytesNat k
  let aux := h.auxBytes bs
  k.length = 64 && offsetOk hs false (f 0 8) && offsetOk hs true (f 8 8) && offsetOk hs true (f 0x10 8) &&
    32 ≤ f 0x18 2 && f 0x18 2 ≤ 1024 && f 0x18 2 % 32 = 0 && f 0x1A 2 ≤ 1 && 1 ≤ f 0x1C 2 && f 0x1E 2 = 0 &&
    f 0x20 8 = frameBytes (f 0x1C 2) && f 0x29 1 ≤ 1 && f 0x2A 2 = 0 && f 0x2D 1 ≤ 4 && f 0x2F 1 ≤ 16 && f 0x34 4 = 0 && f 0x38 8 = 0 &&
    (rolesOf k).all (fun j => roleOk hs (aux j)) && (queuesOf k).all (fun j => queueOk (aux j)) &&
    (tasksOf k).all fun j => taskOk hs (aux j)

/-- A relocation entry: the section and offset of the word it names (R392). -/
def relocOf (r : Nat) : Bool × Nat := (bitN r 60, r % 2 ^ 60)

def ObjHdr.reloc (h : ObjHdr) (bs : List Byte) (i : Nat) : Nat := bytesNat bs (h.reloff + 8 * i) 8

def ObjHdr.relocOk (h : ObjHdr) (bs : List Byte) (i : Nat) : Bool :=
  let r := h.reloc bs i
  let (data, o) := relocOf r
  r < 2 ^ 61 && o % 8 = 0 && o + 8 ≤ (if data then h.datasize else h.textsize)

/-- The symbol entries of a region, read to its end: kind 0 or 1, a name of 1 to 63 bytes, zero padding, and the value of a global
function a header (R393, R400). -/
def symbolsOk (bs : List Byte) (hs : List Nat) (stop : Nat) : Nat → Nat → Bool
  | 0, _ => true
  | n + 1, o =>
    if stop ≤ o then true
    else
      let kind := bytesNat bs (o + 8) 1
      let len := bytesNat bs (o + 9) 1
      let next := o + (10 + len + 7) / 8 * 8
      next ≤ stop && kind ≤ 1 && 1 ≤ len && len ≤ 63 && bytesNat bs (o + 10 + len) (next - (o + 10 + len)) = 0 &&
        (kind = 1 || hs.contains (bytesNat bs o 8)) && symbolsOk bs hs stop n next

/-- The end of the symbol region: the data or the signature, whichever comes first after it (R400). -/
def ObjHdr.symStop (h : ObjHdr) : Nat :=
  match [h.dataoff, h.sigoff].filter (h.symoff ≤ ·) with
  | [] => h.symoff
  | a :: r => r.foldl min a

/-- The layout checks of R393. -/
def ObjHdr.layoutOk (h : ObjHdr) (bs : List Byte) : Bool :=
  let size := bs.length
  let within := fun (o n : Nat) => o + n ≤ size
  let text := (bs.drop h.textoff).take h.textsize
  128 ≤ size && h.magic = 0x4B524C50 && h.rsv = 0 && h.nk ≤ 255 && h.textoff % 8 = 0 && h.textsize % 8 = 0 &&
    within h.textoff h.textsize && within h.dataoff h.datasize && within h.ktaboff (64 * h.nk) && within h.auxoff 0 &&
    within h.reloff (8 * h.nrel) && 1 ≤ h.nlink && h.nlink ≤ 65536 && h.linkoff % 16 = 0 && h.linkoff + 16 * h.nlink ≤ h.datasize &&
    within h.symoff 0 && h.sigoff + 16224 = size &&
    (match headersFrom text (h.textsize + 1) 0 with
     | some hs => (List.range h.nk).all (h.kernelOk bs hs) && symbolsOk bs hs h.symStop (h.symStop / 16 + 1) h.symoff
     | none => false) &&
    (List.range h.nrel).all (h.relocOk bs)

/-- A kernel as a launch takes it from the object, text at its load address (R357, R390, R391). -/
def ObjHdr.kernel (h : ObjHdr) (bs : List Byte) (tva i : Nat) : Kernel :=
  let k := h.kernelBytes bs i
  let f := bytesNat k
  let at_ := fun (o : Nat) => BitVec.ofNat 64 (tva + o)
  let opt := fun (o : Nat) => if o = none64 then none else some (at_ o)
  let num := fun (b : Nat) => if b < 0x80 then some b else none
  { entry := at_ (f 0 8), trap := opt (f 8 8), attach := opt (f 0x10 8), width := f 0x18 2, armature := f 0x1C 2
    aset := BitVec.ofNat 8 (f 0x28 1), alevel := bitN (f 0x29 1) 0
    roles := (rolesOf k).map fun j =>
      let r := h.auxBytes bs j
      ⟨opt (bytesNat r 0 8), num (bytesNat r 8 1), num (bytesNat r 9 1),
        (List.range (bytesNat r 0xA 1)).map fun i => bytesNat r (0x10 + i) 1, bytesNat r 0xC 4⟩
    queues := (queuesOf k).map fun j =>
      let r := h.auxBytes bs j
      let t := bytesNat r 0x18 4
      ⟨bytesNat r 0 1, bytesNat r 1 1, bytesNat r 4 4, bytesNat r 8 1, bytesNat r 0xA 2, bytesNat r 0xC 2,
        BitVec.ofNat 64 (bytesNat r 0x10 8), fieldN t 0 14, fieldN t 14 9⟩
    tasks := (tasksOf k).map fun j =>
      let r := h.auxBytes bs j
      (at_ (bytesNat r 0 8), bytesNat r 8 2) }

/-- Replace eight bytes. -/
def patch8 (bs : List Byte) (o v : Nat) : List Byte := bs.take o ++ leBytes 8 v ++ bs.drop (o + 8)

/-- Text and data with one relocation applied (R392). -/
def applyReloc (tva dva : Nat) (s : List Byte × List Byte) (r : Nat) : List Byte × List Byte :=
  let (data, o) := relocOf r
  let w := bytesNat (if data then s.2 else s.1) o 8
  let v := ((if bitN w 60 then dva else tva) + w % 2 ^ 60) % 2 ^ 64
  if data then (s.1, patch8 s.2 o v) else (patch8 s.1 o v, s.2)

/-! ### Pages -/

/-- First addresses of the pages of a range. -/
def pagesOf (va n : Nat) : List Nat := (List.range ((n + 4095) / 4096)).map fun i => va + 4096 * i

/-- The leaf entry of a walk: its address and its level. -/
def leafAt (m : Memory) (va : Nat) : Nat → Nat → Option (Nat × Nat)
  | 0, _ => none
  | l + 1, tbl =>
    let a := tbl + 8 * fieldN va (12 + 9 * l) 9
    let e := m.nat a 8
    if !bitN e 0 then none
    else if bitN e 63 then some (a, l + 1)
    else leafAt m va l (fieldN e 12 40 * 4096)

/-- A page that loading may write: its place, when it is mapped with W, whatever its target class (R393). -/
def Device.writable (d : Device) (asid pn va : Nat) : Option Nat :=
  match translateAligned d asid pn va 8 ⟨false, true, false⟩ [0, 1, 2, 3, 4] false with
  | .ok x => some x.pa
  | .error _ => none

/-- A leaf entry with R and X and without W. -/
def sealEntry (e : Nat) : Nat := e - (if bitN e 2 then 4 else 0) + (if bitN e 1 then 0 else 2) + (if bitN e 3 then 0 else 8)

/-- The entries of a text page are rewritten to R and X without W; a C16 group is one page (R199, R394). -/
def sealPage (root : Nat) (m : Memory) (va : Nat) : Memory :=
  match leafAt m va 5 root with
  | none => m
  | some (a, l) =>
    let e := m.nat a 8
    let as := if l = 1 && bitN e 11 then (List.range 16).map fun i => a / 128 * 128 + 8 * i else [a]
    as.foldl (fun m a => m.write a (leBytes 8 (sealEntry (m.nat a 8)))) m

/-- Write bytes of a page at its home; device registers take them as stores of eight bytes. -/
def Device.putPage (d : Device) (pa : Nat) (bs : List Byte) : Device :=
  if spaceOf pa = 3 || spaceOf pa = 4 then
    { d with regWrites := d.regWrites ++ (List.range ((bs.length + 7) / 8)).map fun i =>
      (pa + 8 * i, BitVec.ofNat 64 (leNat ((bs.drop (8 * i)).take 8))) }
  else { d with mem := d.mem.write pa bs }

/-- Copy bytes to a range, a page at a time. -/
def Device.copyTo (d : Device) (asid pn va : Nat) (bs : List Byte) : Device :=
  (List.range ((bs.length + 4095) / 4096)).foldl (fun d i =>
    match d.writable asid pn (va + 4096 * i) with
    | some pa => d.putPage pa ((bs.drop (4096 * i)).take 4096)
    | none => d) d

/-- Loading an object that has passed its checks (R394). -/
def Device.loadObject (d : Device) (pn asid : Nat) (x : Asid) (h : ObjHdr) (bs : List Byte) (tva dva resolver : Nat) : Device :=
  let text := (bs.drop h.textoff).take h.textsize
  let data := (bs.drop h.dataoff).take h.datasize
  let r := ((List.range h.nrel).map (h.reloc bs)).foldl (applyReloc tva dva) (text, data)
  let d := (d.copyTo asid pn tva r.1).copyTo asid pn dva (patch8 r.2 h.linkoff resolver)
  let d : Device := { d with
    mem := (pagesOf tva h.textsize).foldl (sealPage x.root) d.mem, loads := d.loads + 1
    texts := d.texts ++ [(d.loads + 1, asid, tva, tva + h.textsize)] }
  let p := d.partAt pn
  let old := p.kernels.filter fun k => !(k.1 = asid && tva ≤ k.2.entry.toNat && k.2.entry.toNat < tva + h.textsize)
  d.setPart pn { p with kernels := old ++ (List.range h.nk).map fun i => (asid, h.kernel bs tva i) }

/-- LOAD_CODE_OBJECT: the checks in their order (R385, R393), then the load. An image that cannot be read has no valid layout. -/
def execLoadCodeObject (part : Nat) (s : State) : Out :=
  runCmd 0x30 part
    (fun f _ => f 0x10 8 < 4096 && f 0x18 8 % 4096 = 0 && f 0x20 8 % 4096 = 0)
    (fun f d =>
      let asid := f 0x10 8
      let tva := f 0x18 8
      let dva := f 0x20 8
      match d.asidIn part asid, d.readVirt asid part (f 0 8) (f 8 8) with
      | some x, some bs =>
        let h := ObjHdr.of bs
        let msg := bs.take h.sigoff
        let sig := (bs.drop h.sigoff).take 16224
        let text := pagesOf tva h.textsize
        if h.rev < 8 || 12 < h.rev then .bad 3
        else if !(d.partAt part).keys.any fun k => slhVerify k.2 sig msg then .bad 4
        else if !h.layoutOk bs then .bad 5
        else if !(text ++ pagesOf dva h.datasize).all (fun a => (d.writable asid part a).isSome) ||
            text.any (fun a => (rangeHit (d.partAt part) d.mem x a 8).isSome) then .bad 7
        else .ok (d.loadObject part asid x h bs tva dva (f 0x28 8))
      | _, _ => .bad 5) s

end Sys2Proof.Machine
end

