-- ==== Sys2Proof/Machine/Preempt.lean ====
section
/-! DEFINITION. Pre-emption, save, restore and release of partitions (R345 to R350, R382). -/
namespace Sys2Proof.Machine

/-! ### The halt (R345) -/

/-- The arrival of the path in focus at the barrier that it waits at. -/
def State.mineAt (s : State) (a : Arrival) : Bool := a.core == s.coreNo && a.slot == s.slotNo && a.path == s.pathNo

/-- Has the phase that the path in focus waits for completed, so that only its release is to come (R263)? -/
def State.releasing (s : State) : Bool :=
  match s.path.status with
  | .barrier l t ph _ => (s.tag l t).phases != ph
  | _ => false

/-- A window instruction that waits has no effect when its long-latency instruction is undone (R38): an arrival is withdrawn. A path that
has met a breakpoint waits on for the debugger (R412). -/
def State.unwait (s : State) : State :=
  let s := match s.path.status with
    | .barrier l t _ _ =>
      let x := s.tag l t
      let left := x.arrivals.filter fun a => !s.mineAt a
      s.setTag l t { x with arrivals := left, expected := if !attaches l && left.isEmpty then none else x.expected }
    | _ => s
  { s with path := { s.path with status := if s.path.status == .debug then .debug else .ready } }

/-- The streaming operation of the path in focus is taken back: the A-buffer is as it was at its issue (R38). -/
def State.unstream (s : State) : State :=
  match s.core.stream with
  | some x => if x.slot = s.slotNo && x.path = s.pathNo then
      let s := s.setCohort { s.cohort with a := x.undone s.cohort }
      { s with core := { s.core with stream := none } }
    else s
  | none => s

/-- The access, the function result or the streaming operation that the path in focus waits for, not complete for lookahead, is undone as
for a window-precise fault, with its done mask and its window kept (R38, R39, R345). -/
def State.haltWindow (s : State) : State :=
  match s.path.window with
  | some w =>
    if w.complete || s.releasing then s
    else match s.strand.flight w.flight with
      | some f =>
        let t := s.unwait.undoWindow w f
        { t with path := { t.path with pc := w.pc, redo := some ⟨w.pc, w.done, w.la⟩ } }
      | none =>
        let t := s.unwait.unstream
        { t with path := { t.path.undoWindow w with pc := w.pc, redo := some ⟨w.pc, w.done, w.la⟩ } }
  | none => s

/-- The path in focus stops at an instruction boundary: a sleep ends, a long-latency instruction that is not complete is undone, a
waiting queue operation starts anew. -/
def State.haltPath (s : State) : State :=
  let s := match s.path.status with
    | .sleep _ => ({ s with path := { s.path with status := .ready } }).advance
    | _ => s
  let s := s.haltWindow
  { s with path := { s.path with blocked := none } }

/-- Every path on the cores of a partition stops. -/
def State.haltAll (s : State) (pn : Nat) : State :=
  let s := s.flush
  let p := s.dev.partAt pn
  let refs := (s.dev.cores.filter fun c => p.hasQuad (quadOf c.1)).flatMap fun c =>
    c.2.strands.flatMap fun e => e.2.paths.map fun q => (c.1, e.1, q.1)
  refs.foldl (fun s r => match s.load r.1 r.2.1 r.2.2 with | some t => t.haltPath.flush | none => s) s

/-- Partitions that a stop has begun in halt at instruction boundaries, once (R412). -/
def State.haltStops (s : State) : State :=
  if s.dev.parts.all fun p => match p.2.stop with | some x => x.halted | none => true then s
  else (s.dev.parts.map (·.1)).foldl (fun s pn =>
    match (s.dev.partAt pn).stop with
    | some x => if x.halted then s else
        let s := s.haltAll pn
        { s with dev := s.dev.setPart pn { s.dev.partAt pn with stop := some { x with halted := true } } }
    | none => s) s

/-- Has the drain of a partition ended (R346): its accesses and streams, its started copies, conversions, closes, and its pass are
over? -/
def Device.drained (d : Device) (pn : Nat) : Bool :=
  let p := d.partAt pn
  (d.cores.all fun c => !p.hasQuad (quadOf c.1) ||
    ((c.2.strands.all fun e => e.2.flights.isEmpty) && c.2.stream.isNone && ((c.2.chan0.queue ++ c.2.chan1.queue).all fun x => !x.started) &&
      c.2.epis.all fun x => x.started.isNone)) &&
  d.quads.all fun q => !p.hasQuad q.1 || (q.2.pass.isNone && q.2.entries.all fun e => e.2.started.isNone)

/-- A command that halts its partition when it is first met. -/
def halting (pn : Nat) (s : State) (o : Out) : Out :=
  match o with
  | .next t =>
    if (s.dev.partAt pn).preempt.isNone && (t.dev.partAt pn).preempt.isSome then .next (t.haltAll pn) else .next t
  | x => x

/-- Does a range of storage touch a stack that holds accesses back (R237)? -/
def Device.rangePaused (d : Device) (base size : Nat) : Bool :=
  (List.range 16).any fun i =>
    let lo := i % 8 * 2 ^ 37 + i / 8 * 2 ^ 36
    d.paused lo && base < lo + 2 ^ 36 && lo < base + size

/-- Bytes that a save area holds at least (R378). -/
def saveSize (quads asids : Nat) : Nat := 3392 * 1024 * quads + 65536 * asids

/-- PREEMPT: opcode 0x0013 is checked and the partition halts. -/
def execPreempt (part : Nat) (s : State) : Out :=
  halting part s (runCmd 0x13 part
    (fun f _ => f 0 8 % 4096 = 0)
    (fun f d =>
      let p := d.partAt part
      let live := (d.asids.filter fun a => a.2.part = part).length
      if p.preempt.isSome then .wait d
      else if p.saved then .bad 2
      else if !p.inPairs (f 0 8) (f 8 8) then .bad 4
      else if f 8 8 < saveSize (countBits p.quads.toNat 128) live then .bad 6
      else .wait (d.setPart part { p with preempt := some (f 0 8, f 8 8) })) s)

/-! ### Moving what names cores -/

/-- Tags with the cores of their arrivals and releases renamed. -/
def Tag.moved (x : Tag) (f : Nat → Nat) : Tag :=
  { x with arrivals := x.arrivals.map fun a => { a with core := f a.core }, releases := x.releases.map fun r => { r with core := f r.core } }

def movedTags (ts : Tbl Tag) (f : Nat → Nat) : Tbl Tag := ts.map fun e => (e.1, e.2.moved f)

/-- A tag without the arrivals and the releases of some strands. -/
def Tag.withdraw (x : Tag) (mine : Nat → Nat → Bool) : Tag :=
  { x with arrivals := x.arrivals.filter fun a => !mine a.core a.slot, releases := x.releases.filter fun r => !mine r.core r.slot }

def withdrawTags (ts : Tbl Tag) (mine : Nat → Nat → Bool) : Tbl Tag := ts.map fun e => (e.1, e.2.withdraw mine)

/-! ### Cohorts that run again (R349, R366) -/

/-- Cohorts of the core set are taken out: strands, windows, partials, attachments and the arrivals of their current phases. -/
def State.discardCohorts (s : State) (gone : Nat → Bool) : State :=
  let d := s.dev
  let mine := fun (c sl : Nat) => match tget (d.coreAt c).strands sl with | some st => gone st.cohort | none => false
  let goneP := fun (x : Partial) => gone (cohortKey x.launch x.number)
  let d : Device := { d with
    cores := d.cores.map fun c => (c.1, { c.2 with abuf := c.2.abuf.filter fun x => !goneP x })
    launches := d.launches.map fun l => (l.1, { l.2 with
      dieTags := l.2.dieTags.map fun t => (t.1, withdrawTags t.2 mine), pkgTags := withdrawTags l.2.pkgTags mine })
    podTags := d.podTags.map fun t => (t.1, withdrawTags t.2 mine) }
  let s : State := { s with dev := d.dropCohorts gone }
  s.dev.launches.foldl (fun s l => (s.ovfSlots l.2.part l.2.ordinal).foldl (fun s e =>
    if gone (cohortKey l.1 e.2.2.1) then s.freeSlot l.2.part e.1 else s) s) s

/-- Put a run of cohort numbers among runs in rising order. -/
def insertRun (x : Nat × Nat) : List (Nat × Nat) → List (Nat × Nat)
  | [] => [x]
  | r :: rs => if x.1 < r.1 then x :: r :: rs else r :: insertRun x rs

/-- A distributor's share for cohorts that are placed again: the lowest live die of the partition takes them, in order. -/
def Device.requeue (d : Device) (lid : Nat) (run : Nat × Nat) : Device :=
  let l := d.launchAt lid
  let die := (d.diesOf l.part).headD 0
  let di := tgetD l.dists die ⟨[], none⟩
  { d with launches := tset d.launches lid { l with dists := tset l.dists die { di with chunks := insertRun run di.chunks } } }

/-- Cohorts of the partition that are discardable on every core they occupy (R349). -/
def Device.discardable (d : Device) (pn : Nat) : List (Nat × Cohort) :=
  let all := (d.cores.filter fun c => (d.partAt pn).hasQuad (quadOf c.1)).flatMap fun c => c.2.cohorts
  all.filter fun h => !h.2.task && h.2.launch != 0 && (tget d.launches h.2.launch).isSome &&
    all.all fun x => x.1 != h.1 || x.2.discardable

/-! ### Save (R346, R347) -/

/-- Cores of a save as pod tags name them, by the number of the save. -/
def savedCore (n c : Nat) : Nat := 1024 + 512 * n + c

/-- A core without a partition's work: its debug block and its counters stay. -/
def Core.emptied (c : Core) : Core := { Core.reset with dbg := c.dbg, pmc := c.pmc, prog := c.prog, progStop := c.progStop }

/-- The bytes of a save, as many as its minimum size: free values, since the format is the device's own (log entry 37). -/
def saveBytes (draw size : Nat) : List Byte :=
  ((List.range (size / 8)).flatMap fun i => leBytes 8 (Config.freeWord (draw + i)).toNat)

/-- A quad without an operand latch whose pass has not started: it is filled anew (R346). -/
def Quad.unlatched (q : Quad) : Quad := { q with latch := none }

/-- The frames that the strands of the partition's cores are written to, those spilled already aside (R347). -/
def State.writeFrames (s : State) (mine : Nat → Bool) : State :=
  (s.dev.cores.filter fun c => mine c.1).foldl (fun s c =>
    (c.2.strands.filter fun e => !e.2.spilled).foldl (fun s e => s.writeFrame c.1 e.2) s) s

/-- A pod tag as a save carries it: arrivals of strands outside the partition are counted and name none (R347). -/
def Tag.kept (x : Tag) (mine : Nat → Bool) : Tag :=
  { x with
    arrivals := x.arrivals.map fun a => if mine a.core then a else { a with core := 512, slot := 0, path := 0, waits := false }
    releases := x.releases.filter fun r => mine r.core }

/-- The pod tags of the groups that the partition has bound. -/
def Device.podsOf (d : Device) (pn : Nat) (mine : Nat → Bool) : Tbl (Tbl Tag) :=
  (d.partAt pn).pods.foldl (fun t g => match tget d.podTags g.2.key with
    | some ts => tset t g.2.key (ts.map fun e => (e.1, e.2.kept fun c => c < 512 && mine c))
    | none => t) []

/-- A number that no save has. -/
def Device.saveNo (d : Device) : Nat := d.saves.foldl (fun n x => max n (x.1 + 1)) 0

/-- The save of a drained partition: discardable cohorts are discarded, everything else goes to the quarry frames and the save area, and
conflict tags of its strands count no more (R222). -/
def State.saveAll (s : State) (pn base : Nat) : State :=
  let dis := s.dev.discardable pn
  let keys := (dis.map (·.1)).eraseDups
  let s := s.discardCohorts fun k => keys.contains k
  let p := s.dev.partAt pn
  let mine := fun (c : Nat) => p.hasQuad (quadOf c)
  let s := s.writeFrames mine
  let d := (keys.filterMap fun k => dis.find? fun h => h.1 = k).foldl (fun d h => d.requeue h.2.launch (h.2.number, 1)) s.dev
  let size := saveSize (countBits p.quads.toNat 128) (d.asids.filter fun a => a.2.part = pn).length
  let n := d.saveNo
  let x : Saved := {
    part := pn, quads := p.quads.toNat, pairs := p.pairs.toNat, shares := p.shares, cores := d.cores.filter fun c => mine c.1
    quadsS := (d.quads.filter fun q => p.hasQuad q.1).map fun q => (q.1, q.2.unlatched)
    launches := d.launches.filter fun l => l.2.part = pn, colls := p.groups.map fun g => (g.1, g.2.queue), pods := d.podsOf pn mine
    ovfOrder := p.ovfOrder, clock := p.now s.clock, since := s.clock, stop := p.stop, stopst := p.stopst, draw := s.draws, size := size
    abroad := false, uid := s.uid }
  let gone := fun (l : Nat) => (tget x.launches l).isSome
  let p := { p with saved := true, preempt := none, stop := none, groups := p.groups.map fun g => (g.1, { g.2 with queue := [] }) }
  let d := d.setPart pn p
  { s with
    draws := s.draws + size / 8
    dev := { d with
      mem := d.mem.write base (saveBytes s.draws size)
      ctags := d.ctags.map fun t => (t.1, t.2.without gone)
      cores := d.cores.map fun c => if mine c.1 then (c.1, c.2.emptied) else c
      quads := d.quads.filter fun q => !p.hasQuad q.1
      launches := d.launches.filter fun l => l.2.part != pn
      podTags := d.podTags.map fun t => (t.1, movedTags t.2 fun c => if c < 512 && mine c then savedCore n c else c)
      saves := tset d.saves n x } }

/-- Does a paused stack hold back what a save writes: the frames, the slots of the overflow area, the save area (R237)? -/
def State.savePaused (s : State) (pn base : Nat) : Bool :=
  let p := s.dev.partAt pn
  s.dev.rangePaused base (saveSize (countBits p.quads.toNat 128) (s.dev.asids.filter fun a => a.2.part = pn).length) ||
    p.ovfOrder.any (s.dev.slotPaused pn) ||
    s.dev.cores.any fun c => p.hasQuad (quadOf c.1) && c.2.strands.any fun e => !e.2.spilled && s.dev.framePaused e.2

/-- DRAIN_END: the save of the pre-emption at the head of queue 0 is complete. -/
def execDrainEnd (part : Nat) (s : State) : Out :=
  let s := s.flush
  match s.dev.privCmd part 0x13, (s.dev.partAt part).preempt with
  | some (_, st), some (base, _) =>
    if s.dev.drained part && !s.savePaused part base then
      let t := s.saveAll part base
      .next { t with dev := s.dev.finishCmd t.dev part 0 0 st }
    else .next s
  | _, _ => .next s

/-! ### Restore (R348, R350) -/

def quadList (q : Nat) : List Nat := (List.range 128).filter q.testBit

/-- The core that takes a saved core's place: that of the same position in the quad of the same order. -/
def newCore (old new : List Nat) (c : Nat) : Nat :=
  match (old.zip new).find? fun e => e.1 = quadOf c with
  | some e => 4 * e.2 + posOf c
  | none => c

def newDie (old new : List Nat) (die : Nat) : Nat :=
  match (old.zip new).find? fun e => e.1 / 32 = die with
  | some e => e.2 / 32
  | none => new.headD 0 / 32

/-- A task queue under new core numbers. -/
def Queue.moved (x : Queue) (f : Nat → Nat) : Queue := if x.kind = 2 && x.here then { x with core := f x.core } else x

/-- Partials in their new place, each found anew by its address, under the permission that it passed at issue (R197), and with the current
ticket (R201); one whose address can no longer be reached is lost (log entry 96). -/
def Device.movedPartials (d : Device) (launches : Tbl Launch) (pn : Nat) (ps : List Partial) (core : Nat) : List Partial :=
  ps.filterMap fun x => match tget launches x.launch with
    | none => none
    | some l => match translateAligned d l.asid pn x.va.toNat x.ty.size ⟨false, false, false⟩ [0, 1, 2, 3] true with
      | .ok y => some { x with core := core, pa := y.pa, ticket := d.ticket }
      | .error _ => none

/-- A saved core in its new place (R201: what it holds is posted again with the current ticket). -/
def Core.moved (x here : Core) (f : Nat → Nat) (pn ticket : Nat) : Core :=
  let chan := fun (ch : Chan) => { ch with queue := ch.queue.map fun y => { y with part := pn, ticket := ticket } }
  { x with
    l1 := [], ibuf := [], dbg := here.dbg, pmc := here.pmc, prog := here.prog, progStop := here.progStop
    chan0 := chan x.chan0, chan1 := chan x.chan1, epis := x.epis.map fun e => { e with ticket := ticket }
    cohorts := x.cohorts.map fun h => (h.1, { h.2 with tags := movedTags h.2.tags f })
    queues := x.queues.map fun q => (q.1, q.2.moved f) }

/-- A saved quad in its new place. -/
def Quad.moved (q : Quad) (f : Nat → Nat) (ticket : Nat) : Quad :=
  { q with
    accs := q.accs.foldl (fun t a => tset t (accKey (a.1 / 1024) (f (a.1 / 2 % 512)) (a.1 % 2)) a.2) []
    entries := q.entries.map fun e => (e.1, { e.2 with core := f e.2.core, ticket := ticket })
    tags := q.tags.map fun t => (t.1, movedTags t.2 f) }

/-- A saved launch in its new place. -/
def Launch.moved (l : Launch) (f g : Nat → Nat) (pn : Nat) : Launch :=
  { l with
    part := pn, pkgTags := movedTags l.pkgTags f
    dieTags := l.dieTags.foldl (fun t e => tset t (g e.1) (movedTags e.2 f)) []
    dists := l.dists.foldl (fun t e =>
      let old := tgetD t (g e.1) ⟨[], none⟩
      let runs := e.2.chunks.foldl (fun rs r => insertRun r rs) old.chunks
      tset t (g e.1) ⟨runs, old.asked <|> e.2.asked⟩) [] }

/-- Quads of a partition on dies that are not fenced (R364). -/
def Device.liveQuads (d : Device) (pn : Nat) : List Nat :=
  (quadList (d.partAt pn).quads.toNat).filter fun q => !(d.dieAt (q / 32)).fenced

/-- A pod tag of a save that comes from another device, as this device takes it: strands of the save that wait at it are named again, and
what they brought to the phase this device has heard of already, where it knows the tag (log entry 130). -/
def Tag.taken (x : Tag) (here : Option Tag) : Tag :=
  match here with
  | none => x
  | some y => { y with
      arrivals := y.arrivals ++ (x.arrivals.filter (·.core < 512)).map fun a => { a with n := 0 }
      releases := y.releases ++ x.releases }

/-- The pod tags after a save has come from another device: those of the groups that the partition has bound. -/
def Device.takePods (d : Device) (pn : Nat) (pods : Tbl (Tbl Tag)) (f : Nat → Nat) : Tbl (Tbl Tag) :=
  pods.foldl (fun t e => if (d.partAt pn).pods.any fun g => g.2.key = e.1 then
    let old := tgetD t e.1 []
    tset t e.1 (e.2.foldl (fun ts x => tset ts x.1 ((x.2.moved f).taken (tget old x.1))) old) else t) d.podTags

/-- Slots of the overflow area that hold partials of a save (R363): those of its order that are marked in use. -/
def Device.slotsOf (d : Device) (p : Partition) (x : Saved) : List Nat :=
  x.ovfOrder.filter fun i => i < p.ovfSize / 32 && bitN (d.mem.nat (p.ovfBase + 32 * i + 24) 4) 31

/-- The saved partition, save n of the device, is placed on the quads of a partition and goes on. The write pointers continue from their
saved values; %clock counts the clocks since the save, unless it was made on another device (R102, R350). -/
def State.restoreAll (s : State) (pn n : Nat) (x : Saved) : State :=
  let d := s.dev
  let p := d.partAt pn
  let old := quadList x.quads
  let new := d.liveQuads pn
  let f := newCore old new
  let g := newDie old new
  let launches := x.launches.foldl (fun t l => tset t l.1 (l.2.moved f g pn)) d.launches
  let cores := x.cores.foldl (fun t c =>
    let y := c.2.moved (d.coreAt (f c.1)) f pn d.ticket
    tset t (f c.1) { y with abuf := d.movedPartials launches pn y.abuf (f c.1) }) d.cores
  let quads := x.quadsS.foldl (fun t q => tset t (f (4 * q.1) / 4) (q.2.moved f d.ticket)) d.quads
  let groups := x.colls.foldl (fun t c => tmod t c.1 fun y =>
    { y with queue := (c.2.map fun z => { z with core := f z.core, ticket := d.ticket }) ++ y.queue }) p.groups
  let slots := d.slotsOf p x
  let p := { p with
    saved := false, stop := x.stop, stopst := x.stopst, clock0 := if x.abroad then s.clock else x.since, ahead := x.clock
    groups := groups, ovfOrder := slots, ovfTickets := slots.foldl (fun t i => tset t i d.ticket) []
    ordinals := x.launches.foldl (fun n l => max n (l.2.ordinal + 1)) p.ordinals }
  let p := x.launches.foldl (fun p l => p.setHq l.2.queue { p.hq l.2.queue with running := some l.1 }) p
  let podTags := if x.abroad then d.takePods pn x.pods f else d.podTags.map fun t => (t.1, movedTags t.2 fun c =>
    if savedCore n 0 ≤ c && c < savedCore (n + 1) 0 then f (c - savedCore n 0) else c)
  { s with dev := { (d.setPart pn p) with
    cores := cores, quads := quads, launches := launches, podTags := podTags, saves := tdel d.saves n } }

/-- Do the bytes from an address equal some bytes? -/
def Memory.holds (m : Memory) (a : Nat) (bs : List Byte) : Bool :=
  (m.cells.filter fun c => a ≤ c.1 && c.1 < a + bs.length) == (runAt a bs).filter (·.2 != 0)

/-- The save that an area holds: its bytes are those of one that was made here, or on another device. -/
def Device.saveIn (d : Device) (base size : Nat) (abroad : Bool) : Option (Nat × Saved) :=
  d.saves.find? fun x => x.2.abroad == abroad && x.2.size ≤ size && d.mem.holds base (saveBytes x.2.draw x.2.size)

/-- RESTORE: opcode 0x0014. An area holds a save when its bytes are that save's, wherever the driver has moved them; a save is
restored once. While launches of the partition run, or a paused stack holds back the area (R237), the command waits (log entry 131). -/
def execRestore (part : Nat) (s : State) : Out :=
  let s := s.flush
  match s.dev.privCmd part 0x14 with
  | none => .next s
  | some (a, st) =>
    let f : Opnd := fun o n => s.dev.mem.nat (s.dev.locPlace part a + o) n
    let p := s.dev.partAt part
    let bad := fun (n : Nat) => (.next { s with dev := s.dev.finishCmd s.dev part 1 n st } : Out)
    if a % 8 ≠ 0 || f 0x10 8 > 1 then bad 1
    else if !p.configured then bad 2
    else if !p.inPairs (f 0 8) (f 8 8) then bad 4
    else if (s.dev.launches.any fun l => l.2.part = part) || s.dev.rangePaused (f 0 8) (f 8 8) then .next s
    else match s.dev.saveIn (f 0 8) (f 8 8) (f 0x10 8 == 1) with
      | none => bad 6
      | some (n, x) =>
        if (s.dev.liveQuads part).length < countBits x.quads 128 || countBits p.pairs.toNat 8 < countBits x.pairs 8 ||
            p.shares.foldl (· + ·) 0 < x.shares.foldl (· + ·) 0 then bad 7
        else
          let t := s.restoreAll part n x
          .next { t with dev := s.dev.finishCmd t.dev part 0 0 st }

/-- A save made on another device comes to this one (R350): its launches are none that this device knows. -/
def State.migrate (s : State) (x : Saved) : State :=
  let s := s.flush
  if x.launches.any fun l => l.1 < s.dev.nextLaunch then s
  else
    let next := x.launches.foldl (fun n l => max n (l.1 + 1)) s.dev.nextLaunch
    { s with
      uid := max s.uid x.uid, draws := max s.draws (x.draw + x.size / 8)
      dev := { s.dev with nextLaunch := next, saves := tset s.dev.saves s.dev.saveNo { x with abroad := true } } }

/-! ### Release (R382) -/

/-- The partition is unconfigured again: its launches, address spaces and tables are gone, what it held is zeroed (R384), its bridges
are unbound (R374), and it leaves its pod groups (R372). -/
def Device.freePart (d : Device) (clock pn : Nat) : Device :=
  let d := (d.launches.filter fun l => l.2.part = pn).foldl (fun d l => d.dropLaunch l.1) d
  let d := d.giveUp pn 0 0 [0, 0, 0, 0]
  let d := (List.range 16).foldl (fun d b => d.unbind clock pn b) d
  let mine := fun (a : Nat) => match tget d.asids a with | some x => x.part == pn | none => false
  let d := { d with
    tables := d.tables.filter fun t => !mine t.1, texts := d.texts.filter fun t => !mine t.2.1
    asids := d.asids.filter fun a => a.2.part != pn }
  let p := d.partAt pn
  let q := p.hq 0
  d.setPart pn { Partition.reset with
    cqbase := if p.loc then 0 else p.cqbase, cqcap := if p.loc then 0 else p.cqcap, pevt := p.pevt, keys := p.keys, owner := p.owner
    cap := p.cap, queues := if p.loc then [] else [(0, { HQueue.empty with head := q.head, tail := q.tail, errors := q.errors })] }

/-- RELEASE_PARTITION: opcode 0x0012 pre-empts the partition and, once it has drained, frees it. -/
def execReleasePartition (part : Nat) (s : State) : Out :=
  halting part s (runCmd 0x12 part (fun _ none_ => none_) (fun _ d =>
    let p := d.partAt part
    if p.preempt.isNone && !p.saved then .wait (d.setPart part { p with preempt := some (0, 0) })
    else if d.drained part then .ok (d.freePart s.clock part)
    else .wait d) s)

end Sys2Proof.Machine
end

