-- ==== Sys2Proof/Machine/Pipes.lean ====
section
/-! DEFINITION. The three pipes of a core: which of them an instruction needs, and for how many clocks (R73, R130, R153, R166, R168,
R173, R192, R244; log entry 97), and what waits for a streaming operation (R166). -/
namespace Sys2Proof.Machine

/-- The pipes of a core (R12). -/
inductive Pipe where
  | vec | scl | mem
  deriving DecidableEq, Repr

/-- So many clocks for each sweep in the vector pipe, or once in the scalar pipe for a scalar destination. -/
def State.lanePipe (s : State) (d : Dest) (m : Fin 16) (per once : Nat) : Pipe × Nat :=
  if d.isScl then (.scl, once) else (.vec, per * sweeps s.strand.width (s.path.mask m))

/-- The same for what writes a mask lane by lane. -/
def State.maskPipe (s : State) (m : Fin 16) (per : Nat) : Pipe × Nat := (.vec, per * sweeps s.strand.width (s.path.mask m))

/-- So many clocks for each sweep in the memory pipe, or once for a scalar access. -/
def State.memPipe (s : State) (scalar : Bool) (m : Fin 16) (per : Nat) : Pipe × Nat :=
  (.mem, per * if scalar then 1 else sweeps s.strand.width (s.path.mask m))

/-- Clocks of a sweep by the width of the type: integers and moves (R73), floats (R153), cross-lane moves (R168), accesses (R244). -/
def wideClocks (ty : Ty) : Nat := if ty.wide then 2 else 1
def floatClocks (ty : Ty) : Nat := if ty = .f64 then 2 else 1
def crossClocks (ty : Ty) : Nat := if ty.wide then 4 else 2
def memClocks (ty : Ty) : Nat := if ty.size = 8 then 2 else 1

/-- The pipe that an instruction needs and the clocks it occupies it for; 0 for what needs none. The clocks that bank conflicts add are
counted when they arise (R192). -/
def State.pipeUse (s : State) (i : Instr) : Pipe × Nat :=
  let int := fun (d : Dest) (m : Fin 16) (ty : Ty) => s.lanePipe d m (wideClocks ty) 1
  let float := fun (d : Dest) (m : Fin 16) (ty : Ty) => s.lanePipe d m (floatClocks ty) (floatClocks ty)
  let fn := fun (o : Fn1) (n : Nat) => s.lanePipe o.d o.mask (n * floatClocks o.ty) (n * floatClocks o.ty)
  let cross := fun (d : Dest) (m : Fin 16) (ty : Ty) => s.lanePipe d m (crossClocks ty) (crossClocks ty)
  match i with
  | .divq o | .remq o => s.lanePipe o.d o.mask (8 * wideClocks o.ty) 8
  | .add o | .sub o | .mul o | .mulhi o | .imin o | .imax o | .iand o | .ior o | .ixor o | .iandn o | .shl o | .shr o | .sar o
  | .rotl o | .bfx o | .addsat o | .subsat o => int o.d o.mask o.ty
  | .mad o | .bfi o | .sel o => int o.d o.mask o.ty
  | .iabs o | .ineg o | .inot o | .popc o | .clz o | .ctz o | .brev o | .mov o => int o.d o.mask o.ty
  | .addi o | .muli o | .andi o | .ori o | .xori o | .shli o | .shri o | .sari o | .mini o | .maxi o => int o.d o.mask o.ty
  | .cmpEq o | .cmpNe o | .cmpLt o | .cmpLe o | .cmpGt o | .cmpGe o => s.maskPipe o.mask (wideClocks o.ty)
  | .cmpiEq o | .cmpiNe o | .cmpiLt o | .cmpiLe o | .cmpiGt o | .cmpiGe o => s.maskPipe o.mask (wideClocks o.ty)
  | .movi o => int o.d o.mask o.ty
  | .mmov _ _ (.mask _) => (.scl, 1)
  | .mmov m _ (.value ty _) => s.maskPipe m (wideClocks ty)
  | .msel o => int o.d o.mask o.ty
  | .lea o | .leax o => s.lanePipe o.d o.mask 2 1
  | .movl o => int o.d o.mask o.ty
  | .call _ _ | .callx _ _ | .wrd _ _ _ | .feat _ _ | .tstamp _ => (.scl, 1)
  | .rdsr m d _ => s.lanePipe d m 1 1
  | .fadd o | .fsub o | .fmul o | .fmin o | .fmax o | .fcopysign o => float o.d o.mask o.ty
  | .fma o | .fclamp o | .fmax3 o | .fmin3 o | .dot2 o | .dot4 o | .dot8 o => float o.d o.mask o.ty
  | .fabs o | .fneg o => float o.d o.mask o.ty
  | .fdiv o => s.lanePipe o.d o.mask (8 * floatClocks o.ty) (8 * floatClocks o.ty)
  | .fsqrt o => fn o 8
  | .frcp o | .frsq o | .fexp2 o | .flog2 o | .fsin o | .fcos o | .ftanh o => fn o 4
  | .cvt o => let n := max (floatClocks o.dty) (floatClocks o.sty); s.lanePipe o.d o.mask n n
  | .cvtsc o | .cvtpk o => let n := max (floatClocks o.dty) (floatClocks o.sty); s.lanePipe o.d o.mask n n
  | .fcmp o => s.maskPipe o.mask (floatClocks o.ty)
  | .fclass o => float o.d o.mask o.ty
  | .fisnan o => s.maskPipe o.mask (floatClocks o.ty)
  | .sxAdd _ | .sxMul _ | .sxFma _ | .sxMax _ | .sxMin _ | .sxCvt _ | .sxExp2 _ | .sxSum _ => (.vec, sxClocks i * sxCount i)
  | .shflIdx o | .shflUp o | .shflDn o | .shflXor o | .bcast o => cross o.d o.mask o.ty
  | .matchLanes o => cross o.d o.mask o.ty
  | .scan o => cross o.d o.mask o.ty
  | .reduce o => cross o.d o.mask o.ty
  | .mrank o => cross o.d o.mask o.ty
  | .ballot _ _ _ | .any _ _ | .all _ _ | .mand _ _ _ _ | .mor _ _ _ _ | .mxor _ _ _ _ | .mnot _ _ _ | .mpop _ _ | .mfirst _ _
  | .mlast _ _ => (.scl, 1)
  | .ldG o | .ldR o | .ldH o | .ldC o => s.memPipe o.d.isScl o.mask (memClocks o.ty)
  | .stG o | .stR o | .stH o | .redAdd o | .redMin o | .redMax o => s.memPipe (Name.isScalar o.data) o.mask (memClocks o.ty)
  | .atomAdd o | .atomMin o | .atomMax o | .atomAnd o | .atomOr o | .atomXor o | .atomExch o | .atomCas o | .atomInc o =>
    s.memPipe o.d.isScl o.mask (memClocks o.ty)
  | .pfG o => s.memPipe false o.mask (memClocks o.ty)
  | .ldA o | .ldxA o | .ldW o | .crpop o | .crpeek o => s.memPipe o.d.isScl o.mask 1
  | .stA o | .stxA o => s.memPipe (Name.isScalar o.data) o.mask 1
  | _ => (.scl, 0)

def Core.pipe (c : Core) (p : Pipe) : PipeSt :=
  match p with
  | .vec => c.vecPipe
  | .scl => c.sclPipe
  | .mem => c.memPipe

def Core.setPipe (c : Core) (p : Pipe) (x : PipeSt) : Core :=
  match p with
  | .vec => { c with vecPipe := x }
  | .scl => { c with sclPipe := x }
  | .mem => { c with memPipe := x }

/-- Is the pipe that an instruction of the path in focus needs free (R151)? -/
def State.pipeFree (s : State) (i : Instr) : Bool :=
  let u := s.pipeUse i
  u.2 = 0 || (s.core.pipe u.1).free ≤ s.clock

/-- Does an instruction read or write the A-buffer? -/
def touchesA : Instr → Bool
  | .ldA _ | .stA _ | .ldxA _ | .stxA _ | .abinit _ _ _ | .abarrive _ | .abexpect _ _ | .abwait _ _
  | .sxAdd _ | .sxMul _ | .sxFma _ | .sxMax _ | .sxMin _ | .sxCvt _ | .sxExp2 _ | .sxSum _
  | .cpy _ | .cpyMc _ | .cpyst _ | .cpyfill _ | .mma _ | .epi _ _ _ => true
  | .qsend _ _ _ | .qrecv _ _ _ | .rolesw _ (some _) | .tspawn _ _ _ _ => true
  | _ => false

/-- Does an instruction perform a release, which waits for the path's earlier accesses (R206, R211)? -/
def performsRelease : Instr → Bool
  | .atomAdd o | .atomMin o | .atomMax o | .atomAnd o | .atomOr o | .atomXor o | .atomExch o | .atomCas o | .atomInc o =>
    o.sem == .rel || o.sem == .ar
  | .fence _ | .bar _ | .barv _ | .bararr _ | .qsend _ _ _ | .tspawn _ _ _ _ => true
  | _ => false

/-- Does an instruction of the path in focus wait for a streaming operation of its strand: for its own earlier accesses to the A-buffer
(R166)? -/
def State.streamHolds (s : State) (i : Instr) : Bool :=
  match s.core.stream with
  | some x => x.slot == s.slotNo && (touchesA i || performsRelease i)
  | none => false

/-- A core after an instruction has issued from the state `s`: its pipe is occupied, and longer by the clocks of bank conflicts, which
counter 7 has counted (R192). -/
def Core.occupy (c : Core) (s : State) (i : Instr) : Core :=
  let u := s.pipeUse i
  if u.2 = 0 then c
  else
    let extra := tgetD c.pmc 7 0 - tgetD s.core.pmc 7 0
    c.setPipe u.1 ⟨s.clock + u.2 + extra, s.path.pc⟩

end Sys2Proof.Machine
end

