-- ==== Sys2Proof/Machine/Registers.lean ====
section
/-! DEFINITION. The register space of the host ports: semaphores (R376, R377), control blocks (R379), events (R381), the debug blocks of
cores and partitions (R403, R410 to R414), with causal trials, stops, and stall samples (R408, R409). -/
namespace Sys2Proof.Machine

/-! ### Semaphores -/

def Sema.free : Sema := ⟨false, 0, 0, none⟩
def Device.sem (d : Device) (n : Nat) : Sema := tgetD d.sems n .free

/-- A write with HELD = 1 (R376): it acquires a free semaphore. The second such write of one clock to a semaphore that was free is a
tie, and the port that lost the last tie wins it, port 0 the first. -/
def Device.acquireSem (d : Device) (clock port n : Nat) (tag : BitVec 16) : Device :=
  let x := d.sem n
  if 32 ≤ n || 2 ≤ port then d
  else if !x.held then { d with sems := tset d.sems n ⟨true, port, tag, some clock⟩ }
  else if x.wonAt = some clock && x.port != port then
    let winner := match d.tieLast with | some w => 1 - w | none => 0
    { d with
      sems := tset d.sems n (if winner = port then ⟨true, port, tag, none⟩ else { x with wonAt := none }), tieLast := some winner }
  else d

def execSemaphoreAcquire (port sem : Nat) (tag : BitVec 16) (s : State) : Out :=
  let s := s.flush
  .next { s with dev := s.dev.acquireSem s.clock port sem tag }

/-- A write with HELD = 0 from the holder frees the semaphore. -/
def Device.freeSem (d : Device) (port n : Nat) : Device :=
  if (d.sem n).held && (d.sem n).port = port then { d with sems := tset d.sems n .free } else d

def execSemaphoreFree (port sem : Nat) (s : State) : Out :=
  let s := s.flush
  .next { s with dev := s.dev.freeSem port sem }

/-! ### Control blocks (R379) -/

/-- LOC, CQBASE and CQCAP take a write of the owner while the partition is unconfigured, and queue 0 starts anew. -/
def Device.writeControl (d : Device) (port pn off : Nat) (v : Word) : Device :=
  let p := d.partAt pn
  let x := { p.hq 0 with head := 0, tail := 0 }
  if 8 ≤ pn || d.holder pn != some port || p.configured then d
  else if off = 0 then
    d.setPart pn ({ p with loc := v.getLsbD 0 && p.pairs != 0, cqbase := v &&& ~~~0xFFF#64 }.setHq 0 x)
  else if off = 8 then d.setPart pn ({ p with cqcap := v.toNat % 16 }.setHq 0 x)
  else d

def execControlBlockWrite (port part off : Nat) (v : Word) (s : State) : Out :=
  let s := s.flush
  .next { s with dev := s.dev.writeControl port part off v }

/-! ### The debug block of a core (R403) -/

/-- Is the port the debug owner of the partition that a core belongs to? -/
def Device.debugs (d : Device) (port core : Nat) : Bool :=
  match d.ownerOf (quadOf core) with
  | some p => d.holder p == some port
  | none => false

def isPow2 (n : Nat) : Bool := (List.range 31).any fun i => n = 2 ^ i

def tsizeOk (n : Nat) : Bool := 4096 ≤ n && n ≤ 2 ^ 30 && isPow2 n

/-- Does a trace buffer lie in a stack pair of the partition? -/
def Partition.bufferOk (p : Partition) (base size : Nat) : Bool :=
  base % 4096 = 0 && backed base && backed (base + size - 1) && pairOf base = pairOf (base + size - 1) && p.pairs.getLsbD (pairOf base)

/-- A write of register 0x000: SP lies in its range, and EN is set only over a valid buffer; setting it starts the stream with a SYNC
packet, which waits while the stack of the buffer is paused (R237). Reserved bits read as zero (R6). -/
def State.writeTrace (s : State) (port core : Nat) (v : Word) : State :=
  let c := s.dev.coreAt core
  match s.dev.ownerOf (quadOf core) with
  | none => s
  | some pn =>
    let p := s.dev.partAt pn
    let g := c.dbg
    let v := v &&& 0xFF1F1F#64
    let sp := v.toNat / 2 ^ 8 % 32
    let was := g.ctl.getLsbD 0
    let v := if was then (v &&& 0xFFFF#64) ||| (g.ctl &&& 0xFF0000#64) else v
    let sets := v.getLsbD 0 && !was
    if !s.dev.debugs port core || sp < 6 || 20 < sp || (sets && !(tsizeOk g.tsize.toNat && p.bufferOk g.tbase.toNat g.tsize.toNat)) then s
    else if !sets then s.setCore core { c with dbg := { g with ctl := v }, progStop := false }
    else
      let now := p.now s.clock
      let g : Debug := { g with
        ctl := v, twp := 9, trd := 0, tloss := 0, lastClk := s.clock, sinceSync := 0, drops := 0, known := [], sampledAt := s.clock, buf := [] }
      if s.dev.paused g.tbase.toNat then
        let sync : Packet := {
          part := pn, slot := 0, byte := 0, mine := none, pc := 0, new := [], ty := 0x10, rest := [], clk := s.clock, starts := false }
        s.setCore core { c with dbg := { g with twp := 0, buf := [sync] }, progStop := false }
      else
      let m := s.dev.mem.write g.tbase.toNat (0x10#8 :: leBytes 8 now)
      let d := ({ s.dev with mem := m } : Device).traced core pn { g with twp := 0 } g
      ({ s with dev := d }).setCore core { c with dbg := g, progStop := false }

def execTraceControlWrite (port core : Nat) (v : Word) (s : State) : Out := .next (s.flush.writeTrace port core v)

/-- A write of another register of the block. -/
def State.writeCoreReg (s : State) (port core off : Nat) (v : Word) : State :=
  let c := s.dev.coreAt core
  let g := c.dbg
  let en := g.ctl.getLsbD 0
  let put := fun (x : Debug) => s.setCore core { c with dbg := x }
  let p := match s.dev.ownerOf (quadOf core) with | some pn => s.dev.partAt pn | none => .reset
  if !s.dev.debugs port core then s
  else if off = 0x000 then s.writeTrace port core v
  else if off = 0x008 then put { g with slots := v &&& 0xFFFFFFFFFFFF#64 }
  else if off = 0x010 then (if en || !p.bufferOk v.toNat 1 then s else put { g with tbase := v })
  else if off = 0x018 then (if en || !tsizeOk v.toNat then s else put { g with tsize := v })
  else if off = 0x028 then (if v ≤ g.twp then put { g with trd := v } else s)
  else if 0x100 ≤ off && off < 0x180 && off % 8 = 0 then s.setCore core { c with pmc := tset c.pmc ((off - 0x100) / 8) v.toNat }
  else if 0x180 ≤ off && off < 0x200 && off % 8 = 0 then s.setCore core { c with prog := tset c.prog ((off - 0x180) / 8) v.toNat }
  else s

/-! ### Causal trials (R410) -/

/-- The cores of a partition with their progress counters changed. -/
def Device.progress (d : Device) (pn : Nat) (f : Core → Core) : Device :=
  { d with cores := d.cores.map fun c => if (d.partAt pn).hasQuad (quadOf c.1) then (c.1, f c.2) else c }

/-- CTGO: the counters start from 0, and the trial runs for CTDUR clocks. -/
def Device.startTrial (d : Device) (clock port pn : Nat) (v : Word) : Device :=
  if 8 ≤ pn || d.holder pn != some port || !v.getLsbD 0 then d
  else
    let p := d.partAt pn
    let d := d.progress pn fun c => { c with prog := [], progStop := false }
    d.setPart pn { p with trial := some (clock + p.ctdur.toNat), ctstat := 1 }

def execCausalTrialGo (port part : Nat) (v : Word) (s : State) : Out :=
  let s := s.flush
  .next { s with dev := s.dev.startTrial s.clock port part v }

/-- The end of a trial, once its clocks have passed: CTSTAT holds the clock in which it ended. -/
def Device.endTrial (d : Device) (clock pn : Nat) : Device :=
  let p := d.partAt pn
  match p.trial with
  | some t =>
    if clock < t then d
    else (d.progress pn fun c => { c with progStop := true }).setPart pn
      { p with trial := none, ctstat := BitVec.ofNat 64 (2 + 4 * p.now t) }
  | none => d

def execCausalTrialEnd (part : Nat) (s : State) : Out :=
  let s := s.flush
  .next { s with dev := s.dev.endTrial s.clock part }

/-- Trials that end by a clock. -/
def Device.endTrials (d : Device) (clock : Nat) : Device := d.parts.foldl (fun d p => d.endTrial clock p.1) d

/-! ### Stops (R412) -/

def Device.writeStop (d : Device) (port pn : Nat) (v : Word) : Device :=
  if 8 ≤ pn || d.holder pn != some port || !v.getLsbD 0 then d else d.meetStop pn 4 0 0 0 0

def execStopWrite (port part : Nat) (v : Word) (s : State) : Out :=
  let s := s.flush
  .next { s with dev := s.dev.writeStop port part v }

/-- A path that waits for the debugger goes on, past the points that it has met. -/
def Path.resumed (p : Path) : Path := if p.status == .debug then { p with status := .ready } else p

/-- RESUME: the partition goes on. -/
def Device.writeResume (d : Device) (port pn : Nat) (v : Word) : Device :=
  let p := d.partAt pn
  if 8 ≤ pn || d.holder pn != some port || !v.getLsbD 0 || p.stop.isNone then d
  else
    let d := d.progress pn fun c => { c with strands := c.strands.map fun e =>
      (e.1, { e.2 with paths := e.2.paths.map fun q => (q.1, q.2.resumed) }) }
    d.setPart pn { p with stop := none }

def execResumeWrite (port part : Nat) (v : Word) (s : State) : Out :=
  let s := s.flush
  .next { s with dev := s.dev.writeResume port part v }

/-! ### The debug block of a partition, and every other register -/

def State.writePartReg (s : State) (port pn off : Nat) (v : Word) : State :=
  let d := s.dev
  let p := d.partAt pn
  let put := fun (x : Partition) => { s with dev := d.setPart pn x }
  if 8 ≤ pn || d.holder pn != some port then s
  else if off = 0x000 then put { p with ctlo := v }
  else if off = 0x008 then put { p with cthi := v }
  else if off = 0x010 then (if v &&& 63#64 = 0 then s else put { p with ctd := v &&& 63#64 })
  else if off = 0x018 then (if 1 ≤ v.toNat && v.toNat ≤ 2 ^ 40 then put { p with ctdur := v } else s)
  else if off = 0x020 then { s with dev := d.startTrial s.clock port pn v }
  else if 0x100 ≤ off && off < 0x140 && off % 8 = 0 then
    put { p with bps := tset p.bps ((off - 0x100) / 8) (v &&& 0x1FFFFFFFFFFFFF9#64) }
  else if 0x200 ≤ off && off < 0x280 && off % 8 = 0 && off % 32 < 24 then
    let n := (off - 0x200) / 32
    let (lo, hi, c) := tgetD p.wps n (0, 0, 0)
    if off % 32 = 16 then put { p with wps := tset p.wps n (lo, hi, v &&& 7#64) }
    else if v.toNat % 8 ≠ 0 then s
    else put { p with wps := tset p.wps n (if off % 32 = 0 then (v, hi, c) else (lo, v, c)) }
  else if off = 0x300 then { s with dev := d.writeStop port pn v }
  else if off = 0x310 then { s with dev := d.writeResume port pn v }
  else s

/-- A write to a port's register space (R375, R376, R379, R381, R403): each register by its offset; read-only ones and offsets without
a register take none (R7). -/
def State.writeReg (s : State) (port off : Nat) (v : Word) : State :=
  let d := s.dev
  if 0x1000 ≤ off && off < 0x1080 && off % 4 = 0 then
    let n := (off - 0x1000) / 4
    { s with dev := if v.getLsbD 31 then d.acquireSem s.clock port n (v.setWidth 16) else d.freeSem port n }
  else if 0x2000 ≤ off && off < 0x2800 then
    let pn := (off - 0x2000) / 0x100
    let o := off % 0x100
    if 0x40 ≤ o && o < 0x60 && o % 4 = 0 then
      match execDoorbell port pn ((o - 0x40) / 4) (v.setWidth 32) s with
      | .next t => t
      | _ => s
    else if o = 0x80 then
      if d.holder pn == some port then
        let p := d.partAt pn
        { s with dev := d.setPart pn { p with pevt := p.pevt &&& ~~~(v.setWidth 6) } }
      else s
    else { s with dev := d.writeControl port pn o v }
  else if off = 0x3000 then { s with dev := { d with devt := d.devt &&& ~~~(v.setWidth 6) } }
  else if 0x80000 ≤ off && off < 0x88000 then s.writePartReg port ((off - 0x80000) / 0x1000) (off % 0x1000) v
  else if 0x100000 ≤ off && off < 0x140000 then s.writeCoreReg port ((off - 0x100000) / 0x200) (off % 0x200) v
  else s

def execRegisterWrite (port off : Nat) (v : Word) (s : State) : Out := .next (s.flush.writeReg port off v)

/-! ### Reads of the register space (R7, R375, R376, R379, R381, R403, R410 to R414) -/

/-- A register of the debug block of a core as its debug owner reads it. -/
def Core.readReg (c : Core) (off : Nat) : Word :=
  let g := c.dbg
  if off = 0x000 then g.ctl
  else if off = 0x008 then g.slots
  else if off = 0x010 then g.tbase
  else if off = 0x018 then g.tsize
  else if off = 0x020 then g.twp
  else if off = 0x028 then g.trd
  else if off = 0x030 then g.tloss
  else if 0x100 ≤ off && off < 0x180 && off % 8 = 0 then BitVec.ofNat 64 (tgetD c.pmc ((off - 0x100) / 8) 0)
  else if 0x180 ≤ off && off < 0x200 && off % 8 = 0 then BitVec.ofNat 64 (tgetD c.prog ((off - 0x180) / 8) 0)
  else 0

/-- A register of the debug block of a partition; CTGO, STOP and RESUME are write only. -/
def Partition.readReg (p : Partition) (off : Nat) : Word :=
  if off = 0x000 then p.ctlo
  else if off = 0x008 then p.cthi
  else if off = 0x010 then p.ctd
  else if off = 0x018 then p.ctdur
  else if off = 0x028 then p.ctstat
  else if 0x100 ≤ off && off < 0x140 && off % 8 = 0 then tgetD p.bps ((off - 0x100) / 8) 0
  else if 0x200 ≤ off && off < 0x280 && off % 8 = 0 && off % 32 < 24 then
    let (lo, hi, c) := tgetD p.wps ((off - 0x200) / 32) (0, 0, 0)
    if off % 32 = 0 then lo else if off % 32 = 8 then hi else c
  else if off = 0x308 then p.stopst
  else if off = 0x400 then BitVec.ofNat 64 p.refused
  else if 0x408 ≤ off && off < 0x448 && off % 8 = 0 then BitVec.ofNat 64 (p.hq ((off - 0x408) / 8)).errors
  else 0

/-- A semaphore as SEMn reads. -/
def Sema.word (x : Sema) : Word := if x.held then BitVec.ofNat 64 (2 ^ 31 + x.port * 2 ^ 30 + x.tag.toNat) else 0

/-- What a port reads at an offset of its register space: a debug block is read by its debug owner alone, the doorbells are write only,
and an offset without a register reads as zero. -/
def Device.readReg (d : Device) (port off : Nat) : Word :=
  if 0x1000 ≤ off && off < 0x1080 && off % 4 = 0 then (d.sem ((off - 0x1000) / 4)).word
  else if 0x2000 ≤ off && off < 0x2800 then
    let p := d.partAt ((off - 0x2000) / 0x100)
    let o := off % 0x100
    if o = 0x00 then p.cqbase ||| (if p.loc then 1 else 0)
    else if o = 0x08 then BitVec.ofNat 64 p.cqcap
    else if o = 0x80 then p.pevt.setWidth 64
    else 0
  else if off = 0x3000 then d.devt.setWidth 64
  else if 0x80000 ≤ off && off < 0x88000 then
    let pn := (off - 0x80000) / 0x1000
    if d.holder pn == some port then (d.partAt pn).readReg (off % 0x1000) else 0
  else if 0x100000 ≤ off && off < 0x140000 then
    let c := (off - 0x100000) / 0x200
    if d.debugs port c then (d.coreAt c).readReg (off % 0x200) else 0
  else 0

/-- A port reads a register: the answer leaves through the port. -/
def Device.portRead (d : Device) (port off : Nat) : Device :=
  if 2 ≤ port then d else { d with portReads := d.portReads ++ [(port, off, d.readReg port off)] }

/-! ### Samples (R408, R409) -/

/-- The unit that was posted first among some, by its order. -/
def oldestPosted (us : List CUnit) : Option CUnit :=
  us.foldl (fun o u => match o with
    | none => some u
    | some x => if u.order < x.order then some u else o) none

/-- Does the engine that an instruction goes to have no room for it (R276)? -/
def State.engineFull (s : State) (i : Instr) : Bool :=
  let chan := fun (o : CopyOp) => 16 ≤ (s.core.chan o.chan.toNat).queue.length || !s.copyRoom o.k.val
  match i with
  | .cpy o | .cpyMc o | .cpyst o | .cpyfill o => chan o
  | .mma o => !s.entryRoom || !s.engineRoom o.k
  | .mcl o | .mclr o | .mrd o => !s.entryRoom || !s.engineRoom o.k
  | .epi _ _ k => 4 ≤ s.core.epis.length || !s.engineRoom k
  | .coll o => !s.engineRoom o.k || match s.part.group (s.scNat o.group) with | some g => 8 ≤ g.held | none => false
  | .collwait _ _ k _ => !s.engineRoom k
  | _ => false

/-- The reason why the path in focus does not issue, and the blame PC (R409). A fragment parked for its handler, for the debugger or for
page requests is a parked one, and so is a path that parks whole for page requests; what else is not ready has no code of its own, and
takes the last one (log entry 132). -/
def State.stallReason (s : State) : Nat × Word :=
  let w := s.path.blk.wordAt s.path.pc
  let i := w.bind fun w => match decode w (s.path.blk.wordAt (s.path.pc + 8)) with | .ok i => some i | .error _ => none
  let u := match i with | some i => usesInstr i | none => Uses.empty
  let pending := u.reads.findSome? fun n => (s.path.get n).bind fun r => if r.pend.isEmpty then none else some r.maker
  let counters := s.strand.counters
  let blame := fun (us : List CUnit) => match oldestPosted us with | some x => x.pc | none => 0
  let all := counters.flatMap fun c => c.2.units
  let pipe := match i with | some i => if s.pipeFree i then none else some (s.core.pipe (s.pipeUse i).1).pc | none => none
  if s.core.nextClk = s.clock + 1 && s.core.lastSlot = s.slotNo && s.core.lastPath = s.pathNo then (0, 0)
  else match s.path.status with
    | .join _ _ | .rejoinWait | .atRejoin | .stacked _ _ _ => (4, 0)
    | .barrier _ _ _ _ => (5, 0)
    | .abwait _ _ _ _ _ => (6, 0)
    | .sleep _ => (9, 0)
    | .fetch _ _ _ _ | .refetch => (11, 0)
    | .roleWait _ _ | .queueErr => (8, 0)
    | .pages _ _ => (12, match s.path.redo with | some r => r.pc | none => s.path.pc)
    | .trapped => if s.path.frag = 0 then (13, 0) else (12, match s.path.trap with | some t => t.fpc | none => s.path.pc)
    | .debug => if s.path.frag = 0 then (13, 0) else (12, match s.path.redo with | some r => r.pc | none => s.path.pc)
    | .grow _ _ => (13, 0)
    | .ready =>
      match pending, s.path.window with
      | some m, _ => (1, m)
      | none, win =>
        if s.path.starved then (2, 0)
        else if let some pc := pipe then (3, pc)
        else if (match w with | some w => gateOf s.path (majorOf w) u == Gate.hold | none => s.path.windowOpen) then
          (3, match win with | some x => x.pc | none => 0)
        else
          let major := match w with | some w => majorOf w | none => 0
          match i with
          | some (.wait k t) =>
            if s.scNat t < s.strand.outstanding k.val then (7, blame (s.strand.counter k.val).units) else (13, 0)
          | _ =>
            if (i == some Instr.waitall || major = 0x22) && !all.isEmpty then (7, blame all)
            else if s.path.blocked.isSome then (8, 0)
            else if (match i with | some i => s.engineFull i | none => false) then (10, 0)
            else (13, 0)

/-- Slots of a core whose strands are traced and hold a path slot. -/
def Core.sampled (c : Core) : List Nat :=
  (c.strands.filter fun e => c.dbg.slots.getLsbD e.1 && e.2.paths.any fun p => p.2.slot.isSome).map (·.1)

/-- The next of some slots in ascending order after one, wrapping from 47 to 0. -/
def nextSlot (after : Nat) (xs : List Nat) : Option Nat :=
  ((List.range 48).map fun i => (after + 1 + i) % 48).find? xs.contains

/-- A bit of a word of strand slots, set or cleared. -/
def setBit48 (x : BitVec 48) (i : Nat) (b : Bool) : BitVec 48 :=
  if b then x ||| BitVec.ofNat 48 (2 ^ i) else x &&& ~~~(BitVec.ofNat 48 (2 ^ i))

/-- SAMPLE: once 2^SP clocks have passed since the last one is due, the next traced strand is sampled, and within it its path slots in
turn, or the one that holds a path. -/
def State.takeSample (s : State) (cn : Nat) : State :=
  let c := s.dev.coreAt cn
  let g := c.dbg
  let sp := g.ctl.toNat / 2 ^ 8 % 32
  if !g.on 4 || s.clock < g.sampledAt + 2 ^ sp then s
  else match nextSlot g.sampleSlot c.sampled with
    | none => s.setCore cn { c with dbg := { g with sampledAt := s.clock } }
    | some sl =>
      match tget c.strands sl with
      | none => s
      | some st =>
        let inSlot := fun (k : Nat) => st.paths.find? fun p => p.2.slot == some k
        let want := if g.sampleNext.getLsbD sl then 1 else 0
        let k := if (inSlot want).isSome then want else 1 - want
        match inSlot k with
        | none => s
        | some (pn, _) =>
          let s := s.setCore cn { c with dbg := { g with sampleSlot := sl, sampleNext := setBit48 g.sampleNext sl (k = 0), sampledAt := s.clock } }
          match s.load cn sl pn with
          | none => s
          | some t =>
            let r := t.stallReason
            (t.trace 4 0x80 0 t.path.pc [] ([BitVec.ofNat 8 r.1, 0, 0] ++ leBytes 8 t.path.pc.toNat ++ leBytes 8 r.2.toNat)).flush

def execSample (core : Nat) (s : State) : Out := .next (s.flush.takeSample core)

/-- The samples of the cores that fall due before a clock, each at the end of the clock in which it is due (R408). -/
def State.sampleAll (s : State) (till : Nat) : State :=
  s.dev.cores.foldl (fun s c =>
    if !c.2.dbg.on 4 then s
    else
      let per := 2 ^ (c.2.dbg.ctl.toNat / 2 ^ 8 % 32)
      let due := max s.clock (c.2.dbg.sampledAt + per)
      (List.range ((till - due + per - 1) / per)).foldl (fun s i =>
        { ({ s with clock := due + i * per } : State).takeSample c.1 with clock := s.clock }) s) s

/-- Changes of owner, looked at when a clock ends, so that ties are decided. -/
def Device.settleOwners (d : Device) (clock : Nat) : Device := d.parts.foldl (fun d p => d.settleOwner clock p.1) d

end Sys2Proof.Machine
end

