-- ==== Sys2Proof/Machine/Reliability.lean ====
section
/-! DEFINITION. What befalls the package: reset, links, dies, stacks, firmware, the fabric (R237, R239, R364 to R372, R377, R386,
R387). -/
namespace Sys2Proof.Machine

/-! ### Reset and the links of the host ports -/

/-- POWER_ON_RESET (R387): the package comes up as `State.reset` says, on firmware slot A, or B where A fails its verification, which the
device decides for itself (log entry 9). The memories of the hosts and of other devices, and what the model counts for itself, go
on. -/
def execPowerOnReset (s : State) : Out :=
  let s := s.flush
  .next { State.reset with
    dev := { Device.reset with
      mem := ⟨s.dev.mem.cells.filter fun c => 2 ^ 64 ≤ c.1⟩, fwSlot := (Config.freeWord s.draws).getLsbD 0 }
    clock := s.clock, uid := s.uid, draws := s.draws + 1, turns := s.turns }

def Device.linkAt (d : Device) (port : Nat) : Option Nat := tgetD d.links port none

/-- LINK_DOWN (R377). -/
def execLinkDown (port : Nat) (s : State) : Out :=
  let s := s.flush
  if 2 ≤ port || (s.dev.linkAt port).isSome then .next s
  else .next { s with dev := { s.dev with links := tset s.dev.links port (some s.clock) } }

/-- Semaphores that a port holds. -/
def Device.heldBy (d : Device) (port : Nat) : List Nat := (List.range 32).filter fun n => d.holder n == some port

/-- SEMAPHORE_LINK_FREE (R377): 1,600 clocks after the loss every semaphore of the port is freed. -/
def Device.freeLink (d : Device) (clock port : Nat) : Device :=
  match d.linkAt port with
  | none => d
  | some t =>
    if clock < t + 1600 then d
    else
      let mine := d.heldBy port
      let d := mine.foldl (fun d n => d.freeSem port n) { d with links := tdel d.links port }
      if mine.isEmpty then d else d.devent 5

def execSemaphoreLinkFree (port : Nat) (s : State) : Out :=
  let s := s.flush
  .next { s with dev := s.dev.freeLink s.clock port }

/-! ### Dies (R364 to R367) -/

/-- Runs of cohort numbers of a launch that a die holds: those placed on it, with their keys, and those held in its chunks. -/
def Device.placedOn (d : Device) (lid die : Nat) : List (Nat × Nat) :=
  ((d.cores.filter fun c => dieOf c.1 = die).flatMap fun c =>
    (c.2.cohorts.filter fun h => h.2.launch = lid && !h.2.task).map fun h => (h.1, h.2.number)).eraseDups

def Launch.heldOn (l : Launch) (die : Nat) : List (Nat × Nat) := (tgetD l.dists die ⟨[], none⟩).chunks

/-- Has a launch work on a die? -/
def Device.struck (d : Device) (lid die : Nat) (l : Launch) : Bool :=
  !(l.heldOn die).isEmpty || d.cores.any fun c => dieOf c.1 = die && (c.2.cohorts.any (fun h => h.2.launch = lid) ||
    c.2.strands.any fun e => e.2.launch = lid)

/-- A launch after the fence of a die (R366): a struck one is reissued on the live dies or ends with status 0x03. The device is
that of before the fence but for the die's mark. -/
def Device.strike (d : Device) (die lid : Nat) (l : Launch) : Device :=
  let l1 := { l with dists := tdel l.dists die }
  let put := fun (d : Device) (x : Launch) => { d with launches := tset d.launches lid x }
  if !d.struck lid die l then put d l1
  else if l.reissuable && !(d.diesOf l.part).isEmpty then
    let placed := d.placedOn lid die
    let runs := placed.map (fun h => (h.2, 1)) ++ l.heldOn die
    let n := runs.foldl (fun n r => n + r.2) 0
    let d := put d { l1 with placed := l.placed - placed.length, reissued := l.reissued + n }
    runs.foldl (fun d r => d.requeue lid r) d
  else put d { l1 with ending := some (l.ending.getD (3, [])) }

/-- What the cores, quads and the collective engine of a die hold is gone: accesses in flight are discarded, partials lost (R364). -/
def Device.stopDie (d : Device) (die : Nat) : Device :=
  let on := fun (c : Nat) => dieOf c = die
  let slots := (d.cores.filter fun c => on c.1).flatMap fun c => c.2.strands.map fun e => (c.1, e.1)
  let d := slots.foldl (fun d x => d.orphan x.1 x.2) d
  { d with
    cores := d.cores.map fun c => if on c.1 then (c.1, c.2.emptied) else c
    quads := d.quads.filter fun q => q.1 / 32 != die
    parts := d.parts.map fun p => (p.1, { p.2 with groups := p.2.groups.map fun g =>
      (g.1, { g.2 with queue := g.2.queue.filter fun x => !on x.core }) }) }

/-- DIE_FENCE. -/
def Device.fenceDie (d : Device) (clock die : Nat) (l2Fault : Bool) : Device :=
  let x := d.dieAt die
  let d := d.setDie die { x with fenced := true, l2Fault := x.l2Fault || l2Fault, copies := [] }
  if x.fenced then d
  else
    let d := d.launches.foldl (fun d l => d.strike die l.1 l.2) d
    let d := d.stopDie die
    let d : Device := { d with parts := d.parts.map fun p =>
      (p.1, if p.2.configured && p.2.master = die then { p.2 with electing := some clock } else p.2) }
    let hit := (d.parts.filter fun p => p.2.quads.toNat / 2 ^ (32 * die) % 2 ^ 32 ≠ 0).map (·.1)
    (hit.foldl (fun d p => d.pevent p 5) d).devent 2

def execDieFence (die : Nat) (l2Fault : Bool) (s : State) : Out :=
  let s := s.flush
  if 4 ≤ die then .next s else .next { s with dev := s.dev.fenceDie s.clock die l2Fault }

/-- MASTER_ELECTION (R365): the lowest live die of the partition takes over. -/
def Device.elect (d : Device) (part : Nat) : Device :=
  let p := d.partAt part
  match p.electing, d.diesOf part with
  | some _, m :: _ => d.setPart part { p with master := m, electing := none }
  | _, _ => d

def execMasterElection (part : Nat) (s : State) : Out :=
  let s := s.flush
  .next { s with dev := s.dev.elect part }

/-! ### Stacks (R237, R239, R386) -/

def Device.stack (d : Device) (n : Nat) : Stack := tgetD d.hbmStacks n ⟨none, false⟩

/-- STACK_SELF_REFRESH: accesses to the stack wait. -/
def Device.refresh (d : Device) (clock n : Nat) : Device :=
  let x := d.stack n
  if 16 ≤ n || x.refresh.isSome || x.fenced then d
  else ({ d with hbmStacks := tset d.hbmStacks n { x with refresh := some clock } }).devent 0

def execStackSelfRefresh (stack : Nat) (s : State) : Out :=
  let s := s.flush
  .next { s with dev := s.dev.refresh s.clock stack }

/-- STACK_RESUME: they go on. -/
def Device.resumeStack (d : Device) (n : Nat) : Device :=
  let x := d.stack n
  if x.refresh.isNone || x.fenced then d else { d with hbmStacks := tset d.hbmStacks n { x with refresh := none } }

def execStackResume (stack : Nat) (s : State) : Out :=
  let s := s.flush
  .next { s with dev := s.dev.resumeStack stack }

/-- STACK_FENCE: 10 ms after the refresh began the stack may be fenced, and its accesses complete with MEMERR. -/
def Device.fenceStack (d : Device) (clock n : Nat) : Device :=
  let x := d.stack n
  match x.refresh with
  | some t =>
    if x.fenced || clock < t + 8000000 then d
    else
      let d := ({ d with hbmStacks := tset d.hbmStacks n { x with fenced := true } }).devent 1
      ((d.parts.filter fun p => p.2.pairs.getLsbD (n % 8)).map (·.1)).foldl (fun d p => d.pevent p 4) d
  | none => d

def execStackFence (stack : Nat) (s : State) : Out :=
  let s := s.flush
  .next { s with dev := s.dev.fenceStack s.clock stack }

/-- HBM_CHANNEL_SPARING: latency only. -/
def execHbmChannelSparing (_stack : Nat) (s : State) : Out := .next s.flush

/-- REFRESH_POSTPONEMENT_LIMIT: latency only. -/
def execRefreshPostponementLimit (_core _chan : Nat) (s : State) : Out := .next s.flush

/-! ### Firmware (R386) -/

/-- FIRMWARE_HANDOVER, by the port that holds semaphore 8 (R377): the idle slot takes over when its image verifies against the key in
fuses (R385) and starts up, and the old image resumes otherwise. -/
def Device.handOver (d : Device) (port : Nat) (image sig : List Byte) (starts : Bool) : Device :=
  if d.holder 8 != some port then d
  else if slhVerify Config.fuseKey sig image && starts then ({ d with fwSlot := !d.fwSlot }).devent 3
  else d.devent 4

def execFirmwareHandover (h : Handover) (s : State) : Out :=
  let s := s.flush
  .next { s with dev := s.dev.handOver h.port h.image h.sig h.starts }

/-! ### Routing, DMA windows and limiters of the hub die (R377, R382, R383) -/

/-- A table of entries with one set by the holder of semaphore 8, unless the entry that stands there, or the new one, serves a sealed
partition. -/
def Device.setEntry (d : Device) (port n : Nat) (e : HubEntry) (t : Tbl HubEntry) : Tbl HubEntry :=
  let sealed := fun (p : Nat) => (d.partAt p).sealed
  if d.holder 8 != some port || sealed e.part || (match tget t n with | some x => sealed x.part | none => false) then t else tset t n e

def Device.setRoute (d : Device) (port n : Nat) (e : HubEntry) : Device := { d with routes := d.setEntry port n e d.routes }
def Device.setWindow (d : Device) (port n : Nat) (e : HubEntry) : Device := { d with windows := d.setEntry port n e d.windows }

/-- The line rate of a port in GB/s: 250 for each of the 32 fabric ports (R15), that of the two host ports not stated. -/
def lineRate (n : Nat) : Nat := if n < 32 then 250 else Config.hostLineRate

/-- The rate of an egress limiter, set by the holder of semaphore 8 and never above the line rate. -/
def Device.setRate (d : Device) (port n rate : Nat) : Device :=
  if 34 ≤ n || d.holder 8 != some port then d else { d with egress := tset d.egress n (min rate (lineRate n)) }

/-- The thermal cap takes only a value below its current one, from the holder of semaphore 8. -/
def Device.lowerThermal (d : Device) (port cap : Nat) : Device :=
  if d.holder 8 == some port && cap < d.thermal.getD Config.thermalCap then { d with thermal := some cap } else d

/-- The cap of the module's power takes only a value below its current one, from the holder of semaphore 8 (R16, R377, R383); no
partition's cap stands above it (R388, log entry 137). -/
def Device.lowerModule (d : Device) (port cap : Nat) : Device :=
  if d.holder 8 == some port && cap < d.moduleCap then
    (List.range 8).foldl (fun d p => if (d.partAt p).cap ≤ cap then d else d.setPart p { d.partAt p with cap := cap })
      { d with moduleCap := cap }
  else d

/-! ### The fabric (R368 to R372) -/

/-- Collectives of a group with a member on a device end here with detail 0x04: those under way. -/
def State.cutColl (s : State) (dev pn g : Nat) : State :=
  match ((tget (s.dev.partAt pn).groups g).map (·.queue)).getD [] with
  | x :: _ => if !x.wait && x.members.any fun m => m % 2 ^ 14 = dev then s.endColl pn g x 4 else s
  | [] => s

/-- SHANOV_LINK_FAILURE (R369, R371): a lane or a port lost while a route remains adds latency only; without a route, accesses to the
device end with LINKERR, and the collectives under way that it takes part in fail. -/
def execShanovLinkFailure (dev : Nat) (lost : Bool) (s : State) : Out :=
  let s := s.flush
  if !lost || s.dev.cut.contains dev then .next s
  else
    let s := { s with dev := { s.dev with cut := s.dev.cut ++ [dev] } }
    let gs := s.dev.parts.flatMap fun p => p.2.groups.map fun g => (p.1, g.1)
    .next (gs.foldl (fun s x => s.cutColl dev x.1 x.2) s)

/-- Have the members on this device that a binding names all bound the group alike? Members elsewhere answer with the event. -/
def Device.allBound (d : Device) (x : PodSlot) : Bool :=
  (List.range x.m).all fun r =>
    x.members.getD r 0 ≠ Config.pkgNumber.toNat ||
      d.parts.any fun p => p.2.pods.any fun y => y.2.key = x.key && y.2.m = x.m && y.2.members = x.members && y.2.rank = r

/-- POD_GROUP_LIVE (R372). -/
def Device.podLives (d : Device) (part slot : Nat) : Device :=
  match tget (d.partAt part).pods slot with
  | none => d
  | some x =>
    if !d.allBound x then d
    else { d with parts := d.parts.map fun p => (p.1, { p.2 with pods := p.2.pods.map fun y =>
      (y.1, if y.2.key = x.key && y.2.m = x.m && y.2.members = x.members then { y.2 with live := true } else y.2) }) }

def execPodGroupLive (part slot : Nat) (s : State) : Out :=
  let s := s.flush
  .next { s with dev := s.dev.podLives part slot }

/-- Bytes that a remote request covers, and whether it reads and writes. -/
def reqLen : RemoteReq → Nat
  | .load n => n
  | .store bs => bs.length
  | .atomic _ t _ _ => t.size
def reqReads : RemoteReq → Bool
  | .store _ => false
  | _ => true
def reqWrites : RemoteReq → Bool
  | .load _ => false
  | _ => true

/-- The place that an entry of the export table grants a request of up to 64 bytes (R368, R369). -/
def Export.grants (e : Export) (p : Partition) (dev addr : Nat) (r : RemoteReq) : Option Nat :=
  if 0 < reqLen r && reqLen r ≤ 64 then e.grantsTo p dev addr (reqLen r) (reqReads r) (reqWrites r) else none

/-- The bytes of a request as conflict tags see them. -/
def reqAccs (a n : Nat) : List LaneAcc :=
  (List.range n).map fun i => { laneAcc .n8 .add 0 0 0 0 with pa := a + i, rd := true }

/-- Is a request plain: a load or a store? -/
def reqPlain : RemoteReq → Bool
  | .atomic _ _ _ _ => false
  | _ => true

/-- A request performed at its home (R219): what it answers, and the memory after it. -/
def reqAct (m : Memory) (a : Nat) (r : RemoteReq) : List Byte × Memory :=
  match r with
  | .load n => (m.read a n, m)
  | .store bs => ([], m.write a bs)
  | .atomic k t v w =>
    let old := BitVec.ofNat 64 (m.nat a t.size)
    (leBytes t.size old.toNat, m.write a (leBytes t.size (atomVal k t old v w).toNat))

/-- A strand of another device is heard of (R220): its core and the ordinals of its last releases, or that it has ended or been pre-empted
there, after which its records count no more (R222, R223). -/
def Device.hearStrand (d : Device) (me : Nat) : Option RemRel → Device
  | some r => { d with remRel := tset d.remRel me r }
  | none => { d with remRel := tdel d.remRel me, ctags := d.ctags.map fun t => (t.1, t.2.withoutStrand me) }

/-- REMOTE_ACCESS (R368 to R370): the request is checked against the partition's export table and performed at its home, or refused and
counted; the reply goes back. A request of a strand that accesses with race detection (`who.sid` not 0) tells of its releases, and a plain
one checks the home's conflict tags first, and sets them (R221 to R223). -/
def State.remote (s : State) (part dev addr : Nat) (who : RemoteStrand) (r : RemoteReq) : State :=
  let p := s.dev.partAt part
  let reply := fun (s : State) (x : Option (List Byte)) => { s with dev := { s.dev with replies := s.dev.replies ++ [(dev, x)] } }
  match p.exports.findSome? fun e => e.2.grants p dev addr r with
  | none => reply { s with dev := s.dev.setPart part { p with refused := p.refused + 1 } } none
  | some a =>
    let bytes := List.range (reqLen r)
    let me := remoteIdentity dev who.sid
    let accs := if who.sid = 0 || !reqPlain r then [] else reqAccs a (reqLen r)
    if bytes.any fun i => s.dev.paused (a + i) then s
    else if bytes.any (fun i => s.dev.lost (a + i)) || accs.any (s.races me who.core (reqWrites r)) then reply s none
    else
      let x := reqAct s.dev.mem a r
      let s1 := if who.sid = 0 then s
        else { s with dev := s.dev.hearStrand me (some ⟨who.core, who.rel⟩) }.setTagsBy me who.o (who.rel.getD 0 0) (reqWrites r) accs
      reply { s1 with dev := { s1.dev with mem := x.2 } } (some x.1)

def execRemoteAccess (part dev : Nat) (addr : Word) (r : RemoteMsg) (s : State) : Out :=
  .next (s.flush.remote part dev addr.toNat r.who r.req)

end Sys2Proof.Machine
end

