-- ==== Sys2Proof/Machine/Walkers.lean ====
section
/-! DEFINITION. Walkers: `brw`, major 0x09, and `wset`, `wrd`, `wend`, major 0x0A (R43, R44, R91 to R93). -/
namespace Sys2Proof.Machine

/-- An end flag of a walker. -/
def Walker.flag (w : Walker) (e : Fin 3) : Bool := match e with | 0 => w.e0 | 1 => w.e1 | _ => w.e2

def Walker.clear (w : Walker) (e : Fin 3) : Walker :=
  match e with | 0 => { w with e0 := false } | 1 => { w with e1 := false } | _ => { w with e2 := false }

/-- `brw` and `brw.e` (R91): test the flag, clear it, transfer or go on; EXNAME on an unset walker. -/
def brwOp (w : Fin 8) (e : Fin 3) (onSet : Bool) (off : BitVec 27) (s : State) : Ex State := do
  endsBlock s
  match tget s.path.walkers w.val with
  | none => raise cExname s
  | some x =>
    let s1 := { s with path := { s.path with walkers := tset s.path.walkers w.val (x.clear e) } }
    .ok (if x.flag e == onSet then s1.jump (branchTo s.path.pc off) ⟨[], [(w.val, x)], none⟩ else s1.notTaken)

def execBrw (w : Fin 8) (e : Fin 3) (onSet : Bool) (off : BitVec 27) (s : State) : Out := (brwOp w e onSet off s).out

/-- A walker as `wset` leaves it (R43, R92): a dimension left out has count 1 and stride 0. -/
def walkerOf (o : WsetOp) (base : Word) : Walker :=
  let c := fun (x : BitVec 12) => if x = 0 then 1 else x.toNat
  let t := fun (x : BitVec 12) (y : BitVec 20) => if x = 0 then 0 else y
  { base := base, c0 := c o.c0, c1 := c o.c1, c2 := c o.c2, t0 := t o.c0 o.t0, t1 := t o.c1 o.t1, t2 := t o.c2 o.t2
    i0 := 0, i1 := 0, i2 := 0, e0 := false, e1 := false, e2 := false }

def execWset (o : WsetOp) (s : State) : Out :=
  (scalarOp [(scSrc o.base, .n64)] (fun v s1 =>
    let x := walkerOf o (v.getD 0 0)
    .ok ({ s1 with path := s1.path.onWalker o.w.val (some x) fun _ => some x }).done) s).out

/-- `wrd` (R93): the current address, or an index; EXNAME on an unset walker. -/
def wrdOp (d : Dest) (w : Fin 8) (sel : BitVec 2) (s : State) : Ex State :=
  match tget s.path.walkers w.val with
  | none => raise cExname s
  | some x =>
    let v : Word := match sel.toNat with
      | 0 => x.addr | 1 => BitVec.ofNat 64 x.i0 | 2 => BitVec.ofNat 64 x.i1 | _ => BitVec.ofNat 64 x.i2
    (setScalar d (sel == 0) v s s).map State.done

def execWrd (d : Dest) (w : Fin 8) (sel : BitVec 2) (s : State) : Out := (wrdOp d w sel s).out

/-- `wend` (R93). -/
def execWend (w : Fin 8) (s : State) : Out :=
  .next ({ s with path := s.path.onWalker w.val none fun _ => none }).done

end Sys2Proof.Machine
end

