-- ==== Sys2Proof/Machine/Dispatch.lean ====
section
/-! DEFINITION. The meaning of every step: one arm per constructor of `Instr`. -/
namespace Sys2Proof.Machine

def exec (i : Instr) (s : State) : Host.Outcome State Fault Refusal :=
  match i with
  | .add o => Sys2Proof.Machine.execAdd o s
  | .sub o => Sys2Proof.Machine.execSub o s
  | .mul o => Sys2Proof.Machine.execMul o s
  | .mulhi o => Sys2Proof.Machine.execMulhi o s
  | .mad o => Sys2Proof.Machine.execMad o s
  | .imin o => Sys2Proof.Machine.execMin o s
  | .imax o => Sys2Proof.Machine.execMax o s
  | .iabs o => Sys2Proof.Machine.execAbs o s
  | .ineg o => Sys2Proof.Machine.execNeg o s
  | .iand o => Sys2Proof.Machine.execAnd o s
  | .ior o => Sys2Proof.Machine.execOr o s
  | .ixor o => Sys2Proof.Machine.execXor o s
  | .iandn o => Sys2Proof.Machine.execAndn o s
  | .inot o => Sys2Proof.Machine.execNot o s
  | .shl o => Sys2Proof.Machine.execShl o s
  | .shr o => Sys2Proof.Machine.execShr o s
  | .sar o => Sys2Proof.Machine.execSar o s
  | .rotl o => Sys2Proof.Machine.execRotl o s
  | .popc o => Sys2Proof.Machine.execPopc o s
  | .clz o => Sys2Proof.Machine.execClz o s
  | .ctz o => Sys2Proof.Machine.execCtz o s
  | .brev o => Sys2Proof.Machine.execBrev o s
  | .bfx o => Sys2Proof.Machine.execBfx o s
  | .bfi o => Sys2Proof.Machine.execBfi o s
  | .sel o => Sys2Proof.Machine.execSel o s
  | .divq o => Sys2Proof.Machine.execDivq o s
  | .remq o => Sys2Proof.Machine.execRemq o s
  | .addsat o => Sys2Proof.Machine.execAddsat o s
  | .subsat o => Sys2Proof.Machine.execSubsat o s
  | .addi o => Sys2Proof.Machine.execAddi o s
  | .muli o => Sys2Proof.Machine.execMuli o s
  | .andi o => Sys2Proof.Machine.execAndi o s
  | .ori o => Sys2Proof.Machine.execOri o s
  | .xori o => Sys2Proof.Machine.execXori o s
  | .shli o => Sys2Proof.Machine.execShli o s
  | .shri o => Sys2Proof.Machine.execShri o s
  | .sari o => Sys2Proof.Machine.execSari o s
  | .mini o => Sys2Proof.Machine.execMini o s
  | .maxi o => Sys2Proof.Machine.execMaxi o s
  | .cmpEq o => Sys2Proof.Machine.execCmpEq o s
  | .cmpNe o => Sys2Proof.Machine.execCmpNe o s
  | .cmpLt o => Sys2Proof.Machine.execCmpLt o s
  | .cmpLe o => Sys2Proof.Machine.execCmpLe o s
  | .cmpGt o => Sys2Proof.Machine.execCmpGt o s
  | .cmpGe o => Sys2Proof.Machine.execCmpGe o s
  | .cmpiEq o => Sys2Proof.Machine.execCmpiEq o s
  | .cmpiNe o => Sys2Proof.Machine.execCmpiNe o s
  | .cmpiLt o => Sys2Proof.Machine.execCmpiLt o s
  | .cmpiLe o => Sys2Proof.Machine.execCmpiLe o s
  | .cmpiGt o => Sys2Proof.Machine.execCmpiGt o s
  | .cmpiGe o => Sys2Proof.Machine.execCmpiGe o s
  | .mov o => Sys2Proof.Machine.execMov o s
  | .movi o => Sys2Proof.Machine.execMovi o s
  | .drop x cnt => Sys2Proof.Machine.execDrop x cnt s
  | .hold x cnt => Sys2Proof.Machine.execHold x cnt s
  | .mmov mask md a => Sys2Proof.Machine.execMmov mask md a s
  | .msel o => Sys2Proof.Machine.execMsel o s
  | .lea o => Sys2Proof.Machine.execLea o s
  | .leax o => Sys2Proof.Machine.execLeax o s
  | .movl o => Sys2Proof.Machine.execMovl o s
  | .br off => Sys2Proof.Machine.execBr off s
  | .brd mc neg off => Sys2Proof.Machine.execBrd mc neg off s
  | .brnz x off => Sys2Proof.Machine.execBrnz x off s
  | .brz x off => Sys2Proof.Machine.execBrz x off s
  | .call d off => Sys2Proof.Machine.execCall d off s
  | .callx d t => Sys2Proof.Machine.execCallx d t s
  | .ret x => Sys2Proof.Machine.execRet x s
  | .exit => Sys2Proof.Machine.execExit s
  | .brw w e onSet off => Sys2Proof.Machine.execBrw w e onSet off s
  | .wset o => Sys2Proof.Machine.execWset o s
  | .wrd d w sel => Sys2Proof.Machine.execWrd d w sel s
  | .wend w => Sys2Proof.Machine.execWend w s
  | .fadd o => Sys2Proof.Machine.execFadd o s
  | .fsub o => Sys2Proof.Machine.execFsub o s
  | .fmul o => Sys2Proof.Machine.execFmul o s
  | .fma o => Sys2Proof.Machine.execFma o s
  | .fmin o => Sys2Proof.Machine.execFmin o s
  | .fmax o => Sys2Proof.Machine.execFmax o s
  | .fabs o => Sys2Proof.Machine.execFabs o s
  | .fneg o => Sys2Proof.Machine.execFneg o s
  | .fcopysign o => Sys2Proof.Machine.execFcopysign o s
  | .fclamp o => Sys2Proof.Machine.execFclamp o s
  | .fmax3 o => Sys2Proof.Machine.execFmax3 o s
  | .fmin3 o => Sys2Proof.Machine.execFmin3 o s
  | .fdiv o => Sys2Proof.Machine.execFdiv o s
  | .frcp o => Sys2Proof.Machine.execFrcp o s
  | .frsq o => Sys2Proof.Machine.execFrsq o s
  | .fsqrt o => Sys2Proof.Machine.execFsqrt o s
  | .fexp2 o => Sys2Proof.Machine.execFexp2 o s
  | .flog2 o => Sys2Proof.Machine.execFlog2 o s
  | .fsin o => Sys2Proof.Machine.execFsin o s
  | .fcos o => Sys2Proof.Machine.execFcos o s
  | .ftanh o => Sys2Proof.Machine.execFtanh o s
  | .cvt o => Sys2Proof.Machine.execCvt o s
  | .cvtsc o => Sys2Proof.Machine.execCvtsc o s
  | .cvtpk o => Sys2Proof.Machine.execCvtpk o s
  | .fcmp o => Sys2Proof.Machine.execFcmp o s
  | .fclass o => Sys2Proof.Machine.execFclass o s
  | .fisnan o => Sys2Proof.Machine.execFisnan o s
  | .dot2 o => Sys2Proof.Machine.execDot2 o s
  | .dot4 o => Sys2Proof.Machine.execDot4 o s
  | .dot8 o => Sys2Proof.Machine.execDot8 o s
  | .sxAdd o => Sys2Proof.Machine.execSxAdd o s
  | .sxMul o => Sys2Proof.Machine.execSxMul o s
  | .sxFma o => Sys2Proof.Machine.execSxFma o s
  | .sxMax o => Sys2Proof.Machine.execSxMax o s
  | .sxMin o => Sys2Proof.Machine.execSxMin o s
  | .sxCvt o => Sys2Proof.Machine.execSxCvt o s
  | .sxExp2 o => Sys2Proof.Machine.execSxExp2 o s
  | .sxSum o => Sys2Proof.Machine.execSxSum o s
  | .shflIdx o => Sys2Proof.Machine.execShflIdx o s
  | .shflUp o => Sys2Proof.Machine.execShflUp o s
  | .shflDn o => Sys2Proof.Machine.execShflDn o s
  | .shflXor o => Sys2Proof.Machine.execShflXor o s
  | .bcast o => Sys2Proof.Machine.execBcast o s
  | .matchLanes o => Sys2Proof.Machine.execMatchLanes o s
  | .ballot d ms b => Sys2Proof.Machine.execBallot d ms b s
  | .any d ms => Sys2Proof.Machine.execAny d ms s
  | .all d ms => Sys2Proof.Machine.execAll d ms s
  | .scan o => Sys2Proof.Machine.execScan o s
  | .reduce o => Sys2Proof.Machine.execReduce o s
  | .mrank o => Sys2Proof.Machine.execMrank o s
  | .mand mask md ma mb => Sys2Proof.Machine.execMand mask md ma mb s
  | .mor mask md ma mb => Sys2Proof.Machine.execMor mask md ma mb s
  | .mxor mask md ma mb => Sys2Proof.Machine.execMxor mask md ma mb s
  | .mnot mask md ma => Sys2Proof.Machine.execMnot mask md ma s
  | .mpop d ma => Sys2Proof.Machine.execMpop d ma s
  | .mfirst d ma => Sys2Proof.Machine.execMfirst d ma s
  | .mlast d ma => Sys2Proof.Machine.execMlast d ma s
  | .cattach quad tags => Sys2Proof.Machine.execCattach quad tags s
  | .cdetach quad tags => Sys2Proof.Machine.execCdetach quad tags s
  | .cgrow d n => Sys2Proof.Machine.execCgrow d n s
  | .rolesw role q => Sys2Proof.Machine.execRolesw role q s
  | .cwidth n => Sys2Proof.Machine.execCwidth n s
  | .cprio p => Sys2Proof.Machine.execCprio p s
  | .qsend yield q a => Sys2Proof.Machine.execQsend yield q a s
  | .qrecv yield d q => Sys2Proof.Machine.execQrecv yield d q s
  | .tspawn mask q e a => Sys2Proof.Machine.execTspawn mask q e a s
  | .qstat cap d q => Sys2Proof.Machine.execQstat cap d q s
  | .ldG o => Sys2Proof.Machine.execLdG o s
  | .ldR o => Sys2Proof.Machine.execLdR o s
  | .ldH o => Sys2Proof.Machine.execLdH o s
  | .ldC o => Sys2Proof.Machine.execLdC o s
  | .stG o => Sys2Proof.Machine.execStG o s
  | .stR o => Sys2Proof.Machine.execStR o s
  | .stH o => Sys2Proof.Machine.execStH o s
  | .ldA o => Sys2Proof.Machine.execLdA o s
  | .stA o => Sys2Proof.Machine.execStA o s
  | .ldxA o => Sys2Proof.Machine.execLdxA o s
  | .stxA o => Sys2Proof.Machine.execStxA o s
  | .ldW o => Sys2Proof.Machine.execLdW o s
  | .crpop o => Sys2Proof.Machine.execCrpop o s
  | .crpeek o => Sys2Proof.Machine.execCrpeek o s
  | .atomAdd o => Sys2Proof.Machine.execAtomAdd o s
  | .atomMin o => Sys2Proof.Machine.execAtomMin o s
  | .atomMax o => Sys2Proof.Machine.execAtomMax o s
  | .atomAnd o => Sys2Proof.Machine.execAtomAnd o s
  | .atomOr o => Sys2Proof.Machine.execAtomOr o s
  | .atomXor o => Sys2Proof.Machine.execAtomXor o s
  | .atomExch o => Sys2Proof.Machine.execAtomExch o s
  | .atomCas o => Sys2Proof.Machine.execAtomCas o s
  | .atomInc o => Sys2Proof.Machine.execAtomInc o s
  | .redAdd o => Sys2Proof.Machine.execRedAdd o s
  | .redMin o => Sys2Proof.Machine.execRedMin o s
  | .redMax o => Sys2Proof.Machine.execRedMax o s
  | .rflush la k => Sys2Proof.Machine.execRflush la k s
  | .pfG o => Sys2Proof.Machine.execPfG o s
  | .pfCode la base => Sys2Proof.Machine.execPfCode la base s
  | .fence sc => Sys2Proof.Machine.execFence sc s
  | .wait k t => Sys2Proof.Machine.execWait k t s
  | .waitall => Sys2Proof.Machine.execWaitall s
  | .seal k => Sys2Proof.Machine.execSeal k s
  | .ifence => Sys2Proof.Machine.execIfence s
  | .bar o => Sys2Proof.Machine.execBar o s
  | .barv o => Sys2Proof.Machine.execBarv o s
  | .bararr o => Sys2Proof.Machine.execBararr o s
  | .bardrop level tag => Sys2Proof.Machine.execBardrop level tag s
  | .abinit a n b => Sys2Proof.Machine.execAbinit a n b s
  | .abarrive o => Sys2Proof.Machine.execAbarrive o s
  | .abexpect a b => Sys2Proof.Machine.execAbexpect a b s
  | .abwait a p => Sys2Proof.Machine.execAbwait a p s
  | .cpy o => Sys2Proof.Machine.execCpy o s
  | .cpyMc o => Sys2Proof.Machine.execCpyMc o s
  | .cpyst o => Sys2Proof.Machine.execCpyst o s
  | .cpyfill o => Sys2Proof.Machine.execCpyfill o s
  | .mma o => Sys2Proof.Machine.execMma o s
  | .mcl o => Sys2Proof.Machine.execMcl o s
  | .mclr o => Sys2Proof.Machine.execMclr o s
  | .mrd o => Sys2Proof.Machine.execMrd o s
  | .epi la mask k => Sys2Proof.Machine.execEpi la mask k s
  | .epicfg o => Sys2Proof.Machine.execEpicfg o s
  | .coll o => Sys2Proof.Machine.execColl o s
  | .collwait la mask k g => Sys2Proof.Machine.execCollwait la mask k g s
  | .trap n => Sys2Proof.Machine.execTrap n s
  | .tret skip => Sys2Proof.Machine.execTret skip s
  | .brk n => Sys2Proof.Machine.execBrk n s
  | .rdsr mask d r => Sys2Proof.Machine.execRdsr mask d r s
  | .wrsr r a => Sys2Proof.Machine.execWrsr r a s
  | .feat d n => Sys2Proof.Machine.execFeat d n s
  | .nop => Sys2Proof.Machine.execNop s
  | .sleep a => Sys2Proof.Machine.execSleep a s
  | .prog n => Sys2Proof.Machine.execProg n s
  | .tstamp d => Sys2Proof.Machine.execTstamp d s
  | .functionResultWrite p => Sys2Proof.Machine.execFunctionResultWrite p s
  | .atomicPerformed core slot flight e => Sys2Proof.Machine.execAtomicPerformed core slot flight e s
  | .barrierRelease p => Sys2Proof.Machine.execBarrierRelease p s
  | .abwaitRelease p => Sys2Proof.Machine.execAbwaitRelease p s
  | .sleepExpiry p => Sys2Proof.Machine.execSleepExpiry p s
  | .loadDataArrival core slot flight e => Sys2Proof.Machine.execLoadDataArrival core slot flight e s
  | .storePerformed core slot flight e => Sys2Proof.Machine.execStorePerformed core slot flight e s
  | .translationPassed p => Sys2Proof.Machine.execTranslationPassed p s
  | .remoteAccess part dev addr r => Sys2Proof.Machine.execRemoteAccess part dev addr r s
  | .pageResponse p page ok => Sys2Proof.Machine.execPageResponse p page ok s
  | .joinComplete core slot split => Sys2Proof.Machine.execJoinComplete core slot split s
  | .rejoin p => Sys2Proof.Machine.execRejoin p s
  | .trapEntry core slot => Sys2Proof.Machine.execTrapEntry core slot s
  | .spill core => Sys2Proof.Machine.execSpill core s
  | .spillRestore core => Sys2Proof.Machine.execSpillRestore core s
  | .roleSwitch p => Sys2Proof.Machine.execRoleSwitch p s
  | .taskStrandForm core ring => Sys2Proof.Machine.execTaskStrandForm core ring s
  | .cgrowAnswer p => Sys2Proof.Machine.execCgrowAnswer p s
  | .blockFetch core asid f => Sys2Proof.Machine.execBlockFetch core asid f s
  | .insertedDelayExpiry p => Sys2Proof.Machine.execInsertedDelayExpiry p s
  | .copyStart core chan => Sys2Proof.Machine.execCopyStart core chan s
  | .copyRowDelivery core chan writeErrors e => Sys2Proof.Machine.execCopyRowDelivery core chan writeErrors e s
  | .copyComplete core chan => Sys2Proof.Machine.execCopyComplete core chan s
  | .latchFill quad => Sys2Proof.Machine.execLatchFill quad s
  | .passStart quad => Sys2Proof.Machine.execPassStart quad s
  | .passEnd quad => Sys2Proof.Machine.execPassEnd quad s
  | .tileClosed core => Sys2Proof.Machine.execTileClosed core s
  | .epilogueStart core => Sys2Proof.Machine.execEpilogueStart core s
  | .epilogueComplete core => Sys2Proof.Machine.execEpilogueComplete core s
  | .collectiveComplete part group failure sources => Sys2Proof.Machine.execCollectiveComplete part group failure sources s
  | .quarantineRelease => Sys2Proof.Machine.execQuarantineRelease s
  | .doorbell port part queue tail => Sys2Proof.Machine.execDoorbell port part queue tail s
  | .launch part queue => Sys2Proof.Machine.execLaunch part queue s
  | .chunkGrant part die lid => Sys2Proof.Machine.execChunkGrant part die lid s
  | .cohortPlacement part die lid => Sys2Proof.Machine.execCohortPlacement part die lid s
  | .launchCompletion part lid => Sys2Proof.Machine.execLaunchCompletion part lid s
  | .configure part => Sys2Proof.Machine.execConfigure part s
  | .sealPartition part => Sys2Proof.Machine.execSealPartition part s
  | .releasePartition part => Sys2Proof.Machine.execReleasePartition part s
  | .preempt part => Sys2Proof.Machine.execPreempt part s
  | .drainEnd part => Sys2Proof.Machine.execDrainEnd part s
  | .restore part => Sys2Proof.Machine.execRestore part s
  | .asidCreate part => Sys2Proof.Machine.execAsidCreate part s
  | .asidDestroy part => Sys2Proof.Machine.execAsidDestroy part s
  | .writeRangeEntry part => Sys2Proof.Machine.execWriteRangeEntry part s
  | .pagesWrite part => Sys2Proof.Machine.execPagesWrite part s
  | .pagesInvalidate part => Sys2Proof.Machine.execPagesInvalidate part s
  | .writeTensorRecord part => Sys2Proof.Machine.execWriteTensorRecord part s
  | .writeGroupEntry part => Sys2Proof.Machine.execWriteGroupEntry part s
  | .writeExportEntry part => Sys2Proof.Machine.execWriteExportEntry part s
  | .bindBridgeSender part => Sys2Proof.Machine.execBindBridgeSender part s
  | .bindBridgeReceiver part => Sys2Proof.Machine.execBindBridgeReceiver part s
  | .unbindBridge part => Sys2Proof.Machine.execUnbindBridge part s
  | .setQueue part => Sys2Proof.Machine.execSetQueue part s
  | .setOverflowArea part => Sys2Proof.Machine.execSetOverflowArea part s
  | .bindPodGroup part => Sys2Proof.Machine.execBindPodGroup part s
  | .unbindPodGroup part => Sys2Proof.Machine.execUnbindPodGroup part s
  | .loadCodeObject part => Sys2Proof.Machine.execLoadCodeObject part s
  | .enrolKey part => Sys2Proof.Machine.execEnrolKey part s
  | .withdrawKey part => Sys2Proof.Machine.execWithdrawKey part s
  | .setPowerCap part => Sys2Proof.Machine.execSetPowerCap part s
  | .cancelLaunch part => Sys2Proof.Machine.execCancelLaunch part s
  | .semaphoreAcquire port sem tag => Sys2Proof.Machine.execSemaphoreAcquire port sem tag s
  | .semaphoreFree port sem => Sys2Proof.Machine.execSemaphoreFree port sem s
  | .controlBlockWrite port part off v => Sys2Proof.Machine.execControlBlockWrite port part off v s
  | .traceControlWrite port core v => Sys2Proof.Machine.execTraceControlWrite port core v s
  | .registerWrite port off v => Sys2Proof.Machine.execRegisterWrite port off v s
  | .causalTrialGo port part v => Sys2Proof.Machine.execCausalTrialGo port part v s
  | .causalTrialEnd part => Sys2Proof.Machine.execCausalTrialEnd part s
  | .stopWrite port part v => Sys2Proof.Machine.execStopWrite port part v s
  | .resumeWrite port part v => Sys2Proof.Machine.execResumeWrite port part v s
  | .breakpointHit p => Sys2Proof.Machine.execBreakpointHit p s
  | .sample core => Sys2Proof.Machine.execSample core s
  | .powerOnReset => Sys2Proof.Machine.execPowerOnReset s
  | .linkDown port => Sys2Proof.Machine.execLinkDown port s
  | .semaphoreLinkFree port => Sys2Proof.Machine.execSemaphoreLinkFree port s
  | .dieFence die l2Fault => Sys2Proof.Machine.execDieFence die l2Fault s
  | .masterElection part => Sys2Proof.Machine.execMasterElection part s
  | .stackSelfRefresh stack => Sys2Proof.Machine.execStackSelfRefresh stack s
  | .stackResume stack => Sys2Proof.Machine.execStackResume stack s
  | .stackFence stack => Sys2Proof.Machine.execStackFence stack s
  | .firmwareHandover h => Sys2Proof.Machine.execFirmwareHandover h s
  | .shanovLinkFailure dev lost => Sys2Proof.Machine.execShanovLinkFailure dev lost s
  | .podGroupLive part slot => Sys2Proof.Machine.execPodGroupLive part slot s
  | .hbmChannelSparing stack => Sys2Proof.Machine.execHbmChannelSparing stack s
  | .refreshPostponementLimit core chan => Sys2Proof.Machine.execRefreshPostponementLimit core chan s

end Sys2Proof.Machine
end

