-- ==== Sys2Proof/Machine/Issue.lean ====
section
/-! DEFINITION. What a step does around an instruction: the passage of clocks with the tests at their ends (R143, R269), which path
may issue and which one a core chooses (R151), the fetch of its instruction from its block, the window's gate (R37), and the agents
outside the table of operations. `ex` is the meaning of instructions and events, `exec`. -/
namespace Sys2Proof.Machine

/-- Clocks pass: the clock that ends is closed first: samples (R408), tests of tags and arrival barriers (R143, R269), changes of owner
(R385), the segments and the latch rows of the clocks that pass (R166, R290), the ends of causal trials (R410), and the packets of the
clock (R405). -/
def State.tick (s : State) (dt : Nat) : State :=
  if dt = 0 then s
  else
    let s := s.flush.sampleAll (s.clock + dt)
    let d := ((s.dev.testAll s.clock).testAbars s.clock).settleOwners s.clock
    let d := (((d.runStreams (s.clock + dt)).runLatches (s.clock + dt)).endTrials (s.clock + dt)).writePackets
    { s with dev := d, clock := s.clock + dt }

/-- May the path in focus issue, and has its core not issued in this clock (R21, R131, R151, R341, R345, R364, R412)? -/
def State.canIssue (s : State) : Bool :=
  s.path.status == .ready && s.path.slot.isSome && s.path.hold ≤ s.clock && !s.strand.spilled && !s.core.halted &&
    s.core.nextClk ≤ s.clock && !(s.dev.dieAt (dieOf s.coreNo)).fenced && s.part.stop.isNone && s.part.preempt.isNone && s.launch.ending.isNone

/-- What the path in focus comes to do. -/
inductive Todo where
  | run (i : Instr)
  | stay (s : State)

/-- The next instruction of the path in focus: its word in the block, decoded, behind the gate of an open window, once its pipe is free
(R151) and no stream holds it (R166); a word that does not decode raises ILLOP with the step of R59, and one that could not be fetched
with its block is fetched first (R344). Where an open window forbids the word's major, the window's rule comes first and the trap records
no step, though the word fails a check of R59 too: which of the two holds is not stated (log entry 133). -/
def State.todo (s : State) : Todo :=
  if !s.canIssue then .stay s
  else
    match s.breakpoint with
    | some n => .stay (s.meetBreak n)
    | none =>
      match s.path.blk.wordAt s.path.pc with
      | none => .stay (if s.path.hasWord then s else { s with path := { s.path with status := .refetch } })
      | some w =>
        if !s.path.hasWord then .stay { s with path := { s.path with status := .refetch } } else
        let dec := decode w (s.path.blk.wordAt (s.path.pc + 8))
        let u := match dec with | .ok i => usesInstr i | .error _ => Uses.empty
        match gateOf s.path (majorOf w) u, dec with
        | .go, .ok i => if s.pipeFree i && !s.streamHolds i then .run i else .stay s
        | .go, .error n => .stay (match (raiseWith (α := State) cIllop 0 n s) with | .ok t => t | .error t => t)
        | .hold, _ => .stay s
        | .illop, _ => .stay (match (raise (α := State) cIllop s) with | .ok t => t | .error t => t)

/-- Instructions that a core has issued, as its counter 6 has them (R414). -/
def State.issues (s : State) (c : Nat) : Nat := tgetD (s.dev.coreAt c).pmc 6 0

/-- What an instruction leaves when the state `t` has issued it on a core: it occupies its pipe. -/
def State.occupied (u t : State) (c : Nat) (i : Instr) : State :=
  let u := u.flush
  if u.issues c = t.flush.issues c then u else u.setCore c ((u.dev.coreAt c).occupy t i)

/-- A path comes to issue. -/
def issuePath (ex : Instr → State → Out) (c sl p : Nat) (s : State) : Out :=
  match s.load c sl p with
  | none => .next s.flush
  | some t => match t.todo with
    | .run i => match ex i t with
      | .next u => .next (u.occupied t c i)
      | x => x
    | .stay u => .next u

/-- Paths of a strand in the order of step 3 of R151: least recently issued first, arm F before arm T. -/
def insertByLast (p : Nat × Path) : List (Nat × Path) → List (Nat × Path)
  | [] => [p]
  | q :: r =>
    let key := fun (x : Path) => 2 * x.last + (match x.arms with | (_, true) :: _ => 1 | _ => 0)
    if key p.2 ≤ key q.2 then p :: q :: r else q :: insertByLast p r

/-- The order in which a core looks for a ready path (R151). -/
def Core.order (c : Core) (clock : Nat) : List (Nat × Nat) :=
  let again := if c.nextClk = clock && 0 < c.run && c.run < 8 then [(c.lastSlot, c.lastPath)] else []
  let slots := (List.range 48).map fun i => (c.lastSlot + 1 + i) % 48
  again ++ slots.flatMap fun sl => match tget c.strands sl with
    | none => []
    | some st => (st.paths.foldr insertByLast []).map fun p => (sl, p.1)

/-- Has the path that came to issue issued, or trapped or met a breakpoint in place of that, as against stalled, since the state before? A
path that waited for its handler or for the debugger already takes no turn. -/
def progressed (s t : State) (c sl p : Nat) : Bool :=
  s.flush.issues c != t.flush.issues c ||
    ((t.path.status == .trapped || t.path.status == .debug) && match s.load c sl p with | some u => u.path.status == .ready | none => false)

/-- The core tries its paths in order until one issues. -/
def issueFirst (ex : Instr → State → Out) (c : Nat) : List (Nat × Nat) → State → Out
  | [], s => .next s.flush
  | (sl, p) :: r, s =>
    match issuePath ex c sl p s with
    | .next t => if progressed s t c sl p then .next t else issueFirst ex c r t
    | x => x

/-! ### What the controllers do by themselves -/

/-- One thing after another. -/
def andThen (f : State → Out) (o : Out) : Out :=
  match o with
  | .next s => f s
  | x => x

/-- The meanings of the events that may carry out a privileged opcode (R378). -/
def commandActs (pn op : Nat) : List (State → Out) :=
  match op with
  | 0x10 => [execConfigure pn]
  | 0x11 => [execSealPartition pn]
  | 0x12 => [execReleasePartition pn]
  | 0x13 => [execPreempt pn, execDrainEnd pn]
  | 0x14 => [execRestore pn]
  | 0x20 => [execAsidCreate pn, execAsidDestroy pn]
  | 0x21 => [execWriteRangeEntry pn]
  | 0x22 => [execPagesWrite pn, execPagesInvalidate pn]
  | 0x23 => [execWriteTensorRecord pn]
  | 0x24 => [execWriteGroupEntry pn]
  | 0x25 => [execWriteExportEntry pn]
  | 0x26 => [execBindBridgeSender pn, execBindBridgeReceiver pn, execUnbindBridge pn]
  | 0x27 => [execSetQueue pn]
  | 0x28 => [execSetOverflowArea pn]
  | 0x29 => [execBindPodGroup pn, execUnbindPodGroup pn]
  | 0x30 => [execLoadCodeObject pn]
  | 0x31 => [execEnrolKey pn, execWithdrawKey pn]
  | 0x32 => [execSetPowerCap pn]
  | 0x40 => [execCancelLaunch pn]
  | _ => []

/-- The controller of a partition: the command at the head of queue 0, an election, the end of a causal trial. -/
def actControl (pn : Nat) (s : State) : Out :=
  let acts := match s.dev.command pn 0 with
    | some a => commandActs pn (s.dev.opcode a)
    | none => []
  (acts ++ [execMasterElection pn, execCausalTrialEnd pn]).foldl (fun o f => andThen f o) (.next s)

/-- A change of the package with nothing in focus. -/
def State.onPkg (s : State) (f : Device → Device) : State := let s := s.flush; { s with dev := f s.dev }

/-- What an agent does. The lines and the blocks of the caches leave when the schedule says so (log entry 83). -/
def actAgent (ex : Instr → State → Out) (a : Agent) (s : State) : Out :=
  match a with
  | .core c => issueFirst ex c ((s.flush.dev.coreAt c).order s.clock) s
  | .event i => ex i s.flush
  | .podArrival key tag lanes n =>
    let s := s.flush
    let ts := tgetD s.dev.podTags key []
    let a : Arrival := { core := 512, slot := 0, path := 0, lanes := 0, n := lanes, drop := false, waits := false, votes := 0 }
    .next { s with dev := { s.dev with podTags := tset s.dev.podTags key (tset ts tag ((tgetD ts tag .empty).arrive .pod a n)) } }
  | .outside addr data =>
    let s := s.flush
    if spaceOf addr = 3 || spaceOf addr = 4 then .next s
    else .next { s with dev := { s.dev with mem := s.dev.mem.write addr data } }
  | .taskRing c k r => let s := s.flush; .next (s.setCore c { s.dev.coreAt c with rings := tset (s.dev.coreAt c).rings k r })
  | .taskHead k h bad => .next (s.onPkg fun d => d.farHead k h bad)
  | .storeHeld p ls => match s.load p.core p.slot p.path with
    | some t => .next (t.passHeld ls)
    | none => .next s
  | .storeSeen c sl f ls => .next (s.flush.showStore c sl f ls .done)
  | .storeHome c sl f ls => .next (s.flush.storeHome c sl f ls)
  | .remoteStrand dev sid r => .next (s.onPkg fun d => d.hearStrand (remoteIdentity dev sid) r)
  | .control pn => actControl pn s.flush
  | .sampler c => execSample c s
  | .hub port => execSemaphoreLinkFree port s
  | .evictL1 c x => let s := s.flush; .next (s.setCore c { s.dev.coreAt c with l1 := tdel (s.dev.coreAt c).l1 x })
  | .evictCopy d k =>
    let s := s.flush
    let di := s.dev.dieAt d
    .next { s with dev := s.dev.setDie d { di with copies := tdel di.copies k } }
  | .evictTag x => let s := s.flush; .next { s with dev := { s.dev with ctags := tdel s.dev.ctags x } }
  | .evictCode c k => let s := s.flush; .next (s.setCore c { s.dev.coreAt c with ibuf := tdel (s.dev.coreAt c).ibuf k })
  | .rowRead c i => .next (s.flush.readAhead c i)
  | .migrate x => .next (s.migrate x)
  | .vector port n addr data masked => .next (s.onPkg fun d => if port < 2 && n < 64 then d.setVector port n addr data masked else d)
  | .portRead port off => .next (s.onPkg fun d => d.portRead port off)
  | .route port n e => .next (s.onPkg fun d => d.setRoute port n e)
  | .dmaWindow port n e => .next (s.onPkg fun d => d.setWindow port n e)
  | .egressRate port n rate => .next (s.onPkg fun d => d.setRate port n rate)
  | .thermalCap port cap => .next (s.onPkg fun d => d.lowerThermal port cap)
  | .moduleCap port cap => .next (s.onPkg fun d => d.lowerModule port cap)

/-! ### The schedule when none is given (log entry 5) -/

/-- Events that may be due for a path. -/
def pathAgents (c sl p : Nat) (x : Path) : List Agent :=
  let r : PRef := ⟨c, sl, p⟩
  (if x.windowOpen then [.event (.translationPassed r), .event (.functionResultWrite r)] else []) ++
  match x.status with
  | .ready | .refetch | .roleWait _ _ => []
  | .fetch _ _ _ _ => []
  | .join sp _ => [.event (.joinComplete c sl sp)]
  | .rejoinWait => []
  | .atRejoin => [.event (.rejoin r)]
  | .barrier _ _ _ _ => [.event (.barrierRelease r)]
  | .abwait _ _ _ _ _ => [.event (.abwaitRelease r)]
  | .sleep _ => [.event (.sleepExpiry r)]
  | .pages _ _ => []
  | .debug => []
  | .trapped => [.event (.trapEntry c sl)]
  | .stacked _ _ _ => []
  | .grow _ _ => [.event (.cgrowAnswer r)]
  | .queueErr => []

def flightAgents (c sl f : Nat) (x : Flight) : List Agent :=
  if !x.passed then []
  else match x.kind with
    | .load _ _ => [.event (.loadDataArrival c sl f ⟨[], .done⟩)]
    | .store _ => [.event (.storePerformed c sl f ⟨[], .done⟩)]
    | .atomic _ _ _ | .flush => [.event (.atomicPerformed c sl f ⟨[], .done⟩)]
    | _ => []

def strandAgents (s : State) (c sl : Nat) (st : Strand) : List Agent :=
  (st.paths.flatMap fun p => pathAgents c sl p.1 p.2) ++ (st.flights.flatMap fun f => flightAgents c sl f.1 f.2) ++
  st.paths.flatMap fun p => match p.2.status with
    | .fetch a _ _ _ => [.event (.blockFetch c (s.dev.launchAt st.launch).asid ⟨a, .done⟩)]
    | .refetch => [.event (.blockFetch c (s.dev.launchAt st.launch).asid ⟨p.2.blk.base, .done⟩)]
    | _ => []

def coreAgents (s : State) (c : Nat) (x : Core) : List Agent :=
  (x.strands.flatMap fun e => strandAgents s c e.1 e.2) ++
  (if x.strands.isEmpty then [] else [.core c, .event (.spill c), .event (.spillRestore c)]) ++
  (if x.chan0.queue.isEmpty then [] else [.event (.copyStart c 0), .event (.copyRowDelivery c 0 0 .done), .event (.copyComplete c 0)]) ++
  (if x.chan1.queue.isEmpty then [] else [.event (.copyStart c 1), .event (.copyRowDelivery c 1 0 .done), .event (.copyComplete c 1)]) ++
  (if x.epis.isEmpty then [] else [.event (.epilogueStart c), .event (.epilogueComplete c)]) ++
  (x.rings.map fun r => .event (.taskStrandForm c r.1)) ++ (if x.dbg.on 4 then [.sampler c] else [])

def launchAgents (l : Nat) (x : Launch) : List Agent :=
  ((List.range 4).flatMap fun d => [.event (.chunkGrant x.part d l), .event (.cohortPlacement x.part d l)]) ++
    [.event (.launchCompletion x.part l)]

/-- Agents that may have something to do, in a fixed order. -/
def State.agents (s : State) : List Agent :=
  (s.dev.cores.flatMap fun c => coreAgents s c.1 c.2) ++
  (s.dev.quads.flatMap fun q => if q.2.entries.isEmpty then [] else
    [.event (.latchFill q.1), .event (.passStart q.1), .event (.passEnd q.1)] ++
      (List.range 4).map fun i => .event (.tileClosed (4 * q.1 + i))) ++
  (s.dev.launches.flatMap fun l => launchAgents l.1 l.2) ++
  (s.dev.parts.flatMap fun p => p.2.queues.map fun q => .event (.launch p.1 q.1)) ++
  (s.dev.parts.flatMap fun p => p.2.groups.flatMap fun g =>
    if g.2.queue.isEmpty then [] else [.event (.collectiveComplete p.1 g.1 0 [])]) ++
  (s.dev.parts.map fun p => .control p.1) ++ (s.dev.links.map fun l => .hub l.1) ++
  (if s.dev.quarantine.isEmpty then [] else [.event .quarantineRelease])

/-- The turn that is taken where the schedule names none: one clock, and one of the agents in rotation. -/
def State.nextTurn (s : State) : Turn × State :=
  match s.turns with
  | t :: r => (t, { s with turns := r })
  | [] =>
    let s := s.flush
    let as := s.agents
    (⟨1, as.getD (s.clock % as.length) (.event .quarantineRelease)⟩, s)

/-- One step: a turn's clocks pass, its agent acts, a stop that has begun halts its partition (R412), and what follows at once from a change
of paths is done. -/
def stepWith (ex : Instr → State → Out) (s : State) : Out :=
  let t := s.nextTurn
  match actAgent ex t.1.agent (t.2.tick t.1.dt) with
  | .next u => .next u.haltStops.settleAll
  | x => x

/-! ### Placing one instruction to be run next (log entry 1) -/

/-- The bytes of an instruction as its words lie in memory, as words. -/
def tableWords (nbits w : Nat) : List Word :=
  let x := w % 2 ^ nbits
  [BitVec.ofNat 64 x, BitVec.ofNat 64 (x / 2 ^ 64)]

/-- A block that holds one instruction, at address 8. -/
def oneBlock (ws : List Word) : Block :=
  let n := wordLen (ws.headD 0)
  ⟨0, BitVec.ofNat 64 (0x3F * 2 ^ 58 + n * 2 ^ 48), ws.take n⟩

/-- A path placed at the only instruction of a block. -/
def Path.placed (p : Path) (ws : List Word) : Path :=
  { p with pc := 8, blk := oneBlock ws, lanes := if p.lanes = 0 then allLanes 32 else p.lanes, slot := some 0, status := .ready
           trap := none, window := none, redo := none, hold := 0, pass := [], arms := [], last := 0 }

/-- Path 0 of strand slot 0 of core 0 holds the instruction, on a partition and in a launch that run, and has the next turn. -/
def State.placed (s : State) (ws : List Word) : State :=
  let s := s.flush
  let st := (s.strandAt 0 0).getD { Strand.empty with launch := s.dev.nextLaunch, started := true }
  let st := { st with paths := tset st.paths 0 ((tgetD st.paths 0 .empty).placed ws), spilled := false, next := max 1 st.next }
  let la := s.dev.launchAt st.launch
  let pn := la.part
  let d := s.dev.setPart pn { s.dev.partAt pn with configured := true, stop := none, preempt := none, bps := [] }
  let d := { d with launches := tset d.launches st.launch { la with ending := none }, nextLaunch := max d.nextLaunch (st.launch + 1) }
  let co := d.coreAt 0
  let co := { co with
    strands := tset co.strands 0 st, halted := false, lastSlot := 47, run := 0, nextClk := 0, vecPipe := ⟨0, 0⟩, sclPipe := ⟨0, 0⟩
    memPipe := ⟨0, 0⟩, stream := none
    cohorts := if (tget co.cohorts st.cohort).isSome then co.cohorts
      else tset co.cohorts st.cohort { Cohort.empty with launch := st.launch } }
  let d := d.setDie 0 { d.dieAt 0 with fenced := false }
  { s with dev := { d with cores := tset d.cores 0 co }, turns := [⟨0, .core 0⟩] }

end Sys2Proof.Machine
end

