-- ==== Sys2Proof/Safety.lean ====
section
/-! DEFINITION. The terms claims are stated in: the invariant of the machine, when an instruction's sources can be read and its
destination written, what its record then holds, and what a meaning leaves alone. -/
namespace Sys2Proof.Machine

/-- Memory of the package lists rising addresses and no byte that an unlisted address reads as. -/
def State.Inv (s : State) : Prop := s.dev.mem.wf = true

/-! ### Reading sources -/

/-- The counted names among sources. -/
def readNames (srcs : List (Src × Ty)) : List Name := srcs.filterMap fun e => srcName e.1

/-- Every source can be read, on every enabled lane (R21, R24, R44, R238, R336). -/
structure State.CanRead (s : State) (srcs : List (Src × Ty)) (en : LaneSet) : Prop where
  reads : s.path.hasReads (readNames srcs) = true
  walkers : s.path.walkersSet (srcWalkers srcs) = true
  present : s.path.present (readNames srcs) = true
  faults : s.path.laneFaults (readNames srcs) s.strand.width en = []

/-- The values of sources. -/
def State.vals (s : State) (srcs : List (Src × Ty)) : List Val := (readVals s srcs s.path).1

/-- The value of the i-th source on a lane. -/
def State.val (s : State) (srcs : List (Src × Ty)) (i l : Nat) : Word := ((s.vals srcs).map (·.at l)).getD i 0

/-- The state with the reads of the sources taken: counts one lower, records freed at their last read, walkers stepped. -/
def State.afterReads (s : State) (srcs : List (Src × Ty)) : State :=
  { s with path := (readVals s srcs s.path).2.takeReads (readNames srcs) }

/-! ### Writing destinations -/

/-- The destination can be written: its name is not live once the reads are taken, and slabs are granted (R25, R29, R70). -/
def State.CanWrite (s : State) (d : Dest) (wide : Bool) : Prop :=
  match d with
  | .sink => True
  | .vec n _ => (s.path.get (.vec n)).any Rec.live = false ∧ s.slabsOk (slabSize s.strand.width wide) = true
  | .scl n _ => (s.path.get (.scl n)).any Rec.live = false

/-- The values a destination's record holds: for a vector the value of each enabled lane and zero elsewhere (R27), for a scalar one
value (R69). -/
def destVals (d : Dest) (wide : Bool) (width : Nat) (en : LaneSet) (f : Nat → Word) : List Word :=
  match d with
  | .sink => []
  | .vec _ _ => (List.range width).map fun l => if en.getLsbD l then fit wide (f l) else 0
  | .scl _ _ => [fit wide (f 0)]

/-- The names of a path after a destination was written: at the destination a new record with its count and its values, and
everywhere else what was there. -/
def Path.Wrote (p q : Path) (d : Dest) (wide : Bool) (vals : List Word) : Prop :=
  (∀ n c, destName d = some (n, c) → ∃ r, q.get n = some r ∧ r.count = countOf c ∧ r.wide = wide ∧ r.vals = vals ∧ r.pend = [] ∧
    r.absent = 0 ∧ r.failed = []) ∧
  ∀ n, (∀ c, destName d ≠ some (n, c)) → q.get n = p.get n

/-- The lanes of a mask on which a condition holds. -/
def State.holds (s : State) (m : Fin 16) (srcs : List (Src × Ty)) (f : List Word → Bool) : LaneSet :=
  ofLanes ((lanesOf s.strand.width (s.path.mask m)).filter fun l => f ((s.vals srcs).map (·.at l)))

/-! ### What a meaning leaves alone -/

/-- The fields of a path that moving on leaves alone: names, masks, walkers, lanes, the fragment index, the trap handled. -/
structure Path.SameNames (p q : Path) : Prop where
  v : q.v = p.v
  sc : q.sc = p.sc
  masks : q.masks = p.masks
  walkers : q.walkers = p.walkers
  lanes : q.lanes = p.lanes
  frag : q.frag = p.frag
  handler : q.handler = p.handler

/-- Nothing outside the path changes but what every issue counts: the package with all of its memory, the strand, and of the core
every window, ring, queue, channel, cache and buffer; of a cohort only the mark that it may be discarded (R349). -/
structure State.Quiet (s t : State) : Prop where
  dev : t.dev = s.dev
  strand : t.strand = s.strand
  focus : t.focus = s.focus
  clock : t.clock = s.clock
  draws : t.draws = s.draws
  strands : t.core.strands = s.core.strands
  l1 : t.core.l1 = s.core.l1
  ibuf : t.core.ibuf = s.core.ibuf
  chan0 : t.core.chan0 = s.core.chan0
  chan1 : t.core.chan1 = s.core.chan1
  abuf : t.core.abuf = s.core.abuf
  queues : t.core.queues = s.core.queues
  rings : t.core.rings = s.core.rings
  epis : t.core.epis = s.core.epis
  prog : t.core.prog = s.core.prog
  dbg : t.core.dbg = s.core.dbg
  progStop : t.core.progStop = s.core.progStop
  halted : t.core.halted = s.core.halted
  cohort : t.cohort = { s.cohort with discardable := t.cohort.discardable }

/-- The path goes on: outside a window and within its block, at the next word (R31). -/
def State.MovedOn (s t : State) : Prop :=
  s.path.window = none → s.path.atEnd = false → t.path.pc = s.path.nextPc ∧ t.path.status = s.path.status ∧ t.path.blk = s.path.blk

end Sys2Proof.Machine
end

