-- ==== Sys2Proof/Certificates/Slice0/Obligations.lean ====
section
/-! DEFINITION. The statements for the provers. Every statement about an instruction says that `exec` answers a next state, under
conditions on the state and the operands alone, and what that state holds and keeps; `Sys2Proof.Machine.step` reaches them through
`Obligations.StepRunsDecoded`. -/
namespace Sys2Proof.Machine

/-! ## Register instructions (R69, R70)

A `Form` says what one register instruction does: its destination and mask field, its sources, and the value of its result on each
lane of the enabled set, with the mask register that a cross-lane instruction writes beside it (0 for none). -/

structure Form where
  d : Dest
  mask : Fin 16
  wide : Bool
  srcs : List (Src × Ty)
  val : LaneSet → Nat → Word
  mo : Fin 16
  bit : LaneSet → Nat → Bool

/-- The instruction can issue and complete: its sources can be read on the lanes enabled, and its destination written. -/
def State.CanRun (s : State) (r : Form) : Prop :=
  s.CanRead r.srcs (s.enabled r.d r.mask) ∧ (s.afterReads r.srcs).CanWrite r.d r.wide

/-- What it leaves: the reads taken, the destination's new record with the values of the form, every other name and mask register as
it was, everything outside the path quiet, and the path at the next word. -/
def State.RegResult (s t : State) (r : Form) : Prop :=
  (s.afterReads r.srcs).path.Wrote t.path r.d r.wide (destVals r.d r.wide s.strand.width (s.enabled r.d r.mask)
    (r.val (s.enabled r.d r.mask))) ∧
  (r.mo = 0 → t.path.masks = s.path.masks) ∧
  (r.mo ≠ 0 → t.path.masks = (s.path.setMask r.mo
    (ofLanes ((lanesOf s.strand.width (s.enabled r.d r.mask)).filter (r.bit (s.enabled r.d r.mask))))).masks) ∧
  t.path.walkers = (s.afterReads r.srcs).path.walkers ∧ t.path.lanes = s.path.lanes ∧ s.Quiet t ∧ s.MovedOn t

/-- A form without a mask result. -/
def plain (d : Dest) (mask : Fin 16) (wide : Bool) (srcs : List (Src × Ty)) (val : LaneSet → Nat → Word) : Form :=
  ⟨d, mask, wide, srcs, val, 0, fun _ _ => false⟩

def form1 (s : State) (o : Op1) (f : Word → Word) : Form :=
  let srcs := [(o.a, o.ty)]
  plain o.d o.mask o.ty.wide srcs fun _ l => f (s.val srcs 0 l)

def form2 (s : State) (o : Op2) (f : Word → Word → Word) : Form :=
  let srcs := [(o.a, o.ty), (o.b, o.ty)]
  plain o.d o.mask o.ty.wide srcs fun _ l => f (s.val srcs 0 l) (s.val srcs 1 l)

def form3 (s : State) (o : Op3) (f : Word → Word → Word → Word) : Form :=
  let srcs := [(o.a, o.ty), (o.b, o.ty), (o.c, o.ty)]
  plain o.d o.mask o.ty.wide srcs fun _ l => f (s.val srcs 0 l) (s.val srcs 1 l) (s.val srcs 2 l)

def formI (s : State) (o : OpI) (f : Word → Word → Word) : Form :=
  let srcs := [(o.a, o.ty)]
  plain o.d o.mask o.ty.wide srcs fun _ l => f (s.val srcs 0 l) (o.imm.signExtend 64)

/-- Majors 0x01 and 0x02 (R74 to R77). Sources and results are taken at the width of the type (R71); `narrow` and `extendTo` extend a
result to its record. -/
inductive IntegerForm (s : State) : Instr → Form → Prop where
  | add (o : Op2) : IntegerForm s (.add o) (form2 s o fun a b => narrow o.ty (natAt o.ty a + natAt o.ty b))
  | sub (o : Op2) : IntegerForm s (.sub o) (form2 s o fun a b => narrow o.ty ((natAt o.ty a : Int) - natAt o.ty b))
  | mul (o : Op2) : IntegerForm s (.mul o) (form2 s o fun a b => narrow o.ty (natAt o.ty a * natAt o.ty b))
  | mulhi (o : Op2) : IntegerForm s (.mulhi o) (form2 s o fun a b => narrow o.ty (intAt o.ty a * intAt o.ty b / (2 ^ o.ty.bits : Nat)))
  | mad (o : Op3) : IntegerForm s (.mad o) (form3 s o fun a b c => narrow o.ty (natAt o.ty a * natAt o.ty b + natAt o.ty c))
  | imin (o : Op2) : IntegerForm s (.imin o) (form2 s o fun a b => narrow o.ty (min (intAt o.ty a) (intAt o.ty b)))
  | imax (o : Op2) : IntegerForm s (.imax o) (form2 s o fun a b => narrow o.ty (max (intAt o.ty a) (intAt o.ty b)))
  | iabs (o : Op1) : IntegerForm s (.iabs o) (form1 s o fun a => narrow o.ty (intAt o.ty a).natAbs)
  | ineg (o : Op1) : IntegerForm s (.ineg o) (form1 s o fun a => narrow o.ty (-(natAt o.ty a : Int)))
  | iand (o : Op2) : IntegerForm s (.iand o) (form2 s o fun a b => extendTo o.ty (natAt o.ty a &&& natAt o.ty b))
  | ior (o : Op2) : IntegerForm s (.ior o) (form2 s o fun a b => extendTo o.ty (natAt o.ty a ||| natAt o.ty b))
  | ixor (o : Op2) : IntegerForm s (.ixor o) (form2 s o fun a b => extendTo o.ty (natAt o.ty a ^^^ natAt o.ty b))
  | iandn (o : Op2) : IntegerForm s (.iandn o) (form2 s o fun a b => extendTo o.ty (natAt o.ty a &&& (2 ^ o.ty.bits - 1 - natAt o.ty b)))
  | inot (o : Op1) : IntegerForm s (.inot o) (form1 s o fun a => extendTo o.ty (2 ^ o.ty.bits - 1 - natAt o.ty a))
  | shl (o : Op2) : IntegerForm s (.shl o) (form2 s o fun a b => extendTo o.ty (natAt o.ty a * 2 ^ (b.toNat % 256)))
  | shr (o : Op2) : IntegerForm s (.shr o) (form2 s o fun a b => extendTo o.ty (natAt o.ty a / 2 ^ (b.toNat % 256)))
  | sar (o : Op2) : IntegerForm s (.sar o) (form2 s o fun a b => narrow o.ty (sintAt o.ty a / (2 ^ (b.toNat % 256) : Nat)))
  | rotl (o : Op2) : IntegerForm s (.rotl o) (form2 s o fun a b => let n := b.toNat % 256 % o.ty.bits
      extendTo o.ty (natAt o.ty a * 2 ^ n + natAt o.ty a / 2 ^ (o.ty.bits - n)))
  | popc (o : Op1) : IntegerForm s (.popc o) (form1 s o (aPopc o.ty))
  | clz (o : Op1) : IntegerForm s (.clz o) (form1 s o (aClz o.ty))
  | ctz (o : Op1) : IntegerForm s (.ctz o) (form1 s o (aCtz o.ty))
  | brev (o : Op1) : IntegerForm s (.brev o) (form1 s o (aBrev o.ty))
  | bfx (o : Op2) : IntegerForm s (.bfx o) (form2 s o (aBfx o.ty))
  | bfi (o : Op3) : IntegerForm s (.bfi o) (form3 s o (aBfi o.ty))
  | sel (o : Op3) : IntegerForm s (.sel o) (form3 s o fun a b c => extendTo o.ty (if natAt o.ty c ≠ 0 then natAt o.ty a else natAt o.ty b))
  | divq (o : Op2) : IntegerForm s (.divq o) (form2 s o fun a b => if natAt o.ty b = 0 then extendTo o.ty (2 ^ o.ty.bits - 1)
      else narrow o.ty (Int.tdiv (intAt o.ty a) (intAt o.ty b)))
  | remq (o : Op2) : IntegerForm s (.remq o) (form2 s o fun a b => if natAt o.ty b = 0 then extendTo o.ty (natAt o.ty a)
      else narrow o.ty (Int.tmod (intAt o.ty a) (intAt o.ty b)))
  | addsat (o : Op2) : IntegerForm s (.addsat o) (form2 s o fun a b => narrow o.ty (clampInt o.ty (intAt o.ty a + intAt o.ty b)))
  | subsat (o : Op2) : IntegerForm s (.subsat o) (form2 s o fun a b => narrow o.ty (clampInt o.ty (intAt o.ty a - intAt o.ty b)))
  | addi (o : OpI) : IntegerForm s (.addi o) (formI s o (aAdd o.ty))
  | muli (o : OpI) : IntegerForm s (.muli o) (formI s o (aMul o.ty))
  | andi (o : OpI) : IntegerForm s (.andi o) (formI s o (aAnd o.ty))
  | ori (o : OpI) : IntegerForm s (.ori o) (formI s o (aOr o.ty))
  | xori (o : OpI) : IntegerForm s (.xori o) (formI s o (aXor o.ty))
  | shli (o : OpI) : IntegerForm s (.shli o) (formI s o (aShl o.ty))
  | shri (o : OpI) : IntegerForm s (.shri o) (formI s o (aShr o.ty))
  | sari (o : OpI) : IntegerForm s (.sari o) (formI s o (aSar o.ty))
  | mini (o : OpI) : IntegerForm s (.mini o) (formI s o (aMin o.ty))
  | maxi (o : OpI) : IntegerForm s (.maxi o) (formI s o (aMax o.ty))

/-- Majors 0x05 (moves), 0x06 and 0x07 (R80, R81, R84, R85). -/
inductive MoveForm (s : State) : Instr → Form → Prop where
  | mov (o : Op1) : MoveForm s (.mov o) (form1 s o fun a => a)
  | movi (o : MoviOp) : MoveForm s (.movi o) (plain o.d o.mask o.ty.wide [] fun _ _ => o.imm.signExtend 64)
  | movl (o : MovlOp) : MoveForm s (.movl o) (plain o.d o.mask o.ty.wide [] fun _ _ => o.imm)
  | msel (o : MselOp) : MoveForm s (.msel o) (let srcs := [(o.a, o.ty), (o.b, o.ty)]
    (plain o.d o.mask o.ty.wide srcs fun _ l => if (s.path.mask o.mc).getLsbD l then s.val srcs 0 l else s.val srcs 1 l))
  | lea (o : Op3) : MoveForm s (.lea o) (let srcs := [(o.a, .n64), (o.b, .i32), (o.c, .i32)]
    (plain o.d o.mask true srcs fun _ l =>
      s.val srcs 0 l + ((s.val srcs 1 l).setWidth 32).signExtend 64 * BitVec.ofNat 64 o.ty.size +
        ((s.val srcs 2 l).setWidth 32).signExtend 64))
  | leax (o : Op3) : MoveForm s (.leax o) (let srcs := [(o.a, .n64), (o.b, .i32), (o.c, .i32)]
    (plain o.d o.mask true srcs fun _ l =>
      s.val srcs 0 l + low32 (s.val srcs 1 l) * BitVec.ofNat 64 o.ty.size + low32 (s.val srcs 2 l)))

/-- The system instructions that write a record (R93, R97, R98, R101). -/
inductive SystemForm (s : State) : Instr → Form → Prop where
  | rdsr (m : Fin 16) (d : Dest) (r : SysReg) : SystemForm s (.rdsr m d r)
      (plain d m false [] fun _ _ => BitVec.ofNat 64 (match r with
        | .fdone => match s.path.handler with | some t => t.fdone.toNat % 2 ^ t.win | none => 0
        | .pkg => Config.pkgNumber.toNat
        | .tcode => match s.path.handler with | some t => t.tcode | none => 0
        | .prio => s.cohort.prio
        | .armature => s.launch.kernel.armature))
  | feat (d : Dest) (n : BitVec 6) : SystemForm s (.feat d n) (plain d 0 false [] fun _ _ => BitVec.ofNat 64 (s.feature n.toNat))
  | wrd (d : Dest) (w : Fin 8) (sel : BitVec 2) (x : Walker) (h : tget s.path.walkers w.val = some x) : SystemForm s (.wrd d w sel)
      (plain d 0 (sel == 0) [] fun _ _ => match sel.toNat with
        | 0 => x.base + strideBy x.t0 x.i0 + strideBy x.t1 x.i1 + strideBy x.t2 x.i2
        | 1 => BitVec.ofNat 64 x.i0 | 2 => BitVec.ofNat 64 x.i1 | _ => BitVec.ofNat 64 x.i2)

/-- Majors 0x10, 0x12, 0x14 and the class of 0x13 (R154, R157 to R163): element by element of each lane. -/
inductive FloatForm (s : State) : Instr → Form → Prop where
  | fadd (o : Op2) : FloatForm s (.fadd o) (form2 s o (eachElem2 o.ty (fAdd o.ty)))
  | fsub (o : Op2) : FloatForm s (.fsub o) (form2 s o (eachElem2 o.ty (fSub o.ty)))
  | fmul (o : Op2) : FloatForm s (.fmul o) (form2 s o (eachElem2 o.ty (fMul o.ty)))
  | fma (o : Op3) : FloatForm s (.fma o) (form3 s o (eachElem3 o.ty (fFma o.ty)))
  | fmin (o : Op2) : FloatForm s (.fmin o) (form2 s o (eachElem2 o.ty (fMin o.ty)))
  | fmax (o : Op2) : FloatForm s (.fmax o) (form2 s o (eachElem2 o.ty (fMax o.ty)))
  | fabs (o : Op1) : FloatForm s (.fabs o) (form1 s o (eachElem o.ty (fAbs o.ty)))
  | fneg (o : Op1) : FloatForm s (.fneg o) (form1 s o (eachElem o.ty (fNeg o.ty)))
  | fcopysign (o : Op2) : FloatForm s (.fcopysign o) (form2 s o (eachElem2 o.ty (fCopysign o.ty)))
  | fclamp (o : Op3) : FloatForm s (.fclamp o) (form3 s o (eachElem3 o.ty (fClamp o.ty)))
  | fmax3 (o : Op3) : FloatForm s (.fmax3 o) (form3 s o (eachElem3 o.ty (fMax3 o.ty)))
  | fmin3 (o : Op3) : FloatForm s (.fmin3 o) (form3 s o (eachElem3 o.ty (fMin3 o.ty)))
  | cvt (o : CvtOp) : FloatForm s (.cvt o) (let srcs := [(o.a, o.sty)]
    (plain o.d o.mask o.dty.wide srcs fun _ l => cvtVal o.dty o.sty o.mode o.sat (s.val srcs 0 l)))
  | cvtsc (o : Cvt2Op) : FloatForm s (.cvtsc o) (let srcs := [(o.a, o.sty), (o.b, Ty.i32)]
    (plain o.d o.mask o.dty.wide srcs fun _ l => cvtscVal o.dty o.sty o.mode o.sat (s.val srcs 0 l) (s.val srcs 1 l)))
  | cvtpk (o : Cvt2Op) : FloatForm s (.cvtpk o) (let srcs := [(o.a, o.sty), (o.b, o.sty)]
    (plain o.d o.mask false srcs fun _ l => cvtpkVal o.dty o.sty o.mode o.sat (s.val srcs 0 l) (s.val srcs 1 l)))
  | fclass (o : FclassOp) : FloatForm s (.fclass o) (let srcs := [(o.a, o.ty)]
    (plain o.d o.mask false srcs fun _ l => BitVec.ofNat 64 (2 ^ classBit o.ty (elemOf o.ty (s.val srcs 0 l) (elemIdx o.e)))))
  | dot2 (o : Op3) : FloatForm s (.dot2 o) (let srcs := [(o.a, o.ty), (o.b, o.ty), (o.c, if o.ty.isInt then Ty.i32 else .f32)]
    (plain o.d o.mask false srcs fun _ l => dotFloat o.ty (s.val srcs 0 l) (s.val srcs 1 l) (s.val srcs 2 l)))
  | dot4 (o : Op3) : FloatForm s (.dot4 o) (let srcs := [(o.a, o.ty), (o.b, o.ty), (o.c, if o.ty.isInt then Ty.i32 else .f32)]
    (plain o.d o.mask false srcs fun _ l =>
      if o.ty.isInt then dotInt o.ty (fillBytes o.a (s.val srcs 0 l)) (fillBytes o.b (s.val srcs 1 l)) (s.val srcs 2 l)
      else dotFloat o.ty (s.val srcs 0 l) (s.val srcs 1 l) (s.val srcs 2 l)))
  | dot8 (o : Op3) : FloatForm s (.dot8 o) (let srcs := [(o.a, o.ty), (o.b, o.ty), (o.c, if o.ty.isInt then Ty.i32 else .f32)]
    (plain o.d o.mask false srcs fun _ l => dotFloat o.ty (s.val srcs 0 l) (s.val srcs 1 l) (s.val srcs 2 l)))

/-- A shuffle (R169): the value of the source lane where it is enabled, else zero; the mask takes the lanes out of range. -/
def shflForm (s : State) (o : ShflOp) (raw : Int → Int → Int) : Form :=
  let srcs := [(Src.vec o.a, if o.ty.wide then Ty.n64 else .n32), (o.b, .i32)]
  let at_ := fun l : Nat => raw l (sint32 (s.val srcs 1 l))
  let from_ := fun l => (srcLane s.strand.width (at_ l)).1
  ⟨o.d, o.mask, o.ty.wide, srcs, fun en l => if en.getLsbD (from_ l) then fit o.ty.wide (s.val srcs 0 (from_ l)) else 0, o.mo,
    fun _ l => decide (at_ l < 0 ∨ (s.strand.width : Int) ≤ at_ l)⟩

/-- Majors 0x20 and the scalars of 0x21 (R168 to R173). -/
inductive CrossForm (s : State) : Instr → Form → Prop where
  | shflIdx (o : ShflOp) : CrossForm s (.shflIdx o) (shflForm s o fun _ b => b)
  | shflUp (o : ShflOp) : CrossForm s (.shflUp o) (shflForm s o fun i b => wrap32 (i - b))
  | shflDn (o : ShflOp) : CrossForm s (.shflDn o) (shflForm s o fun i b => wrap32 (i + b))
  | shflXor (o : ShflOp) : CrossForm s (.shflXor o) (shflForm s o fun i b => (BitVec.ofInt 32 i ^^^ BitVec.ofInt 32 b).toInt)
  | bcast (o : ShflOp) : CrossForm s (.bcast o) (shflForm s o fun _ b => b)
  | matchLanes (o : MatchOp) : CrossForm s (.matchLanes o) (let srcs := [(Src.vec o.a, if o.ty.wide then Ty.n64 else .n32)]
    let ps := fun en => peers s.strand.width en fun l => fit o.ty.wide (s.val srcs 0 l)
    ⟨o.d, o.mask, false, srcs, fun en l => BitVec.ofNat 64 (if o.cnt then (ps en l).length else (ps en l).headD 0), o.ml,
      fun en l => (ps en l).headD 0 == l⟩)
  | mrank (o : MrankOp) : CrossForm s (.mrank o) (let srcs := [(Src.vec o.a, if o.ty.wide then Ty.n64 else .n32)]
    (plain o.d o.mask false srcs fun en l =>
      BitVec.ofNat 64 ((peers s.strand.width en (fun l => fit o.ty.wide (s.val srcs 0 l)) l).filter (· < l)).length))
  | scan (o : ScanOp) : CrossForm s (.scan o) (let srcs := [(Src.vec o.a, if o.ty.wide then Ty.n64 else .n32)]
    (plain o.d o.mask o.ty.wide srcs fun en l =>
      match (runComb o.op o.ty (fun l => fit o.ty.wide (s.val srcs 0 l)) (lanesOf s.strand.width en) none).find? (·.1 == l) with
      | some (_, before, v) => if o.excl then before.getD (combId o.op o.ty) else v
      | none => 0))
  | reduce (o : ReduceOp) : CrossForm s (.reduce o) (let srcs := [(Src.vec o.a, if o.ty.wide then Ty.n64 else .n32)]
    (plain o.d o.mask o.ty.wide srcs fun en _ =>
      match (runComb o.op o.ty (fun l => fit o.ty.wide (s.val srcs 0 l)) (lanesOf s.strand.width en) none).getLast? with
      | some (_, _, v) => v
      | none => combId o.op o.ty))
  | ballotNone (d : Dest) (ms : Fin 16) : CrossForm s (.ballot d ms none) (plain d 0 false [] fun _ _ =>
      BitVec.ofNat 64 ((List.range 32).foldl (fun n j => n + if maskWord (s.path.mask ms) j = 0 then 0 else 2 ^ j) 0))
  | ballotSome (d : Dest) (ms : Fin 16) (b : SC) : CrossForm s (.ballot d ms (some b)) (let srcs := [(scSrc b, Ty.n32)]
    let j := natAt .n32 (s.val srcs 0 0)
    (plain d 0 false srcs fun _ _ => BitVec.ofNat 64 (if j < s.strand.width / 32 then maskWord (s.path.mask ms) j else 0)))
  | any (d : Dest) (ms : Fin 16) : CrossForm s (.any d ms) (plain d 0 false [] fun _ _ => if s.path.mask ms = 0 then 0 else 1)
  | all (d : Dest) (ms : Fin 16) : CrossForm s (.all d ms) (plain d 0 false [] fun _ _ => if s.path.mask ms = s.path.lanes then 1 else 0)
  | mpop (d : Dest) (ma : Fin 16) : CrossForm s (.mpop d ma) (plain d 0 false [] fun _ _ => BitVec.ofNat 64 (countLanes s.strand.width (s.path.mask ma)))
  | mfirst (d : Dest) (ma : Fin 16) : CrossForm s (.mfirst d ma) (plain d 0 false [] fun _ _ =>
      BitVec.ofNat 64 ((lanesOf s.strand.width (s.path.mask ma)).headD 0xFFFFFFFF))
  | mlast (d : Dest) (ma : Fin 16) : CrossForm s (.mlast d ma) (plain d 0 false [] fun _ _ =>
      BitVec.ofNat 64 ((lanesOf s.strand.width (s.path.mask ma)).getLastD 0xFFFFFFFF))

/-- Comparisons, class tests and mask operations (R78, R79, R81, R161, R162, R173): the mask written, the mask field, the sources, and
the bit on a lane. -/
structure MaskForm where
  md : Fin 16
  mask : Fin 16
  srcs : List (Src × Ty)
  bit : Nat → Bool

def cmpForm (s : State) (o : CmpOp) (c : Int → Int → Bool) : MaskForm :=
  let srcs := [(o.a, o.ty), (o.b, o.ty)]
  let num := fun x : Word => if o.uns then (natAt o.ty x : Int) else intAt o.ty x
  ⟨o.md, o.mask, srcs, fun l => c (num (s.val srcs 0 l)) (num (s.val srcs 1 l))⟩

def cmpIForm (s : State) (o : CmpIOp) (c : Int → Int → Bool) : MaskForm :=
  let srcs := [(o.a, o.ty)]
  let num := fun x : Word => if o.uns then (natAt o.ty x : Int) else intAt o.ty x
  ⟨o.md, o.mask, srcs, fun l => c (num (s.val srcs 0 l)) (num (o.imm.signExtend 64))⟩

inductive MaskRel (s : State) : Instr → MaskForm → Prop where
  | cmpEq (o : CmpOp) : MaskRel s (.cmpEq o) (cmpForm s o fun a b => decide (a = b))
  | cmpNe (o : CmpOp) : MaskRel s (.cmpNe o) (cmpForm s o fun a b => decide (a ≠ b))
  | cmpLt (o : CmpOp) : MaskRel s (.cmpLt o) (cmpForm s o fun a b => decide (a < b))
  | cmpLe (o : CmpOp) : MaskRel s (.cmpLe o) (cmpForm s o fun a b => decide (a ≤ b))
  | cmpGt (o : CmpOp) : MaskRel s (.cmpGt o) (cmpForm s o fun a b => decide (b < a))
  | cmpGe (o : CmpOp) : MaskRel s (.cmpGe o) (cmpForm s o fun a b => decide (b ≤ a))
  | cmpiEq (o : CmpIOp) : MaskRel s (.cmpiEq o) (cmpIForm s o fun a b => decide (a = b))
  | cmpiNe (o : CmpIOp) : MaskRel s (.cmpiNe o) (cmpIForm s o fun a b => decide (a ≠ b))
  | cmpiLt (o : CmpIOp) : MaskRel s (.cmpiLt o) (cmpIForm s o fun a b => decide (a < b))
  | cmpiLe (o : CmpIOp) : MaskRel s (.cmpiLe o) (cmpIForm s o fun a b => decide (a ≤ b))
  | cmpiGt (o : CmpIOp) : MaskRel s (.cmpiGt o) (cmpIForm s o fun a b => decide (b < a))
  | cmpiGe (o : CmpIOp) : MaskRel s (.cmpiGe o) (cmpIForm s o fun a b => decide (b ≤ a))
  | mmovValue (mask : Fin 16) (md : Fin 16) (t : Ty) (a : Src) : MaskRel s (.mmov mask md (.value t a)) ⟨md, mask, [(a, t)], fun l => natAt t (s.val [(a, t)] 0 l) != 0⟩
  | mmovMask (mask : Fin 16) (md : Fin 16) (m : Fin 16) : MaskRel s (.mmov mask md (.mask m)) ⟨md, mask, [], fun l => (s.path.mask m).getLsbD l⟩
  | fcmp (o : FcmpOp) : MaskRel s (.fcmp o) (let srcs := [(o.a, o.ty), (o.b, o.ty)]
    ⟨o.md, o.mask, srcs, fun l =>
      condFloat o.cc (elemCode o.ty (s.val srcs 0 l) o.e.toNat) (elemCode o.ty (s.val srcs 1 l) o.e.toNat)⟩)
  | fisnan (o : FisnanOp) : MaskRel s (.fisnan o) (let srcs := [(o.a, o.ty)]
    ⟨o.md, o.mask, srcs, fun l => (elemCode o.ty (s.val srcs 0 l) (elemIdx o.e)).isNan⟩)
  | mand (mask : Fin 16) (md : Fin 16) (a : Fin 16) (b : Fin 16) : MaskRel s (.mand mask md a b) ⟨md, mask, [], fun l => (s.path.mask a).getLsbD l && (s.path.mask b).getLsbD l⟩
  | mor (mask : Fin 16) (md : Fin 16) (a : Fin 16) (b : Fin 16) : MaskRel s (.mor mask md a b) ⟨md, mask, [], fun l => (s.path.mask a).getLsbD l || (s.path.mask b).getLsbD l⟩
  | mxor (mask : Fin 16) (md : Fin 16) (a : Fin 16) (b : Fin 16) : MaskRel s (.mxor mask md a b) ⟨md, mask, [], fun l => (s.path.mask a).getLsbD l ^^ (s.path.mask b).getLsbD l⟩
  | mnot (mask : Fin 16) (md : Fin 16) (a : Fin 16) : MaskRel s (.mnot mask md a) ⟨md, mask, [], fun l => !(s.path.mask a).getLsbD l⟩

/-- The mask written holds the lanes enabled on which the bit is set (R79); other masks, and every name not read, are as they were. -/
def State.MaskResult (s t : State) (r : MaskForm) : Prop :=
  (∀ l, l < s.strand.width → (tgetD t.path.masks r.md.val 0).getLsbD l = ((s.path.mask r.mask).getLsbD l && r.bit l)) ∧
  (∀ m, m ≠ r.md.val → tget t.path.masks m = tget s.path.masks m) ∧
  (∀ n, t.path.get n = (s.afterReads r.srcs).path.get n) ∧ t.path.walkers = (s.afterReads r.srcs).path.walkers ∧
  t.path.lanes = s.path.lanes ∧ s.Quiet t ∧ s.MovedOn t

end Sys2Proof.Machine

section
open Sys2Proof Sys2Proof.Machine

/-- The integer instructions of majors 0x01 and 0x02 complete with their results (R69 to R71, R74 to R77). -/
def Obligations.IntegerCompletes : Prop :=
  ∀ i s r, IntegerForm s i r → s.CanRun r → ∃ t, exec i s = .next t ∧ s.RegResult t r

/-- `mov`, `movi`, `movl`, `msel`, `lea` and `leax` (R80, R81, R84, R85), and `rdsr`, `feat` and `wrd` (R93, R97, R98, R101), complete
with their results. -/
def Obligations.MoveSystemCompletes : Prop :=
  ∀ i s r, (MoveForm s i r ∨ SystemForm s i r) → s.CanRun r → ∃ t, exec i s = .next t ∧ s.RegResult t r

/-- The float arithmetic of major 0x10, the conversions, `fclass` and the dot products complete with their results. -/
def Obligations.FloatCompletes : Prop :=
  ∀ i s r, FloatForm s i r → s.CanRun r → ∃ t, exec i s = .next t ∧ s.RegResult t r

/-- The cross-lane instructions and the scalars taken from masks complete with their results (R168 to R173). -/
def Obligations.CrossLaneCompletes : Prop :=
  ∀ i s r, CrossForm s i r → s.CanRun r → ∃ t, exec i s = .next t ∧ s.RegResult t r

/-- Comparisons, `mmov`, `fcmp`, `fisnan` and the mask operations complete with the mask they write. Lanes are 0 to 1,023 (R127). -/
def Obligations.MaskCompletes : Prop :=
  ∀ i s r, MaskRel s i r → s.CanRead r.srcs (s.path.mask r.mask) → s.strand.width ≤ 1024 →
    ∃ t, exec i s = .next t ∧ s.MaskResult t r

end

/-! ## Names, walkers, control and system instructions -/

namespace Sys2Proof.Machine

/-- The name holds a record with this count. -/
def Path.Counts (p : Path) (n : Name) (c : Option Nat) : Prop := ∃ r, p.get n = some r ∧ r.count = c

/-- Only one name may have changed, and the path goes on. -/
def State.OnlyName (s t : State) (n : Name) : Prop :=
  (∀ m, m ≠ n → t.path.get m = s.path.get m) ∧ t.path.masks = s.path.masks ∧ t.path.walkers = s.path.walkers ∧
  t.path.lanes = s.path.lanes ∧ s.Quiet t ∧ s.MovedOn t

/-- The header of a block lets a path in (R30, R32). -/
def Block.valid (b : Block) : Bool :=
  hdrMarker b.hdr = 0x3F && hdrLen b.hdr != 0 && !hdrReserved b.hdr &&
    (!hdrBterm b.hdr || !b.whole || match lastInstr b.words with | some w => w.extractLsb' 58 6 == 0x31#6 | none => false)

/-- No path of the strand stops at this header: it is no rejoin point, and the join of no split the path is an arm of. -/
def State.Free (s : State) (a : Word) : Prop :=
  a.toNat % 8 = 0 ∧ (∀ q ∈ s.strand.paths, q.2.rejoin ≠ some a) ∧ s.path.rejoin ≠ some a ∧
  armsAt s.strand.splits a s.path.arms = none

/-- The path goes to the header at an address (R31 to R33): where nothing stops it there, it waits for the block while the
instruction buffer lacks it, or lacks the last word that the check of its header needs, and enters it where its header is valid, with the
names as `post` says. -/
def State.Arrives (s t : State) (a : Word) (fall : Bool) (post : Path → Prop) : Prop :=
  s.Free a → s.path.joinCheck = false → match s.buffered a with
    | none => t.path.pc = a ∧ post t.path ∧ ∃ o u, t.path.status = .fetch a fall o u
    | some b => b.valid = true →
      if b.untested = true then t.path.pc = a ∧ post t.path ∧ ∃ o u, t.path.status = .fetch a fall o u else
      t.path.pc = b.base + 8 ∧ t.path.blk = b ∧ t.path.status = .ready ∧ post t.path

/-- Direct branches (R86 to R88, R91): what they read, whether they are taken, the offset, and the walkers they leave. -/
structure Branch where
  srcs : List (Src × Ty)
  taken : Bool
  off : BitVec 27
  walkers : Tbl Walker

inductive BranchForm (s : State) : Instr → Branch → Prop where
  | br (off : BitVec 27) : BranchForm s (.br off) ⟨[], true, off, s.path.walkers⟩
  | brnz (x : Fin 64) (off : BitVec 27) : BranchForm s (.brnz x off)
      ⟨[(.scl x, .n64)], s.val [(.scl x, .n64)] 0 0 != 0, off, s.path.walkers⟩
  | brz (x : Fin 64) (off : BitVec 27) : BranchForm s (.brz x off)
      ⟨[(.scl x, .n64)], s.val [(.scl x, .n64)] 0 0 == 0, off, s.path.walkers⟩
  | brw (w : Fin 8) (e : Fin 3) (onSet : Bool) (off : BitVec 27) (x : Walker) (h : tget s.path.walkers w.val = some x) :
      BranchForm s (.brw w e onSet off) ⟨[], x.flag e == onSet, off, tset s.path.walkers w.val (x.clear e)⟩
  | whole (mc : Fin 16) (neg : Bool) (off : BitVec 27) (h : s.path.blk.rcv ≠ none)
      (hl : (if neg then s.path.lanes &&& ~~~(s.path.mask mc) else s.path.mask mc) = s.path.lanes) :
      BranchForm s (.brd mc neg off) ⟨[], true, off, s.path.walkers⟩
  | nowhere (mc : Fin 16) (neg : Bool) (off : BitVec 27) (h : s.path.blk.rcv ≠ none) (hs : s.path.lanes ≠ 0)
      (hl : (if neg then s.path.lanes &&& ~~~(s.path.mask mc) else s.path.mask mc) = 0) :
      BranchForm s (.brd mc neg off) ⟨[], false, off, s.path.walkers⟩

/-- Calls and returns (R40, R89): what they read, the target, and the destination of the link. -/
structure Call where
  srcs : List (Src × Ty)
  target : Word
  link : Dest

inductive CallForm (s : State) : Instr → Call → Prop where
  | call (d : Dest) (off : BitVec 27) : CallForm s (.call d off) ⟨[], branchTo s.path.pc off, d⟩
  | callx (d : Dest) (x : Fin 64) : CallForm s (.callx d x) ⟨[(.scl x, .n64)], s.val [(.scl x, .n64)] 0 0, d⟩
  | ret (x : Fin 64) : CallForm s (.ret x) ⟨[(.scl x, .n64)], s.val [(.scl x, .n64)] 0 0, .sink⟩

/-- A fault that traps the whole path (R70, R339, R340): the cause and %tcode stand, %fpc is the instruction, %fdone has what completed
of its window in an earlier attempt (R39), and nothing else of it takes effect. -/
def State.Raised (s t : State) (cause tcode : Nat) : Prop :=
  ∃ tr, t.path.trap = some tr ∧ t.path.status = .trapped ∧ tr.cause = cause ∧ tr.tcode = tcode ∧ tr.fpc = s.path.pc ∧
    (s.path.redo = none → tr.fdone = 0) ∧ (∀ r, s.path.redo = some r → r.pc = s.path.pc → tr.fdone = r.done) ∧ tr.faddr = [] ∧
    t = { s with path := { s.path with status := .trapped, trap := some tr, window := none } }

end Sys2Proof.Machine

section
open Sys2Proof Sys2Proof.Machine

/-- `drop` cancels reads (R28, R82): of a counted record as many as its count field says, the record leaving when none is left, or all
of them with count 15; a held record only with count 15. `hold` makes a counted record held, and a held one counted. -/
def Obligations.DropHoldCompletes : Prop := ∀ (x : Name) (c : BitVec 4) (s : State) (r : Rec), s.path.get x = some r →
  (∀ k, r.count = some k → 0 < k → c ≠ 15 → c.toNat ≤ k → ∃ t, exec (.drop x c) s = .next t ∧ s.OnlyName t x ∧
    (if k = c.toNat ∧ r.pend = [] then t.path.get x = none else t.path.Counts x (some (k - c.toNat)))) ∧
  (r.count ≠ some 0 → c = 15 → ∃ t, exec (.drop x c) s = .next t ∧ s.OnlyName t x ∧ (r.pend = [] → t.path.get x = none)) ∧
  (r.count = none → c ≠ 15 → ∃ t, exec (.drop x c) s = .next t ∧ s.OnlyName t x ∧ t.path.get x = some r) ∧
  (∀ k, r.count = some k → 0 < k → c = 15 → ∃ t, exec (.hold x c) s = .next t ∧ s.OnlyName t x ∧ t.path.Counts x none) ∧
  (r.count = none → c ≠ 0 → c ≠ 15 → ∃ t, exec (.hold x c) s = .next t ∧ s.OnlyName t x ∧ t.path.Counts x (some c.toNat))

/-- `br`, `brnz`, `brz`, `brw`, and a `brd` that goes whole: taken, the path goes to its target; not taken, to the following
block. The package is as it was. `call`, `callx` and `ret`: the link is the header after the block (R40),
and the path goes to the target. -/
def Obligations.BranchCallComplete : Prop :=
  (∀ i s b, BranchForm s i b → s.path.atEnd = true → s.CanRead b.srcs s.path.lanes →
  ∃ t, exec i s = .next t ∧ t.path.lanes = s.path.lanes ∧ t.dev = s.dev ∧
    s.Arrives t (if b.taken then branchTo s.path.pc b.off else s.path.blk.stop) (!b.taken)
      (fun p => (∀ n, p.get n = (s.afterReads b.srcs).path.get n) ∧ p.masks = s.path.masks ∧ p.walkers = b.walkers)) ∧
  (∀ i s c, CallForm s i c → s.path.atEnd = true → s.CanRead c.srcs s.path.lanes →
  (s.afterReads c.srcs).CanWrite c.link true →
  ∃ t, exec i s = .next t ∧ t.path.lanes = s.path.lanes ∧ t.dev = s.dev ∧
    s.Arrives t c.target false fun p =>
      (s.afterReads c.srcs).path.Wrote p c.link true (destVals c.link true s.strand.width s.path.lanes fun _ => s.path.blk.stop) ∧
        p.masks = s.path.masks ∧ p.walkers = s.path.walkers)

/-- A `brd` on some lanes of its path splits it (R132, R134): an open split at the reconvergence header, arm F the path itself with the
lanes not taken, and arm T a new path with those taken; no lane is lost or doubled. -/
def Obligations.SplitCompletes : Prop := ∀ (mc : Fin 16) (neg : Bool) (off : BitVec 27) (s : State) (join : Word) (taken : LaneSet)
  (foc : Nat × Nat × Nat), s.path.atEnd = true → s.path.blk.rcv = some join → s.focus = some foc → foc.2.2 < s.strand.next →
  taken = (if neg then s.path.lanes &&& ~~~(s.path.mask mc) else s.path.mask mc) → taken ≠ s.path.lanes → taken ≠ 0 →
  ∃ t q, exec (.brd mc neg off) s = .next t ∧ tget t.strand.splits s.strand.next = some ⟨join, s.strand.splits.isEmpty, []⟩ ∧
    t.path.lanes = s.path.lanes &&& ~~~taken ∧ tget t.strand.paths (s.strand.next + 1) = some q ∧ q.lanes = taken ∧
    t.path.v = s.path.v ∧ t.path.sc = s.path.sc ∧ q.v = s.path.v ∧ q.sc = s.path.sc ∧ t.strand.next = s.strand.next + 2

/-- Walkers (R43, R92, R93): `wset` sets the base and the dimensions, with every index 0 and every end flag clear, and a dimension left
out counts 1 with stride 0; a read as a source, here by `mov`, yields the base plus each index times its stride, and then advances the
walker, an index that reaches its count going to 0 with its end flag set; `wend` frees it. -/
def Obligations.WalkerCompletes : Prop :=
  (∀ (o : WsetOp) (s : State), s.CanRead [(scSrc o.base, .n64)] s.path.lanes → ∃ t x, exec (.wset o) s = .next t ∧
    tget t.path.walkers o.w.val = some x ∧ x.base = s.val [(scSrc o.base, .n64)] 0 0 ∧ x.i0 = 0 ∧ x.i1 = 0 ∧ x.i2 = 0 ∧
    x.e0 = false ∧ x.e1 = false ∧ x.e2 = false ∧
    x.c0 = (if o.c0 = 0 then 1 else o.c0.toNat) ∧ x.c1 = (if o.c1 = 0 then 1 else o.c1.toNat) ∧
    x.c2 = (if o.c2 = 0 then 1 else o.c2.toNat) ∧ x.t0 = (if o.c0 = 0 then 0 else o.t0) ∧ x.t1 = (if o.c1 = 0 then 0 else o.t1) ∧
    x.t2 = (if o.c2 = 0 then 0 else o.t2) ∧
    (∀ w, w ≠ o.w.val → tget t.path.walkers w = tget s.path.walkers w) ∧
    (∀ n, t.path.get n = (s.afterReads [(scSrc o.base, .n64)]).path.get n) ∧ t.path.masks = s.path.masks ∧ s.Quiet t ∧ s.MovedOn t) ∧
  (∀ (n : Fin 64) (c : BitVec 4) (m : Fin 16) (w : Fin 8) (s : State) (x : Walker), tget s.path.walkers w.val = some x →
    s.CanWrite (.scl n c) true →
    ∃ t y, exec (.mov ⟨m, .n64, .scl n c, .walker w⟩) s = .next t ∧
      s.path.Wrote t.path (.scl n c) true [x.base + x.t0.signExtend 64 * BitVec.ofNat 64 x.i0 + x.t1.signExtend 64 * BitVec.ofNat 64 x.i1 +
        x.t2.signExtend 64 * BitVec.ofNat 64 x.i2] ∧
      tget t.path.walkers w.val = some y ∧ y.base = x.base ∧ y.c0 = x.c0 ∧ y.c1 = x.c1 ∧ y.c2 = x.c2 ∧ y.t0 = x.t0 ∧ y.t1 = x.t1 ∧
      y.t2 = x.t2 ∧
      (if x.i0 + 1 ≠ x.c0 then y.i0 = x.i0 + 1 ∧ y.i1 = x.i1 ∧ y.i2 = x.i2 ∧ y.e0 = x.e0 ∧ y.e1 = x.e1 ∧ y.e2 = x.e2
       else y.i0 = 0 ∧ y.e0 = true ∧
         if x.i1 + 1 ≠ x.c1 then y.i1 = x.i1 + 1 ∧ y.i2 = x.i2 ∧ y.e1 = x.e1 ∧ y.e2 = x.e2
         else y.i1 = 0 ∧ y.e1 = true ∧
           if x.i2 + 1 ≠ x.c2 then y.i2 = x.i2 + 1 ∧ y.e2 = x.e2 else y.i2 = 0 ∧ y.e2 = true) ∧
      (∀ k, k ≠ w.val → tget t.path.walkers k = tget s.path.walkers k) ∧ t.path.masks = s.path.masks ∧ s.Quiet t ∧ s.MovedOn t) ∧
  (∀ (w : Fin 8) (s : State), ∃ t, exec (.wend w) s = .next t ∧ tget t.path.walkers w.val = none ∧
    (∀ x, x ≠ w.val → tget t.path.walkers x = tget s.path.walkers x) ∧ t.path.v = s.path.v ∧ t.path.sc = s.path.sc ∧
    t.path.masks = s.path.masks ∧ s.Quiet t ∧ s.MovedOn t)

/-- `nop` does nothing, and `sleep` makes the path unready for min(a, 65,535) clocks (R99). `tstamp` (R101, R102): the record
holds the clocks since the partition was configured, but for those it has been saved for. -/
def Obligations.TimingCompletes : Prop :=
  ((∀ s, ∃ t, exec .nop s = .next t ∧ s.path.SameNames t.path ∧ s.Quiet t ∧ s.MovedOn t) ∧
  (∀ (a : SC) (s : State), s.CanRead [(scSrc a, .n32)] s.path.lanes →
    let n := s.val [(scSrc a, .n32)] 0 0
    ∃ t, exec (.sleep a) s = .next t ∧ (∀ x, t.path.get x = (s.afterReads [(scSrc a, .n32)]).path.get x) ∧ s.Quiet t ∧
      (if n.toNat % 2 ^ 32 = 0 then s.MovedOn t
       else t.path.status = .sleep (s.clock + 1 + min (n.toNat % 2 ^ 32) 65535) ∧ t.path.pc = s.path.pc))) ∧
  (∀ (d : Dest) (s : State), s.path.windowOpen = false → s.CanWrite d true →
  ∃ t, exec (.tstamp d) s = .next t ∧
    s.path.Wrote t.path d true (destVals d true s.strand.width s.path.lanes fun _ => BitVec.ofNat 64 (s.clock + s.part.ahead - s.part.clock0)) ∧
    t.path.masks = s.path.masks ∧ s.MovedOn t ∧ (s.core.dbg.on 2 = false → s.Quiet t))

/-- `prog` (R100) adds 1 to a progress counter of the core, a register of 64 bits (R403), once however many lanes the path has, unless the
counters stand still after a trial (R410), and changes nothing else that a program sees. -/
def Obligations.ProgCompletes : Prop := ∀ (n : Fin 16) (s : State), ∃ t, exec (.prog n) s = .next t ∧ s.path.SameNames t.path ∧
  (if s.core.progStop then t.core.prog = s.core.prog
   else tget t.core.prog n.val = some ((tgetD s.core.prog n.val 0 + 1) % 2 ^ 64) ∧
     ∀ m, m ≠ n.val → tget t.core.prog m = tget s.core.prog m) ∧
  ({ s with core := { s.core with prog := t.core.prog, progStop := t.core.progStop } } : State).Quiet t ∧
  t.core.progStop = s.core.progStop ∧ s.MovedOn t

/-- `trap n` raises TRAPI, and `break n` raises BREAK where no breakpoint of its partition is armed; with one armed, `break` stops
the partition with source 3 and goes on (R95, R411, R412). `wrsr %fdone` (R97): in a handler it takes the bits of the declared window; outside one
it raises PRIV, also where its source cannot be read, which is the model's choice (log entry 91), and any other register raises ILLOP. -/
def Obligations.TrapWriteRegisterComplete : Prop :=
  ((∀ (n : BitVec 6) (s : State), s.path.windowOpen = false → ∃ t, exec (.trap n) s = .next t ∧ s.Raised t 0x14 n.toNat) ∧
  (∀ (n : BitVec 6) (s : State), s.path.windowOpen = false → s.part.armed = false →
    ∃ t, exec (.brk n) s = .next t ∧ s.Raised t 0x15 n.toNat) ∧
  (∀ (n : BitVec 6) (s : State), s.part.armed = true → s.part.stop = none → ∃ t st, exec (.brk n) s = .next t ∧
    s.path.SameNames t.path ∧ (t.dev.partAt s.partNo).stop = some st ∧ st.src = 3 ∧ st.n = n.toNat % 8)) ∧
  ((∀ (a : SC) (s : State) (tr : Trap), s.path.handler = some tr → s.CanRead [(scSrc a, .n32)] s.path.lanes →
    ∃ t, exec (.wrsr .fdone a) s = .next t ∧
      t.path.handler = some { tr with fdone := ((s.val [(scSrc a, .n32)] 0 0).setWidth 32) &&& BitVec.ofNat 32 (2 ^ tr.win - 1) } ∧
      (∀ n, t.path.get n = (s.afterReads [(scSrc a, .n32)]).path.get n) ∧ t.path.masks = s.path.masks ∧ s.Quiet t ∧ s.MovedOn t) ∧
  (∀ (a : SC) (s : State), s.path.handler = none → s.path.windowOpen = false →
    ∃ t, exec (.wrsr .fdone a) s = .next t ∧ s.Raised t 0x17 0) ∧
  (∀ (r : SysReg) (a : SC) (s : State), r ≠ .fdone → s.path.windowOpen = false →
    ∃ t, exec (.wrsr r a) s = .next t ∧ s.Raised t 0x01 0))

/-- `exit` ends its path (R41, R90): its lanes have exited, and the strand no longer has it; the last one takes the strand off its slot
at once (R127). -/
def Obligations.ExitCompletes : Prop := ∀ (s : State) (foc : Nat × Nat × Nat), s.path.atEnd = true → s.focus = some foc →
  ∃ t, exec .exit s = .next t ∧ t.focus = none ∧ t.strand.exited = s.strand.exited ||| s.path.lanes ∧
    tget t.strand.paths foc.2.2 = none ∧ tget t.dev.cores foc.1 = some t.core ∧
    (t.strand.paths = [] → foc.2.1 < 48 → tget t.core.strands foc.2.1 = none)

end

/-! ## Accesses and functions (R36, R153, R240 to R255) -/

namespace Sys2Proof.Machine

/-- What a long-latency access or function is when it issues: its window, what it does, its destination, the lanes it acts on and
those that its destination's record waits for, its counter, its sources, and a part for each lane. -/
structure AccessForm where
  la : Fin 16
  kind : AKind
  ty : Ty
  d : Dest
  en : LaneSet
  waits : LaneSet
  ctr : Option (Fin 16)
  srcs : List (Src × Ty)
  accs : List LaneAcc

def accessForm (s : State) (la : Fin 16) (kind : AKind) (ty : Ty) (d : Dest) (scalar : Bool) (k m : Fin 16) (srcs : List (Src × Ty))
    (acc : Nat → LaneAcc) : AccessForm :=
  let en := if scalar then s.path.lanes else s.path.mask m
  ⟨la, kind, ty, d, en, en, some k, srcs, (if scalar then [0] else lanesOf s.strand.width en).map acc⟩

/-- Loads: the address of a lane is base + index (times the size where scaled) + displacement times the size (R240). -/
def loadForm (s : State) (cls : List Nat) (cached : Bool) (o : LoadOp) : AccessForm :=
  let srcs := [(o.base, Ty.n64), (o.index, .i32)]
  accessForm s o.la (.load cls cached) o.ty o.d o.d.isScl o.k o.mask srcs fun l =>
    laneAcc o.ty .add l (effAddr o.ty o.scaled o.disp (s.val srcs 0 l) (s.val srcs 1 l)) 0 0

/-- Stores and reductions: the data, then the address. -/
def storeForm (s : State) (kind : AKind) (op : Comb) (o : StoreOp) : AccessForm :=
  let srcs := [(nameSrc o.data, o.ty), (o.base, .n64), (o.index, .i32)]
  accessForm s o.la kind o.ty .sink (Name.isScalar o.data) o.k o.mask srcs fun l =>
    laneAcc o.ty op l (effAddr o.ty o.scaled o.disp (s.val srcs 1 l) (s.val srcs 2 l)) (s.val srcs 0 l) 0

/-- Atomics (R250): the address, the operand, and for `cas` the swap value in the name above. -/
def atomForm (s : State) (k : AtomK) (o : AtomOp) : AccessForm :=
  let srcs := [(o.base, Ty.n64), (o.b, o.ty)] ++ if k == .cas then [(swapSrc o.b, o.ty)] else []
  accessForm s o.la (.atomic k o.sem o.scope) o.ty o.d o.d.isScl o.k o.mask srcs fun l =>
    laneAcc o.ty .add l (s.val srcs 0 l) (s.val srcs 1 l) (s.val srcs 2 l)

/-- Functions (R153): the result of each lane, computed from the operands read. -/
def fnForm (s : State) (la m : Fin 16) (ty : Ty) (d : Dest) (srcs : List Src) (f : List Word → Word) : AccessForm :=
  let ss := srcs.map fun x => (x, ty)
  let en := s.enabled d m
  ⟨la, .func, ty, d, en, if d.isScl then 1 else en, none, ss, (if d.isScl then [0] else lanesOf s.strand.width en).map fun l =>
    laneAcc ty .add l 0 (f ((List.range ss.length).map fun i => s.val ss i l)) 0⟩

def fn1Form (s : State) (o : Fn1) (f : FnOp) : AccessForm :=
  fnForm s o.la o.mask o.ty o.d [o.a] fun v => eachElem o.ty (fnCode f o.ty) (v.getD 0 0)

inductive AccessIssue (s : State) : Instr → AccessForm → Prop where
  | ldG (o : LoadOp) : AccessIssue s (.ldG o) (loadForm s [0, 1] true o)
  | ldR (o : LoadOp) : AccessIssue s (.ldR o) (loadForm s [3] false o)
  | ldH (o : LoadOp) : AccessIssue s (.ldH o) (loadForm s [2, 4] false o)
  | ldC (o : LoadOp) : AccessIssue s (.ldC o) (loadForm s [0, 1, 2] true o)
  | stG (o : StoreOp) : AccessIssue s (.stG o) (storeForm s (.store [0, 1]) .add o)
  | stR (o : StoreOp) : AccessIssue s (.stR o) (storeForm s (.store [3]) .add o)
  | stH (o : StoreOp) : AccessIssue s (.stH o) (storeForm s (.store [2, 4]) .add o)
  | redAdd (o : StoreOp) : AccessIssue s (.redAdd o) (storeForm s (.red .add) .add o)
  | redMin (o : StoreOp) : AccessIssue s (.redMin o) (storeForm s (.red .min) .min o)
  | redMax (o : StoreOp) : AccessIssue s (.redMax o) (storeForm s (.red .max) .max o)
  | atomAdd (o : AtomOp) : AccessIssue s (.atomAdd o) (atomForm s .add o)
  | atomMin (o : AtomOp) : AccessIssue s (.atomMin o) (atomForm s .min o)
  | atomMax (o : AtomOp) : AccessIssue s (.atomMax o) (atomForm s .max o)
  | atomAnd (o : AtomOp) : AccessIssue s (.atomAnd o) (atomForm s .and o)
  | atomOr (o : AtomOp) : AccessIssue s (.atomOr o) (atomForm s .or o)
  | atomXor (o : AtomOp) : AccessIssue s (.atomXor o) (atomForm s .xor o)
  | atomExch (o : AtomOp) : AccessIssue s (.atomExch o) (atomForm s .exch o)
  | atomCas (o : AtomOp) : AccessIssue s (.atomCas o) (atomForm s .cas o)
  | atomInc (o : AtomOp) : AccessIssue s (.atomInc o) (atomForm s .inc o)
  | fdiv (o : Fn2) : AccessIssue s (.fdiv o) (fnForm s o.la o.mask o.ty o.d [o.a, o.b] fun v =>
      eachElem2 o.ty (fun a b => divCode o.ty (valueOf o.ty a) (valueOf o.ty b)) (v.getD 0 0) (v.getD 1 0))
  | frcp (o : Fn1) : AccessIssue s (.frcp o) (fn1Form s o .rcp)
  | frsq (o : Fn1) : AccessIssue s (.frsq o) (fn1Form s o .rsq)
  | fsqrt (o : Fn1) : AccessIssue s (.fsqrt o) (fn1Form s o .sqrt)
  | fexp2 (o : Fn1) : AccessIssue s (.fexp2 o) (fn1Form s o .exp2)
  | flog2 (o : Fn1) : AccessIssue s (.flog2 o) (fn1Form s o .log2)
  | fsin (o : Fn1) : AccessIssue s (.fsin o) (fn1Form s o .sin)
  | fcos (o : Fn1) : AccessIssue s (.fcos o) (fn1Form s o .cos)
  | ftanh (o : Fn1) : AccessIssue s (.ftanh o) (fn1Form s o .tanh)

/-- The access is in flight: untranslated, with a part for each lane; one unit more on its counter and no other; its destination's
record waits for it, its window is open, and nothing outside its strand has changed. -/
def State.AccessIssued (s t : State) (f : AccessForm) : Prop :=
  ∃ id fl w, tget t.strand.flights id = some fl ∧ fl.kind = f.kind ∧ fl.ty = f.ty ∧ fl.lanes = f.en ∧ fl.accs = f.accs ∧
    fl.paths = [s.pathNo] ∧ fl.passed = false ∧ fl.pc = s.path.pc ∧ fl.ctr = f.ctr.map (·.val) ∧
    (∀ j, j ≠ id → tget t.strand.flights j = tget s.strand.flights j) ∧
    (∀ k : Fin 16, f.ctr = some k → fl.unit = id ∧ t.strand.outstanding k.val = s.strand.outstanding k.val + 1) ∧
    (∀ k : Fin 16, f.ctr ≠ some k → t.strand.counter k.val = s.strand.counter k.val) ∧
    (∀ n c, destName f.d = some (n, c) → ∃ r, t.path.get n = some r ∧ r.count = countOf c ∧ r.wide = f.ty.wide ∧
      r.pend = if f.waits = 0 then [] else [(id, f.waits)]) ∧
    (∀ n, (∀ c, destName f.d ≠ some (n, c)) → t.path.get n = (s.afterReads f.srcs).path.get n) ∧
    t.path.masks = s.path.masks ∧ t.path.lanes = s.path.lanes ∧ (s.path.redo = none → t.path.pc = s.path.nextPc) ∧
    t.path.window = some w ∧ w.pc = s.path.pc ∧ w.la = f.la.val ∧ w.complete = false ∧ w.flight = id ∧
    s.Quiet { t with strand := s.strand }

/-- A record gets the data it waited for from an access: present, with its reads as they were. -/
def Rec.Filled (r r' : Rec) (vals : List Word) : Prop := r'.vals = vals ∧ r'.pend = [] ∧ r'.count = r.count ∧ r'.wide = r.wide

/-- No access of the path is in flight: a release of it need not wait for its own (R206). -/
def State.NoFlights (s : State) : Prop := ∀ f ∈ s.strand.flights, f.2.paths.contains s.pathNo = false

/-- What a lane of a load finds when it binds (R186, R187, R206, R245): the value it is bound to already; else what the L1 of its core
holds of its sector, else what the die of its core holds of it as a non-home copy, else what memory holds. L1 and share have room for
what the other lanes of the access bring in, and no store of the core that has not been performed lies over the bytes. -/
inductive State.Finds (s : State) (c part : Nat) (f : Flight) (cached : Bool) (a : LaneAcc) : Word → Prop where
  | bound (v : Word) (h : a.val = some v) : State.Finds s c part f cached a v
  | line (x : List Byte) (h : a.val = none) (hc : cached = true) (hs : spaceOf a.pa < 3) (hp : a.policy = 0)
      (hx : tget (s.dev.coreAt c).l1 a.sector = some x) (room : (s.dev.coreAt c).l1.length + f.accs.length ≤ 512) :
      State.Finds s c part f cached a (widen a.ty (BitVec.ofNat 64 (leNat ((x.drop (a.pa % 32)).take a.ty.size))))
  | copy (x : List Byte) (h : a.val = none) (hc : cached = true) (hs : spaceOf a.pa < 3)
      (hl : a.policy = 0 → tget (s.dev.coreAt c).l1 a.sector = none) (hk : copied c (a.sector * 32) a.policy a.rd = true)
      (hx : tget (s.dev.dieAt (dieOf c)).copies (copyKey part a.sector) = some x) (hq : (s.dev.coreAt c).queuedStores = [])
      (room : (s.dev.shareLines part (dieOf c)).length + f.accs.length ≤ (s.dev.partAt part).lines (dieOf c)) :
      State.Finds s c part f cached a (widen a.ty (BitVec.ofNat 64 (leNat ((x.drop (a.pa % 32)).take a.ty.size))))
  | memory (h : a.val = none) (hs : spaceOf a.pa ≠ 3 ∧ spaceOf a.pa ≠ 4) (hq : (s.dev.coreAt c).queuedStores = [])
      (hn : a.pa % 32 + a.ty.size ≤ 32) (hl : cached = true → a.policy = 0 → tget (s.dev.coreAt c).l1 a.sector = none)
      (hk : cached = true → copied c (a.sector * 32) a.policy a.rd = true →
        tget (s.dev.dieAt (dieOf c)).copies (copyKey part a.sector) = none) :
      State.Finds s c part f cached a (widen a.ty (BitVec.ofNat 64 (s.dev.mem.nat a.pa a.ty.size)))

/-- A release of the path has nothing to wait for: no access of it is in flight, and no release has left one behind that another would
pass on (R206, R212). -/
structure State.CanRelease (s : State) : Prop where
  own : s.NoFlights
  others : ∀ c ∈ s.flush.dev.cores, ∀ e ∈ c.2.strands, ∀ f ∈ e.2.flights, f.2.pub = 0

/-- An access in flight that nothing holds back: accepted, no part of it over, no earlier access of its paths in flight, no earlier store
of its core to a common byte, and every place of it within reach; the event befalls every lane of it. -/
structure State.CanAct (s : State) (c sl id : Nat) (ls : List Nat) (e : Ending) (st : Strand) (f : Flight) : Prop where
  here : s.flush.strandAt c sl = some st
  flies : st.flight id = some f
  passed : f.passed = true
  first : ∀ g ∈ st.flights, g.2.sharesPath f = true → f.seq ≤ g.2.seq ∧ f.unit ≤ g.2.unit
  lanes : ∀ a ∈ f.accs, a.over = false ∧ f.chosen ls e a = true ∧ (s.flush.dev.coreAt c).storesBefore f a = false
  places : ∀ a ∈ f.accs, s.flush.dev.paused a.pa = false ∧ failCause s.flush.dev e a = none

/-- The access ends: its paths' records and its counter aside, the strand is where it was, and it is no longer in flight. -/
def State.Landed (t : State) (c sl id : Nat) : Prop := ∀ st, t.strandAt c sl = some st → st.flight id = none

end Sys2Proof.Machine

section
open Sys2Proof Sys2Proof.Machine

/-- Loads, stores, reductions, atomics and functions issue: where their counter has room, their sources can be read and their
destination can be written. -/
def Obligations.AccessIssues : Prop := ∀ i s f, AccessIssue s i f → (∀ k, f.ctr = some k → s.canPost k.val = true) →
  s.CanRead f.srcs f.en → (s.afterReads f.srcs).CanWrite f.d f.ty.wide → ∃ t, exec i s = .next t ∧ s.AccessIssued t f

/-- FUNCTION_RESULT_WRITE (R153): 4 clocks after its last sweep the function's results are in the record that waits. LOAD_DATA_ARRIVAL
(R206, R245): the oldest load of its path fills the record that waits with what its lanes find, a vector record on each lane that waits
and a scalar one with its one value; no byte of memory changes. -/
def Obligations.ResultsArrive : Prop :=
  (∀ (s u : State) (p : PRef) (w : Window) (f : Flight) (r : Rec) (ls : LaneSet),
  s.load p.core p.slot p.path = some u → u.path.window = some w → u.strand.flight w.flight = some f → f.kind = .func →
  f.issued + 4 ≤ u.clock → r.pend = [(w.flight, ls)] → r.count ≠ some 0 →
  let val := fun l => match f.accs.find? (·.lane == l) with | some a => a.data | none => 0
  ∃ t, exec (.functionResultWrite p) s = .next t ∧ t.dev = u.dev ∧ t.path.windowOpen = false ∧
    t.strand.flight w.flight = none ∧
    (∀ n, u.path.get (.vec n) = some r → ∃ r', t.path.get (.vec n) = some r' ∧
      r.Filled r' ((List.range r.vals.length).map fun l => if ls.getLsbD l then fit r.wide (val l) else r.vals.getD l 0)) ∧
    (∀ n, u.path.get (.scl n) = some r → ∃ r', t.path.get (.scl n) = some r' ∧ r.Filled r' [fit r.wide (val 0)])) ∧
  (∀ (s : State) (c sl id : Nat) (ls : List Nat) (e : Ending) (st : Strand) (f : Flight) (cls : List Nat) (cached : Bool)
    (p : Nat) (q : Path) (found : Nat → Word),
  s.flush.strandAt c sl = some st → st.flight id = some f → f.kind = .load cls cached → f.passed = true →
  (∀ a ∈ f.accs, a.bad = none ∧ f.chosen ls e a = true ∧ s.flush.dev.paused a.pa = false ∧ failCause s.flush.dev e a = none ∧
    s.flush.Finds c (s.dev.launchAt st.launch).part f cached a (found a.lane)) →
  (∀ g ∈ st.flights, g.2.sharesPath f = true → f.seq ≤ g.2.seq ∧ f.unit ≤ g.2.unit) → tget st.paths p = some q →
  ∃ t st' q', exec (.loadDataArrival c sl id ⟨ls, e⟩) s = .next t ∧ t.strandAt c sl = some st' ∧ st'.flight id = none ∧
    tget st'.paths p = some q' ∧ t.dev.mem = s.dev.mem ∧
    (∀ n r m, tget q.sc n = some r → r.pend = [(id, m)] → r.count ≠ some 0 → (∃ a ∈ f.accs, a.lane = 0) →
      ∃ r', tget q'.sc n = some r' ∧ r.Filled r' [fit r.wide (found 0)]) ∧
    (∀ n r m, tget q.v n = some r → r.pend = [(id, m)] → r.count ≠ some 0 → (∀ l, m.getLsbD l = true → ∃ a ∈ f.accs, a.lane = l) →
      ∃ r', tget q'.v n = some r' ∧ r.Filled r' ((List.range r.vals.length).map fun l =>
        if m.getLsbD l then fit r.wide (found l) else r.vals.getD l 0)))

/-- TRANSLATION_PASSED (R36, R197): an access that passes on every lane, and stands behind no earlier access of its path, is
accepted; its window can no longer fault. A contribution, alone in the buffer, enters it (R252). An atomic that releases has nothing
to pass on (R206, R212). -/
def Obligations.TranslationPasses : Prop := ∀ (s u : State) (p : PRef) (w : Window) (f : Flight) (accs : List LaneAcc),
  s.load p.core p.slot p.path = some u → u.path.window = some w → w.complete = false → u.strand.flight w.flight = some f →
  f.passed = false → f.kind ≠ .func → f.accs ≠ [] → f.accs.map (u.checkLane f) = accs.map LaneRes.ok →
  (∀ g ∈ u.strand.flights, u.earlier f g.2 = false ∧ (g.2.paths.contains u.pathNo = true → w.flight ≤ g.1)) →
  (f.kind.releases = true → ∀ c ∈ u.flush.dev.cores, ∀ e ∈ c.2.strands, ∀ g ∈ e.2.flights, g.2.pub = 0) →
  (∀ op, f.kind = .red op → accs.length = 1 ∧ u.part.ovfOrder = [] ∧ u.core.abuf = []) →
  ∃ t, exec (.translationPassed p) s = .next t ∧ t.path.windowOpen = false ∧
    (f.kind.isLoad || f.kind.isStore || f.kind.isAtomic → t.dev.mem = u.dev.mem ∧ ∃ g, t.strand.flight w.flight = some g ∧
      g.passed = true ∧ g.accs = accs ∧ g.kind = f.kind) ∧
    (∀ op a, f.kind = .red op → accs = [a] →
      t.core.abuf = [⟨u.strand.launch, u.strand.linear, u.coreNo, u.strand.number, a.va, a.pa, a.op, a.ty,
        BitVec.ofNat 64 (natAt a.ty a.data), f.ticket⟩])

/-- STORE_PERFORMED (R207, R246): the bytes of each lane whose home does not hold them yet, in ascending lane order, at its address; every
other byte of memory reads as before. -/
def Obligations.StorePerforms : Prop := ∀ (s : State) (c sl id : Nat) (ls : List Nat) (e : Ending) (st : Strand) (f : Flight),
  s.CanAct c sl id ls e st f → f.kind.isStore = true → (∀ a ∈ f.accs, spaceOf a.pa ≠ 3 ∧ spaceOf a.pa ≠ 4) →
  ∃ t, exec (.storePerformed c sl id ⟨ls, e⟩) s = .next t ∧ t.Landed c sl id ∧
    t.dev.mem = (f.accs.filter fun a => !a.home).foldl (fun m a => m.write a.pa a.bytes) s.dev.mem ∧
    (∀ x, (∀ a ∈ f.accs, ¬ (a.pa ≤ x ∧ x < a.pa + a.ty.size)) → t.dev.mem.get x = s.dev.mem.get x)

/-- ATOMIC_PERFORMED (R219, R250, R251, R254): each lane in ascending order replaces what its location holds by the value of the
operation, and a scalar one gives its record the old value; the additions of an `rflush` reach memory. Every other byte reads as
before. -/
def Obligations.AtomicPerforms : Prop := ∀ (s : State) (c sl id : Nat) (ls : List Nat) (e : Ending) (st : Strand) (f : Flight),
  s.CanAct c sl id ls e st f →
  (∀ k sem sc, f.kind = .atomic k sem sc →
    ∃ t, exec (.atomicPerformed c sl id ⟨ls, e⟩) s = .next t ∧ t.Landed c sl id ∧
      t.dev.mem = f.accs.foldl (fun m a => m.write a.pa (leBytes a.ty.size
        (atomVal k a.ty (BitVec.ofNat 64 (m.nat a.pa a.ty.size)) a.data a.swap).toNat)) s.dev.mem ∧
      (∀ x, (∀ a ∈ f.accs, ¬ (a.pa ≤ x ∧ x < a.pa + a.ty.size)) → t.dev.mem.get x = s.dev.mem.get x) ∧
      (∀ a p q n r m, f.accs = [a] → a.lane = 0 → tget st.paths p = some q → tget q.sc n = some r → r.pend = [(id, m)] →
        r.count ≠ some 0 → ∃ st' q' r', t.strandAt c sl = some st' ∧ tget st'.paths p = some q' ∧ tget q'.sc n = some r' ∧
          r.Filled r' [fit r.wide (widen a.ty (BitVec.ofNat 64 (s.dev.mem.nat a.pa a.ty.size)))])) ∧
  (f.kind = .flush → (∀ a ∈ f.accs, a.pa ≠ 2 ^ 200) →
    ∃ t, exec (.atomicPerformed c sl id ⟨ls, e⟩) s = .next t ∧ t.Landed c sl id ∧
      t.dev.mem = f.accs.foldl (fun m a => m.write a.pa (leBytes a.ty.size
        (combine a.op a.ty (BitVec.ofNat 64 (m.nat a.pa a.ty.size)) a.data).toNat)) s.dev.mem)

/-- `rflush` (R254) takes the strand's partials out of the atomic buffer, to be added to memory by one access on its counter; `pf.g`
and `pf.code` (R255) read their operands and change no byte of memory, and the block that `pf.code` can fetch is then in the
instruction buffer. -/
def Obligations.FlushPrefetchComplete : Prop :=
  (∀ (la k : Fin 16) (s : State) (foc : Nat × Nat × Nat), s.focus = some foc → s.canPost k.val = true → s.NoFlights →
    (∀ e ∈ s.ovfSlots s.partNo s.launch.ordinal, s.dev.slotPaused s.partNo e.1 = false) →
    ∃ t id f, exec (.rflush la k) s = .next t ∧ tget t.strand.flights id = some f ∧ f.kind = .flush ∧ f.ctr = some k.val ∧
      f.passed = true ∧ (f.accs.map fun a => (a.va, a.op, a.ty, a.data)) =
        (s.flush.partialsOf s.coreNo s.partNo s.asid s.launch.ordinal s.strand.launch s.strand.linear).map
          (fun x => (x.1, x.2.2.1, x.2.2.2.1, x.2.2.2.2)) ∧
      (∀ x ∈ t.core.abuf, ¬ (x.launch = s.strand.launch ∧ x.linear = s.strand.linear)) ∧
      (∀ n, t.path.get n = s.path.get n) ∧ t.path.masks = s.path.masks ∧ t.cohort.discardable = false) ∧
  (∀ (o : PfOp) (s : State), s.CanRead [(o.base, .n64), (o.index, .i32)] (s.path.mask o.mask) →
    ∃ t, exec (.pfG o) s = .next t ∧ (∀ n, t.path.get n = (s.afterReads [(o.base, .n64), (o.index, .i32)]).path.get n) ∧
      t.path.masks = s.path.masks ∧ t.path.lanes = s.path.lanes ∧ ∀ a, t.dev.mem.get a = s.dev.mem.get a) ∧
  (∀ (la : Fin 16) (b : Src) (s : State), s.CanRead [(b, .n64)] s.path.lanes →
    let a := s.val [(b, .n64)] 0 0
    ∃ t, exec (.pfCode la b) s = .next t ∧ (∀ n, t.path.get n = (s.afterReads [(b, .n64)]).path.get n) ∧
      t.path.masks = s.path.masks ∧ t.path.lanes = s.path.lanes ∧ t.dev = s.dev ∧
      match fetchBlock s.dev s.asid s.partNo a .done with
      | .ok (blk, _) => if a.toNat % 8 = 0 ∧ hdrMarker blk.hdr = 0x3F ∧ s.dev.newText s.asid s.path a = false
          then tget t.core.ibuf (codeKey s.asid a) = some blk
          else t.core.ibuf = s.core.ibuf
      | .error _ => t.core.ibuf = s.core.ibuf)

end

/-! ## Buffers and streams (R164 to R167, R189 to R194, R247 to R249) -/

namespace Sys2Proof.Machine

/-- A streaming operation: its sources in order, what is checked for alignment, and the A-buffer that its segments, one after another,
leave, from the values of its sources. -/
structure StreamForm where
  srcs : List AField
  checks : List Nat → List (Nat × BitVec 16 × Ty)
  run : List Nat → Cohort → Memory

/-- The segments of an operation on elements (R164 to R166): each reads all its inputs before it writes. -/
def streamRun (n : Nat) (dt st : Ty) (sd sa sb : BitVec 16) (f : Nat → Nat → Nat → Nat) (v : List Nat) (c : Cohort) : Memory :=
  (List.range n).foldl (fun m seg => sxStep m c.asize dt st (v.getD 0 0) (v.getD 1 0) (v.getD 2 0) sd sa sb f seg) c.a

def stream2 (o : SxOp) (f : Nat → Nat → Nat → Nat) : StreamForm :=
  ⟨[o.d, o.a, o.b], fun v => [(v.getD 0 0, o.sd, o.ty), (v.getD 1 0, o.sa, o.ty), (v.getD 2 0, o.sb, o.ty)],
    streamRun o.n.toNat o.ty o.ty o.sd o.sa o.sb f⟩

/-- A column of a streaming sum (R124): element j of every segment, in order. -/
def sumColumns (o : SxSumOp) (v : List Nat) (c : Cohort) : List Nat :=
  let row := fun seg => (List.range 32).map fun j => sxGet c.a c.asize o.ty (sxAddr o.ty (v.getD 1 0) o.sa seg j) j
  ((List.range o.n.toNat).drop 1).foldl (fun acc seg => List.zipWith (fAdd o.ty) acc (row seg)) (row 0)

inductive StreamIssue : Instr → StreamForm → Prop where
  | sxAdd (o : SxOp) : StreamIssue (.sxAdd o) (stream2 o fun a b _ => fAdd o.ty a b)
  | sxMul (o : SxOp) : StreamIssue (.sxMul o) (stream2 o fun a b _ => fMul o.ty a b)
  | sxFma (o : SxOp) : StreamIssue (.sxFma o) (stream2 o fun a b d => fFma o.ty a b d)
  | sxMax (o : SxOp) : StreamIssue (.sxMax o) (stream2 o fun a b _ => fMax o.ty a b)
  | sxMin (o : SxOp) : StreamIssue (.sxMin o) (stream2 o fun a b _ => fMin o.ty a b)
  | sxCvt (o : SxCvtOp) : StreamIssue (.sxCvt o) ⟨[o.d, o.a], fun v => [(v.getD 0 0, o.sd, o.dty), (v.getD 1 0, o.sa, o.sty)],
      fun v => streamRun o.n.toNat o.dty o.sty o.sd o.sa 0 (fun a _ _ => cvtFloat o.dty o.sty o.mode o.sat a) (v.take 2)⟩
  | sxExp2 (o : SxUnOp) : StreamIssue (.sxExp2 o) ⟨[o.d, o.a], fun v => [(v.getD 0 0, o.sd, o.ty), (v.getD 1 0, o.sa, o.ty)],
      fun v => streamRun o.n.toNat o.ty o.ty o.sd o.sa 0 (fun a _ _ => fnCode .exp2 o.ty a) (v.take 2)⟩
  | sxSum (o : SxSumOp) : StreamIssue (.sxSum o) ⟨[o.d, o.a], fun v => [(v.getD 0 0, 0, o.ty), (v.getD 1 0, o.sa, o.ty)],
      fun v c => sxPut c.a c.asize o.ty (v.getD 0 0 % 131072) 0 (sxTree o.ty (sumColumns o v c))⟩

def StreamForm.reads (f : StreamForm) : List (Src × Ty) := f.srcs.map fun x => (afSrc x, Ty.n64)

/-- A load from a buffer: its limit, how a logical address lies in it, its bytes, and what becomes of the cohort. -/
structure BufForm where
  limit : Nat
  phys : Nat → Nat
  read : Nat → Nat → Nat
  after : Cohort → Cohort

inductive BufIssue (s : State) : Instr → LoadOp → BufForm → Prop where
  | ldA (o : LoadOp) : BufIssue s (.ldA o) o ⟨s.cohort.asize, id, s.cohort.a.nat, id⟩
  | ldxA (o : LoadOp) : BufIssue s (.ldxA o) o ⟨s.cohort.asize, canonical, s.cohort.a.nat, id⟩
  | ldW (o : LoadOp) : BufIssue s (.ldW o) o ⟨s.cohort.wsize, canonical, s.cohort.w.nat, id⟩
  | crpeek (o : LoadOp) (n : Nat) (t : Tile) (h : s.cohort.oldestClosed = some (n, t)) :
      BufIssue s (.crpeek o) o ⟨t.bytes, id, t.nat, id⟩
  | crpop (o : LoadOp) (t : Tile) (h : tget s.cohort.tiles s.cohort.nextClaim = some t) (hc : t.closed = true) :
      BufIssue s (.crpop o) o ⟨t.bytes, id, t.nat, fun c => { c with tiles := tdel c.tiles c.nextClaim, nextClaim := c.nextClaim + 1 }⟩
  | crpeekNone (o : LoadOp) (h : s.cohort.oldestClosed = none) (hs : s.cohort.slots = 0) : BufIssue s (.crpeek o) o ⟨0, id, fun _ _ => 0, id⟩
  | crpopNone (o : LoadOp) (h : tget s.cohort.tiles s.cohort.nextClaim = none) (hs : s.cohort.slots = 0) :
      BufIssue s (.crpop o) o ⟨0, id, fun _ _ => 0, id⟩

/-- The sources of a load, and the address of a lane. -/
def loadSrcs (o : LoadOp) : List (Src × Ty) := [(o.base, .n64), (o.index, .i32)]
def State.loadAddr (s : State) (o : LoadOp) (l : Nat) : Nat :=
  (effAddr o.ty o.scaled o.disp (s.val (loadSrcs o) 0 l) (s.val (loadSrcs o) 1 l)).toNat

/-- The sources of a store, the address of a lane, and its lanes in order. -/
def storeSrcs (o : StoreOp) : List (Src × Ty) := [(nameSrc o.data, o.ty), (o.base, .n64), (o.index, .i32)]
def State.storeAddr (s : State) (o : StoreOp) (l : Nat) : Nat :=
  (effAddr o.ty o.scaled o.disp (s.val (storeSrcs o) 1 l) (s.val (storeSrcs o) 2 l)).toNat
def State.storeEn (s : State) (o : StoreOp) : LaneSet := if Name.isScalar o.data then s.path.lanes else s.path.mask o.mask
def State.storeLanes (s : State) (o : StoreOp) : List Nat :=
  if Name.isScalar o.data then (if s.storeEn o = 0 then [] else [0]) else lanesOf s.strand.width (s.storeEn o)

/-- A lane's address lies in a window, aligned (R191). -/
def inWindow (limit size a : Nat) : Prop := limit ≠ 0 ∧ a % size = 0 ∧ a < limit

/-- The stores to the A-buffer, with how a logical address lies in it. -/
inductive BufStore : Instr → StoreOp → (Nat → Nat) → Prop where
  | stA (o : StoreOp) : BufStore (.stA o) o id
  | stxA (o : StoreOp) : BufStore (.stxA o) o canonical

/-- What an instruction that acts on the strand's cohort leaves of everything else: names (its reads taken), masks, lanes, the
package, and the cohort but for what `after` says. -/
def State.ActsOnCohort (s t : State) (srcs : List (Src × Ty)) (after : Cohort → Cohort) : Prop :=
  (∀ n, t.path.get n = (s.afterReads srcs).path.get n) ∧ t.path.masks = s.path.masks ∧ t.path.lanes = s.path.lanes ∧ t.dev = s.dev ∧
  t.cohort = { after s.cohort with discardable := t.cohort.discardable } ∧ t.core.queues = s.core.queues ∧
  t.core.strands = s.core.strands ∧ t.clock = s.clock ∧ t.focus = s.focus

/-! ## Cohorts and queues (R142, R174 to R179, R295 to R308) -/

/-- The value of one scalar source of 32 bits. -/
def State.scVal (s : State) (x : SC) : Nat := natAt .n32 (s.val [(scSrc x, .n32)] 0 0)
def scSrcs (x : SC) : List (Src × Ty) := [(scSrc x, .n32)]

/-- What `tspawn` spawns: its sources, its lanes, and for each lane the words of the task's slot (R298): its entry and its record. -/
def spawnSrcs (e : Fin 64) (a : Name) : List (Src × Ty) := [(Src.scl e, Ty.n64), (nameSrc a, .n32)]
def State.spawnLanes (s : State) (m : Fin 16) : List Nat := lanesOf s.strand.width (s.path.mask m)
def State.spawnWords (s : State) (e : Fin 64) (a : Name) (l : Nat) : List Word :=
  taskWords s.cohort.a (s.val (spawnSrcs e a) 0 l) (natAt .n32 (s.val (spawnSrcs e a) 1 l))

/-- The queue that `qsend` and `qrecv` name, when it is a local one of the cohort. -/
def State.LocalQueue (s : State) (q : Fin 16) (x : Queue) : Prop := s.queue q = some x ∧ x.kind = 0

end Sys2Proof.Machine

section
open Sys2Proof Sys2Proof.Machine

/-- The streaming operations (R164 to R167): one issues where none runs on its core, once per path, and its reads are taken; its
window stays open while they run. Its segments, clock by clock from then on, leave their results in the A-buffer and change nothing
else, and with the last its path has it complete. A misaligned address or step raises ALIGN on every lane, with the address of the first
operand that is misaligned, in the order of the instruction's operands: the spec names the cause alone, and that address is the model's
reading (log entry 39). -/
def Obligations.StreamCompletes : Prop :=
  (∀ i f s, StreamIssue i f → s.strand.acquiring s.pathNo = false → s.core.stream = none → s.CanRead f.reads s.path.lanes →
    let v := (s.vals f.reads).map fun x => (x.at 0).toNat
    (sxMisaligned (f.checks v) = none → ∃ t, exec i s = .next t ∧ t.strand = s.strand ∧ s.ActsOnCohort t f.reads id ∧
      (sxCount i ≠ 0 → t.path.windowOpen = true) ∧ t.core.stream =
        if sxCount i = 0 then none else some ⟨s.slotNo, s.pathNo, s.strand.cohort, i, v, 0, s.clock, [], s.cohort.a⟩) ∧
    (∀ a, sxMisaligned (f.checks v) = some a → s.path.windowOpen = false → lanesOf s.strand.width s.path.lanes ≠ [] →
      ∃ t tr, exec i s = .next t ∧ t.path.trap = some tr ∧ t.path.status = .trapped ∧ tr.cause = 0x07 ∧ tr.fpc = s.path.pc ∧
        (∀ l ∈ lanesOf s.strand.width s.path.lanes, tget tr.faddr l = some (BitVec.ofNat 64 a)) ∧ t.cohort = s.cohort ∧
        t.dev = s.dev)) ∧
  (∀ i f (x : Stream) (c : Core) (h : Cohort) (till : Nat), StreamIssue i f → x.op = i → x.seg = 0 → x.acc = [] → c.stream = some x →
    tget c.cohorts x.key = some h → sxCount i ≠ 0 → x.clk + sxCount i * sxClocks i ≤ till →
    (c.runStream till).stream = none ∧ tget (c.runStream till).cohorts x.key = some { h with a := f.run x.vals h } ∧
    (∀ k, k ≠ x.key → tget (c.runStream till).cohorts k = tget c.cohorts k) ∧ (c.runStream till).strands =
      tmod c.strands x.slot fun st => { st with paths := tmod st.paths x.path Path.completeWindow })

/-- Loads from the A-buffer, the W-window and the C-ring (R194, R247 to R249): the record holds each lane's bytes, widened; the
unit on their counter is complete at once, and `crpop` releases the tile. `crpeek` reads the oldest closed tile, which one that a consumer
has claimed and not yet released still is: that is the model's reading of R249 (log entry 21). Where there is no tile to read they wait,
and where the cohort has no ring they have no window. On an address beyond the window every lane raises PROT, on a misaligned one ALIGN,
with no effect (R191). Stores to the A-buffer (R192, R247, R248): lanes in ascending order; every other byte of the window reads as before. -/
def Obligations.BufferCompletes : Prop :=
  (∀ i o s f, BufIssue s i o f → s.canPost o.k.val = true →
  s.CanRead (loadSrcs o) (s.enabled o.d o.mask) → (s.afterReads (loadSrcs o)).CanWrite o.d o.ty.wide →
  (∀ l ∈ lanesOf s.strand.width (s.enabled o.d o.mask), inWindow f.limit o.ty.size (s.loadAddr o l)) →
  ∃ t, exec i s = .next t ∧
    (s.afterReads (loadSrcs o)).path.Wrote t.path o.d o.ty.wide (destVals o.d o.ty.wide s.strand.width (s.enabled o.d o.mask)
      fun l => widen o.ty (BitVec.ofNat 64 (f.read (f.phys (s.loadAddr o l)) o.ty.size))) ∧
    t.cohort = { f.after s.cohort with discardable := t.cohort.discardable } ∧ t.path.masks = s.path.masks ∧ t.dev = s.dev ∧
    ((s.strand.counter o.k.val).units = [] → t.strand.outstanding o.k.val = 0) ∧ s.MovedOn t) ∧
  (∀ o s, s.cohort.slots ≠ 0 → (s.cohort.oldestClosed = none → exec (.crpeek o) s = .next s) ∧
    ((tget s.cohort.tiles s.cohort.nextClaim).all (fun x => !x.closed) = true → exec (.crpop o) s = .next s)) ∧
  (∀ i o s f, BufIssue s i o f → s.canPost o.k.val = true → s.path.windowOpen = false →
  s.CanRead (loadSrcs o) (s.enabled o.d o.mask) → (s.afterReads (loadSrcs o)).CanWrite o.d o.ty.wide →
  lanesOf s.strand.width (s.enabled o.d o.mask) ≠ [] →
  ofLanes (lanesOf s.strand.width (s.enabled o.d o.mask)) &&& s.path.lanes = s.path.lanes →
  ((∀ l ∈ lanesOf s.strand.width (s.enabled o.d o.mask), f.limit ≤ s.loadAddr o l ∧ s.loadAddr o l % o.ty.size = 0) →
    ∃ t tr, exec i s = .next t ∧ t.path.trap = some tr ∧ t.path.status = .trapped ∧ tr.cause = 0x09 ∧ tr.fpc = s.path.pc ∧
      t.cohort = s.cohort ∧ t.dev = s.dev ∧ ∀ n, t.path.get n = s.path.get n) ∧
  (f.limit ≠ 0 → (∀ l ∈ lanesOf s.strand.width (s.enabled o.d o.mask), s.loadAddr o l % o.ty.size ≠ 0) →
    ∃ t tr, exec i s = .next t ∧ t.path.trap = some tr ∧ t.path.status = .trapped ∧ tr.cause = 0x07 ∧ tr.fpc = s.path.pc ∧
      t.cohort = s.cohort ∧ t.dev = s.dev ∧ ∀ n, t.path.get n = s.path.get n)) ∧
  (∀ i o phys s, BufStore i o phys → s.canPost o.k.val = true →
  s.CanRead (storeSrcs o) (s.storeEn o) →
  (∀ l ∈ lanesOf s.strand.width (s.storeEn o), inWindow s.cohort.asize o.ty.size (s.storeAddr o l)) →
  ∃ t, exec i s = .next t ∧ s.ActsOnCohort t (storeSrcs o) (fun c => { c with a := (s.storeLanes o).foldl (fun m l =>
      m.write (phys (s.storeAddr o l)) (leBytes o.ty.size (s.val (storeSrcs o) 0 l).toNat)) c.a }) ∧
    (∀ x, (∀ l ∈ s.storeLanes o, ¬ (phys (s.storeAddr o l) ≤ x ∧ x < phys (s.storeAddr o l) + o.ty.size)) →
      t.cohort.a.get x = s.cohort.a.get x) ∧
    ((s.strand.counter o.k.val).units = [] → t.strand.outstanding o.k.val = 0) ∧ s.MovedOn t)

/-- `cattach` and `cdetach` (R142, R175): the tags named, and no others, become attached to the strand, or leave it; an attached
tag expects the strand's lanes that have not exited beside those it expected. `cgrow` (R176) asks for its strands and waits;
`cwidth` (R178) narrows the strand, its masks and its vector records, and raises ILLOP on a width it cannot take; `cprio` (R179)
gives the cohort the lesser of its operand and the launch's greatest priority, unless one of a higher slot has set it in that clock. -/
def Obligations.CohortCompletes : Prop :=
  (∀ (quad : Bool) (x : SC) (s : State), s.strand.idle = true →
  s.CanRead (scSrcs x) s.path.lanes →
  let l := if quad then Level.quad else Level.core
  let named := fun (k : Nat) => (BitVec.ofNat 8 (s.scVal x)).getLsbD k
  (∃ t, exec (.cattach quad x) s = .next t ∧ s.MovedOn t ∧ (∀ n, t.path.get n = (s.afterReads (scSrcs x)).path.get n) ∧
    ∀ k < 8, t.strand.attached l k = (s.strand.attached l k || named k) ∧
      (named k = true → s.strand.attached l k = false →
        (t.tag l k).expected = some ((s.tag l k).expected.getD 0 + s.strand.liveLanes)) ∧
      (named k = false → t.tag l k = s.tag l k)) ∧
  (∃ t, exec (.cdetach quad x) s = .next t ∧ s.MovedOn t ∧ (∀ n, t.path.get n = (s.afterReads (scSrcs x)).path.get n) ∧
    ∀ k < 8, t.strand.attached l k = (s.strand.attached l k && !named k) ∧
      (named k = false → t.tag l k = s.tag l k))) ∧
  (∀ (x : SC) (s : State), s.strand.idle = true → s.CanRead (scSrcs x) s.path.lanes →
  let n := s.scVal x
  (∀ d, (s.afterReads (scSrcs x)).CanWrite d false → ∃ t, exec (.cgrow d x) s = .next t ∧
    t.path.status = .grow d (n * 2 ^ 64 + s.clock) ∧ (∀ m, t.path.get m = (s.afterReads (scSrcs x)).path.get m) ∧ s.Quiet t) ∧
  (n % 32 = 0 → n ≠ 0 → n ≤ s.strand.width → s.strand.paths.length = 1 → s.path.lanes &&& allLanes n ≠ 0 →
    ∃ t, exec (.cwidth x) s = .next t ∧ t.strand.width = n ∧ t.path.lanes = s.path.lanes &&& allLanes n ∧
      t.path.masks = s.path.masks.map (fun m => (m.1, m.2 &&& allLanes n)) ∧
      ∀ m r, (s.afterReads (scSrcs x)).path.get (.vec m) = some r → ∃ r', t.path.get (.vec m) = some r' ∧
        r'.vals = r.vals.take n ∧ r'.count = r.count) ∧
  (n % 32 ≠ 0 ∨ n = 0 ∨ s.strand.width < n ∨ s.strand.paths.length ≠ 1 → s.path.windowOpen = false →
    ∃ t, exec (.cwidth x) s = .next t ∧ s.Raised t 0x01 0) ∧
  (∀ h, tget s.core.cohorts s.strand.cohort = some h → (∀ c sl, h.prioKey = some (c, sl) → c = s.clock → sl ≤ s.slotNo) →
    ∃ t, exec (.cprio x) s = .next t ∧ t.cohort.prio = min n s.launch.pmax ∧
    (∀ m, t.path.get m = (s.afterReads (scSrcs x)).path.get m) ∧ t.path.masks = s.path.masks ∧ s.MovedOn t))

/-- `rolesw` (R177): the strand, sole and idle, takes the role and goes to its entry with no record, mask or walker; with a queue
named it takes an element of it into s0, to be read once, and waits for one, its records freed, where there is none. A role beyond 3,
and a strand of more than one path, raise ILLOP. Stated of roles without live-ins. -/
def Obligations.RoleSwitchCompletes : Prop := ∀ (x : SC) (s : State) (foc : Nat × Nat × Nat), s.focus = some foc →
  s.strand.idle = true → s.NoFlights → s.CanRead (scSrcs x) s.path.lanes → s.path.windowOpen = false →
  (∀ r a, s.sole = true → s.scVal x ≤ 3 → s.launch.kernel.roles[s.scVal x]? = some r → r.entry = some a → r.argw = [] →
    (∃ t, exec (.rolesw x none) s = .next t ∧ t.strand.role = some (s.scVal x) ∧
      s.Arrives t a false fun p => p.v = [] ∧ p.sc = [] ∧ p.masks = [] ∧ p.walkers = []) ∧
    (∀ q qu, s.LocalQueue q qu → qu.occ ≠ 0 → qu.occ ≤ qu.cap → outOfTurn qu.acted s.clock s.slotNo = false →
      ∃ t y, exec (.rolesw x (some q)) s = .next t ∧
      t.strand.role = some (s.scVal x) ∧ tget t.core.queues q.val = some y ∧ y.occ = qu.occ - 1 ∧
      s.Arrives t a false fun p => p.v = [] ∧ p.masks = [] ∧ p.walkers = [] ∧ ∃ e, p.get (.scl 0) = some e ∧
        e.count = some 1 ∧ e.vals = [s.cohort.ringGet (qu.base + 4 * qu.head)]) ∧
    (∀ q qu, s.LocalQueue q qu → qu.occ = 0 → ∃ t, exec (.rolesw x (some q)) s = .next t ∧
      t.path.status = .roleWait (s.scVal x) q.val ∧ t.path.v = [] ∧ t.path.sc = [] ∧ t.path.masks = [] ∧ t.path.walkers = [] ∧
      t.core.queues = s.core.queues)) ∧
  (s.sole = false ∨ 3 < s.scVal x → ∀ q, ∃ t, exec (.rolesw x q) s = .next t ∧ s.Raised t 0x01 0)

/-- `qsend` and `qrecv` on a local queue, and `qsend.y` and `qrecv.y` (R305, R306): the element goes to the tail, or comes from
the head, unless a strand of a higher slot has taken one in the same clock already; a full or an empty queue makes the path wait where it
is, a slot that a take of this clock has freed being full still. Of a ring that runs past the cohort's window an element there reads as zero and is not written,
which is the model's choice (log entry 124). `qstat` and `qstat.cap` (R308): occupancy, the reserve and
error flags and the kind, or the capacity; a queue that is not the cohort's raises QUEUEERR. `qsend` and `qrecv` on a bridge of
the partition (R373, R374): one element at the end of its ring, or from its front, in the order of their clock (log entry 125). -/
def Obligations.QueueCompletes : Prop :=
  (∀ (y : Bool) (q : Fin 16) (s : State) (x : Queue), s.LocalQueue q x →
  s.strand.acquiring s.pathNo = false → s.CanRelease →
  (∀ a, s.CanRead (scSrcs a) s.path.lanes → x.fill s.clock < x.cap → ∀ foc, s.focus = some foc →
    ∃ t e, exec (.qsend y q a) s = .next t ∧ tget t.core.queues q.val = some e ∧ e.occ = x.occ + 1 ∧ e.tail = (x.tail + 1) % x.cap ∧
      e.head = x.head ∧ t.cohort.a = s.cohort.ringPut (x.base + 4 * x.tail) (BitVec.ofNat 64 (s.scVal a)) ∧
      (∀ m, t.path.get m = (s.afterReads (scSrcs a)).path.get m) ∧ t.path.masks = s.path.masks ∧ s.MovedOn t) ∧
  (∀ a, s.CanRead (scSrcs a) s.path.lanes → x.cap ≤ x.fill s.clock → ∃ t, exec (.qsend y q a) s = .next t ∧ t.path.pc = s.path.pc ∧
    t.path.blocked.isSome = true ∧ (∀ m, t.path.get m = s.path.get m) ∧ t.core = s.core ∧ t.dev = s.dev) ∧
  (∀ d, s.CanWrite d false → x.occ ≠ 0 → x.occ ≤ x.cap → outOfTurn x.acted s.clock s.slotNo = false → ∀ foc, s.focus = some foc →
    ∃ t e, exec (.qrecv y d q) s = .next t ∧ tget t.core.queues q.val = some e ∧ e.occ = x.occ - 1 ∧
      e.head = (x.head + 1) % x.cap ∧ e.tail = x.tail ∧ t.cohort.a = s.cohort.a ∧
      s.path.Wrote t.path d false (destVals d false s.strand.width s.path.lanes fun _ =>
        s.cohort.ringGet (x.base + 4 * x.head)) ∧ t.path.masks = s.path.masks ∧ s.MovedOn t) ∧
  (∀ d, x.occ = 0 → ∃ t, exec (.qrecv y d q) s = .next t ∧ t.path.pc = s.path.pc ∧ t.path.blocked.isSome = true ∧
    (∀ m, t.path.get m = s.path.get m) ∧ t.core = s.core ∧ t.dev = s.dev)) ∧
  (∀ (d : Dest) (q : Fin 16) (s : State),
  (∀ x, s.queue q = some x → x.kind ≠ 1 → s.CanWrite d false →
    (∃ t, exec (.qstat false d q) s = .next t ∧ s.path.Wrote t.path d false (destVals d false s.strand.width s.path.lanes fun _ =>
      BitVec.ofNat 64 (x.occ % 2 ^ 17 + (if x.reserve then 2 ^ 17 else 0) + (if s.queueErr x then 2 ^ 18 else 0) + 2 ^ 19 * x.kind)) ∧
      s.Quiet t ∧ s.MovedOn t) ∧
    (∃ t, exec (.qstat true d q) s = .next t ∧
      s.path.Wrote t.path d false (destVals d false s.strand.width s.path.lanes fun _ => BitVec.ofNat 64 x.cap) ∧
      s.Quiet t ∧ s.MovedOn t)) ∧
  (∀ cap, s.queue q = none → s.path.windowOpen = false → ∃ t, exec (.qstat cap d q) s = .next t ∧ s.Raised t 0x18 0)) ∧
  (∀ (y : Bool) (q : Fin 16) (s : State) (x : Queue) (b : Bridge)
    (foc : Nat × Nat × Nat), s.focus = some foc → s.queue q = some x → x.kind = 1 → s.dev.liveBridge x.base = some b →
  s.strand.acquiring s.pathNo = false → s.CanRelease →
  (∀ a, s.CanRead (scSrcs a) s.path.lanes → b.sentBy s.partNo = true → b.fill s.clock < b.cap →
    outOfTurn b.acted s.clock (s.bridgeRank false) = false → ∃ t, exec (.qsend y q a) s = .next t ∧
    tget t.dev.bridges x.base = some (b.sent s.clock (s.bridgeRank false) (BitVec.ofNat 64 (s.scVal a))) ∧
    (∀ m, t.path.get m = (s.afterReads (scSrcs a)).path.get m) ∧ t.dev.mem = s.dev.mem ∧ s.MovedOn t) ∧
  (∀ d v r, s.CanWrite d false → b.takenBy s.partNo = true → b.ring = v :: r →
    outOfTurn b.acted s.clock (s.bridgeRank true) = false → ∃ t, exec (.qrecv y d q) s = .next t ∧
    tget t.dev.bridges x.base = some (b.after s.clock (s.bridgeRank true) r) ∧
    s.path.Wrote t.path d false (destVals d false s.strand.width s.path.lanes fun _ => v) ∧ t.dev.mem = s.dev.mem ∧ s.MovedOn t))

/-- `tspawn` (R298, R307): a task for each enabled lane, in lane order, from the tail of the ring on: slot tail + i modulo the capacity, at
its place in the ring, holds the entry, zero and the record of the i-th lane, and of one that cannot be written nothing; the tail moves on by
their number at the target, here or on another device, and no other byte of memory changes. -/
def Obligations.TaskSpawnCompletes : Prop := ∀ (m q : Fin 16) (e : Fin 64) (a : Name) (s : State) (x : Queue) (foc : Nat × Nat × Nat),
  let lanes := s.spawnLanes m
  let tail := (s.taskRing x).tail
  let puts := taskPuts (s.slotsFrom x tail lanes.length) (lanes.map (s.spawnWords e a))
  s.focus = some foc → s.queue q = some x → x.kind = 2 → s.queueErr x = false → s.CanRead (spawnSrcs e a) (s.path.mask m) → s.CanRelease →
  (∀ l ∈ lanes, natAt .n32 (s.val (spawnSrcs e a) 1 l) % 32 = 0 ∧ natAt .n32 (s.val (spawnSrcs e a) 1 l) + 32 ≤ s.cohort.asize) →
  lanes.length ≤ x.cap - (tail - (s.taskRing x).head) → s.slotsPaused x tail lanes.length = false →
  ∃ t y, exec (.tspawn m q e a) s = .next t ∧ tget t.core.queues q.val = some y ∧ y.tail = tail + lanes.length ∧
    (t.taskRing x).tail = tail + lanes.length ∧
    (x.here = false → t.dev.fabricTails = s.dev.fabricTails ++ [(x.dev, x.core, tail + lanes.length)]) ∧
    t.dev.mem = puts.foldl (fun (mem : Memory) w => mem.write w.1 (leBytes 8 w.2.toNat)) s.dev.mem ∧
    (∀ i l pas, lanes[i]? = some l → s.slotPlaces x.ring x.cap (tail + i) = some pas →
      puts.Pairwise (fun v w => v.1 + 8 ≤ w.1 ∨ w.1 + 8 ≤ v.1) →
      ∀ (k pa : Nat) (w : Word), pas[k]? = some pa → (s.spawnWords e a l)[k]? = some w → t.dev.mem.nat pa 8 = w.toNat) ∧
    (∀ n, t.path.get n = (s.afterReads (spawnSrcs e a)).path.get n) ∧ t.path.masks = s.path.masks ∧ s.MovedOn t

end

/-! ## Fences, waits and barriers (R206, R256 to R270) -/

namespace Sys2Proof.Machine

/-- The arrival that the path makes at a tag. -/
def State.arrival (s : State) (waits : Bool) (votes : Nat) : Arrival where
  core := s.coreNo
  slot := s.slotNo
  path := s.pathNo
  lanes := s.path.lanes
  n := countLanes s.strand.width s.path.lanes
  drop := false
  waits := waits
  votes := votes

/-- A path can arrive at the tag at once: its strand is attached, none of its lanes stand in the phase, and no release has to wait. -/
def State.CanArrive (s : State) (l : Level) (t : Nat) : Prop :=
  s.counted l t = true ∧ s.podLive l = true ∧ (s.tag l t).holds s.coreNo s.slotNo s.path.lanes = false ∧
  s.strand.acquiring s.pathNo = false ∧ s.CanRelease

/-- The sources of a barrier, and the count it names. -/
def State.barCount (s : State) (n : Option SC) : Nat := natAt .n32 ((s.vals (nSrc n)).map (·.at 0) |>.getD 0 0)

/-- The levels at which tags are attached to. -/
def countedLevel (l : Level) : Prop := l = .core ∨ l = .quad

/-- An arrival-barrier instruction: its object, its other operands, whether it releases, and its events at the object. -/
structure AbarForm where
  a : SC
  ops : List SC
  rel : Bool
  act : List Nat → List AbEvent

inductive AbarIssue : Instr → AbarForm → Prop where
  | abinit (a n b : SC) : AbarIssue (.abinit a n b) ⟨a, [n, b], false, fun v => [.init (v.getD 0 0) (v.getD 1 0)]⟩
  | arriveOne (a : SC) : AbarIssue (.abarrive (.arrive a none)) ⟨a, [], true, fun _ => [.arrive 1]⟩
  | arriveMany (a c : SC) : AbarIssue (.abarrive (.arrive a (some c))) ⟨a, [c], true, fun v => [.arrive (v.getD 0 0)]⟩
  | arriveExpect (a b : SC) : AbarIssue (.abarrive (.expect a b)) ⟨a, [b], true, fun v => [.expect (v.getD 0 0), .arrive 1]⟩
  | abexpect (a b : SC) : AbarIssue (.abexpect a b) ⟨a, [b], false, fun v => [.expect (v.getD 0 0)]⟩

def AbarForm.srcs (f : AbarForm) : List (Src × Ty) := (f.a :: f.ops).map fun x => (scSrc x, Ty.n32)
/-- The address of the object, and the values of the other operands. -/
def State.abarAddr (s : State) (srcs : List (Src × Ty)) : Nat := natAt .n32 (s.val srcs 0 0)
def State.abarVals (s : State) (srcs : List (Src × Ty)) : List Nat := ((s.vals srcs).map fun x => natAt .n32 (x.at 0)).drop 1

end Sys2Proof.Machine

section
open Sys2Proof Sys2Proof.Machine

/-- `fence` (R206, R214, R220, R257): where no access of the path is in flight it performs the release, a new ordinal at its scope and
at every narrower one, and the acquire, which empties the L1 from quad on; a store of the path that is not performed holds a
`.sys` fence where it is. `seal` (R259) closes the open batch of its counter; `ifence` (R260) empties the instruction buffer, at
the end of its block and with no store of the path in flight, and the path may then fetch the text that was loaded before the last acquire of its core from quad on (R394, log entry 93);
elsewhere it raises ILLOP. -/
def Obligations.FenceSealIfenceComplete : Prop :=
  ((∀ (sc : Scope) (s : State) (foc : Nat × Nat × Nat), s.focus = some foc → s.CanRelease → ∃ t, exec (.fence sc) s = .next t ∧
    t.dev.mem = s.dev.mem ∧ s.path.SameNames t.path ∧ s.MovedOn t ∧ (sc ≠ .core → t.core.l1 = []) ∧ (sc = .core → t.core.l1 = s.core.l1) ∧
    (s.strand.o ≠ 2 ^ 48 - 1 → t.strand.o = s.strand.o + 1 ∧ ∀ i < 6, t.strand.lastRel.getD i 0 =
      if i ≤ scopeRank sc then s.strand.o + 1 else s.strand.lastRel.getD i 0)) ∧
  (∀ (s : State) (id : Nat) (f : Flight), s.strand.flights = [(id, f)] → f.kind.isStore = true → f.paths.contains s.pathNo = true →
    (∃ a ∈ f.accs, a.over = false) → id < s.uid → exec (.fence .sys) s = .next s)) ∧
  ((∀ (k : Fin 16) (s : State), ∃ t, exec (.seal k) s = .next t ∧ s.path.SameNames t.path ∧ t.dev = s.dev ∧ s.MovedOn t ∧
    ∀ u ∈ (t.strand.counter k.val).units, u.batch = true → u.open_ = false) ∧
  (∀ (s : State), s.path.atEnd = true → s.NoFlights → ∃ t, exec .ifence s = .next t ∧ t.core.ibuf = [] ∧ s.path.SameNames t.path ∧
    t.dev = s.dev ∧ t.strand = s.strand ∧ t.path.codeFrom = s.dev.loads ∧ t.path.codeOk = max s.path.codeOk s.core.synced) ∧
  (∀ (s : State), s.path.atEnd = false → s.path.windowOpen = false → ∃ t, exec .ifence s = .next t ∧ s.Raised t 0x01 0))

/-- `wait` and `waitall` (R258): they go on once the counter, or every counter, is low enough and no failure strikes the path, and
stay where they are before; a failed copy raises its cause on every lane of the path, with the copy error word. Stated of counters
without a collective wait at `.pod`, whose `wait` acquires too (R322). -/
def Obligations.WaitCompletes : Prop :=
  (∀ (k : Fin 16) (x : SC) (s : State), s.CanRead (scSrcs x) s.path.lanes →
    (∀ e ∈ s.strand.counters, e.1 = k.val → e.2.pod = false) →
    (s.strand.outstanding k.val ≤ s.scVal x → (∀ f ∈ s.strand.fails, f.ctr = k.val → f.strikes s.path = false) →
      ∃ t, exec (.wait k x) s = .next t ∧ (∀ n, t.path.get n = (s.afterReads (scSrcs x)).path.get n) ∧
        t.path.masks = s.path.masks ∧ s.Quiet t ∧ s.MovedOn t) ∧
    (s.scVal x < s.strand.outstanding k.val → exec (.wait k x) s = .next s) ∧
    (∀ f, s.strand.outstanding k.val ≤ s.scVal x → s.path.windowOpen = false → s.strand.fails = [f] → f.ctr = k.val → f.lanes = [] →
      ∃ t tr, exec (.wait k x) s = .next t ∧ t.path.trap = some tr ∧ t.path.status = .trapped ∧ tr.cause = f.cause ∧
        tr.fpc = s.path.pc ∧ (∀ l ∈ lanesOf s.strand.width s.path.lanes, tget tr.faddr l = some f.word) ∧ t.strand.fails = [] ∧
        ∀ n, t.path.get n = s.path.get n)) ∧
  (∀ (s : State), s.strand.idle = true → (∀ e ∈ s.strand.counters, e.2.pod = false) → (∀ f ∈ s.strand.fails, f.strikes s.path = false) →
    ∃ t, exec .waitall s = .next t ∧ s.path.SameNames t.path ∧ s.Quiet t ∧ s.MovedOn t) ∧
  (∀ (s : State), s.strand.idle = false → exec .waitall s = .next s)

/-- `bar`, `barv` and `bararr` (R262 to R264): the path's lanes arrive at the tag in its phase, `bar` and `barv` wait there; at the
levels from die on the first arrival of a phase sets the count. A strand that is not attached goes on, `barv` with 0. -/
def Obligations.BarrierCompletes : Prop := ∀ (s : State) (foc : Nat × Nat × Nat), s.focus = some foc →
  (∀ o : BarOp, s.CanRead (nSrc o.n) s.path.lanes → s.CanArrive o.level o.tag.val →
    (∃ t, exec (.bar o) s = .next t ∧ t.path.status = .barrier o.level o.tag.val (s.tag o.level o.tag.val).phases none ∧
      (∀ n, t.path.get n = (s.afterReads (nSrc o.n)).path.get n) ∧ t.dev.mem = s.dev.mem ∧
      ((o.level = .pod → s.podKey.isSome) → t.tag o.level o.tag.val =
        (s.tag o.level o.tag.val).arrive o.level (s.arrival true 0) (s.barCount o.n))) ∧
    (∃ t, exec (.bararr o) s = .next t ∧ s.MovedOn t ∧
      (∀ n, t.path.get n = (s.afterReads (nSrc o.n)).path.get n) ∧ t.dev.mem = s.dev.mem ∧
      ((o.level = .pod → s.podKey.isSome) → t.tag o.level o.tag.val =
        (s.tag o.level o.tag.val).arrive o.level (s.arrival false 0) (s.barCount o.n)))) ∧
  (∀ o : BarvOp, s.CanRead (nSrc o.n) s.path.lanes → s.CanArrive o.level o.tag.val → (s.afterReads (nSrc o.n)).CanWrite o.d false →
    ∃ t, exec (.barv o) s = .next t ∧ t.path.status = .barrier o.level o.tag.val (s.tag o.level o.tag.val).phases (some o.d) ∧
      (∀ n, t.path.get n = (s.afterReads (nSrc o.n)).path.get n) ∧ t.dev.mem = s.dev.mem ∧
      ((o.level = .pod → s.podKey.isSome) → t.tag o.level o.tag.val = (s.tag o.level o.tag.val).arrive o.level
        (s.arrival true (countLanes s.strand.width (s.path.mask o.ms))) (s.barCount o.n))) ∧
  (∀ o : BarOp, s.CanRead (nSrc o.n) s.path.lanes → s.counted o.level o.tag.val = false →
    ∃ t, exec (.bar o) s = .next t ∧ (∀ n, t.path.get n = (s.afterReads (nSrc o.n)).path.get n) ∧ s.Quiet t ∧ s.MovedOn t) ∧
  (∀ o : BarvOp, s.CanRead (nSrc o.n) s.path.lanes → s.counted o.level o.tag.val = false →
    (s.afterReads (nSrc o.n)).CanWrite o.d false → ∃ t, exec (.barv o) s = .next t ∧
      (s.afterReads (nSrc o.n)).path.Wrote t.path o.d false (destVals o.d false s.strand.width s.path.lanes fun _ => 0) ∧
      s.Quiet t ∧ s.MovedOn t) ∧
  (∀ l (k : Fin 8), s.counted l k.val = true → countedLevel l → (s.tag l k.val).holds s.coreNo s.slotNo s.path.lanes = false →
    ∃ t, exec (.bardrop l k) s = .next t ∧ s.path.SameNames t.path ∧ s.MovedOn t ∧ t.dev.mem = s.dev.mem ∧
      (t.tag l k.val).expected = (s.tag l k.val).expected.map (· - countLanes s.strand.width s.path.lanes))

/-- The completion test of a tag (R143, R263, R264): where the lanes arrived are those expected, the phase ends: its bit flips,
every waiting path is released after the level's delay with the sum of the votes, and the next phase has no arrival. Where they
are not, the phase goes on. At the end of a clock an arrival barrier takes the clock's events in their order, initialisations before
expectations before arrivals and posts, and is tested once (R269): with its arrivals and its bytes reached, and no error, the phase
flips, and arrivals, byte posts and expected bytes are zero again; otherwise it is as it was. An object initialised has the next
generation, and an error where its count is 0 or beyond 65,535 (R267); an expectation or an arrival that overflows its field sets the
error (R268). -/
def Obligations.BarrierTests : Prop :=
  (∀ (x : Tag) (l : Level) (clock : Nat) (again : Option Nat) (e : Nat), x.dirty = true →
  x.expected = some e →
  ((e ≠ 0 ∧ e = x.arrived ∧ countedLevel l) ∨ (e ≤ x.arrived ∧ ¬ countedLevel l) →
    (x.test l clock again).phase = !x.phase ∧ (x.test l clock again).arrivals = [] ∧ (x.test l clock again).expected = again ∧
    ∀ a ∈ x.arrivals, a.waits = true → ∃ r ∈ (x.test l clock again).releases, r.core = a.core ∧ r.slot = a.slot ∧ r.path = a.path ∧
      r.from_ = clock + levelDelay l ∧ r.votes = x.votes ∧ r.acq = true) ∧
  (x.arrived < e → (x.test l clock again).phase = x.phase ∧ (x.test l clock again).arrivals = x.arrivals ∧
    (x.test l clock again).expected = some e)) ∧
  ((∀ b : ABar, b.err = false → b.xarr ≤ b.aarr → b.xbytes ≤ b.abytes →
    b.test = { b with phase := !b.phase, aarr := 0, abytes := 0, xbytes := 0 }) ∧
  (∀ b : ABar, b.err = true ∨ b.aarr < b.xarr ∨ b.abytes < b.xbytes → b.test = b) ∧
  (∀ (b : ABar) (n k x c : Nat), (b.events [.arrive c, .expect x, .init n k]).1 = ((b.init n k).add x 0 0).add 0 c 0) ∧
  (∀ (c : Core) (key clock a : Nat) (h : Cohort), tget c.cohorts key = some h →
    ∃ h', tget (c.testAbar key clock a).cohorts key = some h' ∧
      h'.a = h.a.write a ((ABar.of h.a a).events (h.abEvents.filterMap fun e => if e.1 = a then some e.2 else none)).1.test.bytes ∧
      (∀ x, ¬ (a ≤ x ∧ x < a + 16) → h'.a.get x = h.a.get x) ∧ h'.abEvents = h.abEvents.filter (·.1 != a) ∧
      (∀ k, k ≠ key → tget (c.testAbar key clock a).cohorts k = tget c.cohorts k)) ∧
  (∀ (b : ABar) (n k : Nat), (b.init n k).gen = (b.gen + 1) % 256 ∧ (b.init n k).phase = false ∧ (b.init n k).xbytes = k ∧
    ((b.init n k).err = true ↔ n = 0 ∨ 65535 < n)) ∧
  (∀ (b : ABar) (x c k : Nat), b.err = true → b.add x c k = b) ∧
  (∀ (b : ABar) (x c k : Nat), 2 ^ 32 ≤ b.xbytes + x ∨ 2 ^ 16 ≤ b.aarr + c ∨ 2 ^ 32 ≤ b.abytes + k → (b.add x c k).err = true))

/-- BARRIER_RELEASE (R263): a path released from a tag, whose strand has no fragment, is ready behind the barrier, and a `barv`
has the sum of the votes in its destination. SLEEP_EXPIRY (R99) and INSERTED_DELAY_EXPIRY (R410): the path is ready again. -/
def Obligations.BarrierDelayReleases : Prop :=
  (∀ (s u : State) (p : PRef) (l : Level) (t ph : Nat) (d : Option Dest) (r : Release),
  s.load p.core p.slot p.path = some u → u.path.status = .barrier l t ph d → (l = .pod → u.podKey.isSome) →
  ((u.tag l t).releases.find? fun r => r.core == p.core && r.slot == p.slot && r.path == p.path && r.phase == ph) = some r →
  r.from_ ≤ u.clock → u.path.window = none → (∀ q ∈ u.paths, q.2.frag = 0) →
  (u.paths.filter fun q => q.1 == p.path).length = 1 → u.path.atEnd = false →
  ∃ v, exec (.barrierRelease p) s = .next v ∧ v.path.status = .ready ∧ v.path.pc = u.path.nextPc ∧ v.dev.mem = u.dev.mem ∧
    (d = none → ∀ n, v.path.get n = u.path.get n) ∧
    (∀ dd, d = some dd → u.path.Wrote v.path dd false (destVals dd false u.strand.width u.path.lanes fun _ => BitVec.ofNat 64 r.votes))) ∧
  (∀ (s u : State) (p : PRef), s.load p.core p.slot p.path = some u →
  (∀ till, u.path.status = .sleep till → till ≤ u.clock → u.path.window = none → u.path.atEnd = false →
    ∃ t, exec (.sleepExpiry p) s = .next t ∧ t.path.status = .ready ∧ t.path.pc = u.path.nextPc ∧ u.path.SameNames t.path ∧
      t.dev = u.dev) ∧
  (u.path.hold ≤ u.clock → ∃ t, exec (.insertedDelayExpiry p) s = .next t ∧ t.path.hold = 0 ∧ u.path.SameNames t.path ∧
    t.path.pc = u.path.pc ∧ t.dev = u.dev))

/-- Arrival barriers (R265 to R268): the events wait at the object for the end of the clock, behind those that wait there already, and
every byte of the A-buffer reads as before until then. An address that is no multiple of 16 raises ALIGN, one beyond the buffer PROT. -/
def Obligations.ArrivalBarrierCompletes : Prop := ∀ i f s (foc : Nat × Nat × Nat), AbarIssue i f → s.focus = some foc →
  s.CanRead f.srcs s.path.lanes →
  let a := s.abarAddr f.srcs
  (a % 16 = 0 → a + 16 ≤ s.cohort.asize → (f.rel = true → s.CanRelease) →
    ∃ t, exec i s = .next t ∧ t.cohort.abEvents = s.cohort.abEvents ++ (f.act (s.abarVals f.srcs)).map (fun e => (a, e)) ∧
      t.cohort.a = s.cohort.a ∧
      (∀ n, t.path.get n = (s.afterReads f.srcs).path.get n) ∧ t.path.masks = s.path.masks ∧ t.dev.mem = s.dev.mem ∧ s.MovedOn t) ∧
  (a % 16 ≠ 0 → s.path.windowOpen = false → ∃ t tr, exec i s = .next t ∧ t.path.trap = some tr ∧ tr.cause = 0x07 ∧
    tr.fpc = s.path.pc ∧ t.cohort = s.cohort ∧ t.dev = s.dev) ∧
  (a % 16 = 0 → s.cohort.asize < a + 16 → s.path.windowOpen = false → ∃ t tr, exec i s = .next t ∧ t.path.trap = some tr ∧
    tr.cause = 0x09 ∧ tr.fpc = s.path.pc ∧ t.cohort = s.cohort ∧ t.dev = s.dev)

/-- `abwait` and ABWAIT_RELEASE (R267, R270): it goes on where the phase is not the one asked about, waits where it is, and raises
ABERR on an object in error. A path that waits goes on 4 clocks after the first test that found the phase flipped, with its reads
taken, and takes BARINIT where the object was initialised meanwhile, ABERR where it came into error. -/
def Obligations.ArrivalWaitCompletes : Prop :=
  (∀ (a p : SC) (s : State), let srcs := [(scSrc a, Ty.n32), (scSrc p, Ty.n32)]
    let b := ABar.of s.cohort.a (s.abarAddr srcs)
    let par := (s.abarVals srcs).getD 0 0 % 2 = 1
    s.CanRead srcs s.path.lanes → s.abarAddr srcs % 16 = 0 → s.abarAddr srcs + 16 ≤ s.cohort.asize →
    s.strand.acquiring s.pathNo = false →
    (∀ foc, s.focus = some foc → s.NoFlights → b.err = false → b.phase ≠ decide par → ∃ t, exec (.abwait a p) s = .next t ∧
      (∀ n, t.path.get n = (s.afterReads srcs).path.get n) ∧ t.path.masks = s.path.masks ∧ t.dev.mem = s.dev.mem ∧
      t.cohort.a = s.cohort.a ∧ s.MovedOn t) ∧
    (b.err = false → b.phase = decide par → ∃ t names, exec (.abwait a p) s = .next t ∧
      t.path.status = .abwait (s.abarAddr srcs) (decide par) b.gen names none ∧ (∀ n, t.path.get n = s.path.get n) ∧ s.Quiet t) ∧
    (b.err = true → s.path.windowOpen = false → ∃ t, exec (.abwait a p) s = .next t ∧ s.Raised t 0x0F 0)) ∧
  (∀ (p : Path) (addr gen clock : Nat) (par : Bool) (names : List Name) (due : Option (Nat × Nat)) (b : ABar),
    p.status = .abwait addr par gen names due →
    (b.gen ≠ gen → (p.abTested addr b clock).status = .abwait addr par gen names (some (clock, 0x0E))) ∧
    (b.gen = gen → b.err = true → (p.abTested addr b clock).status = .abwait addr par gen names (some (clock, 0x0F))) ∧
    (b.gen = gen → b.err = false → b.phase ≠ par → due = none →
      (p.abTested addr b clock).status = .abwait addr par gen names (some (clock + 4, 0))) ∧
    (b.gen = gen → b.err = false → b.phase = par ∨ due ≠ none → p.abTested addr b clock = p)) ∧
  (∀ (s u : State) (r : PRef) (addr gen from_ cause : Nat) (par : Bool) (names : List Name), s.load r.core r.slot r.path = some u →
    u.path.status = .abwait addr par gen names (some (from_, cause)) → from_ ≤ u.clock →
    (cause = 0 → u.NoFlights → u.path.window = none → u.path.atEnd = false →
      ∃ t, exec (.abwaitRelease r) s = .next t ∧ t.path.status = .ready ∧ t.path.pc = u.path.nextPc ∧
        (∀ n, t.path.get n = (u.path.takeReads names).get n) ∧ t.dev.mem = u.dev.mem) ∧
    (cause ≠ 0 → u.path.windowOpen = false → u.path.redo = none →
      ∃ t, exec (.abwaitRelease r) s = .next t ∧ u.Raised t cause 0))

/-- TRAP_ENTRY (R339, R340): the path that is entered next, its stores performed, is in handler mode at the handler's block, or waits
for it, or for the last word that the check of its header needs; its names, masks and lanes are as they were, and its trap gives the handler's registers. `tret` (R39, R96): after a fault the
path is back at the faulting instruction, with the done bits of its window, and after `trap` or `break` it goes on with the instruction
that follows, or to the header behind its block where it ends that (R33), which `tret.skip` does there too; it has left the handler. -/
def Obligations.TrapsEnterReturn : Prop :=
  (∀ (s u : State) (c sl id : Nat) (st : Strand) (tr : Trap),
  s.flush.strandAt c sl = some st → nextTrap st.paths = some id → s.flush.load c sl id = some u → u.path.trap = some tr →
  u.strand.trapFrom ≤ u.clock → (∀ f ∈ u.strand.flights, f.2.kind.isStore = false) →
  ∀ h, u.path.handler = none → u.launch.kernel.trap = some h → ∃ t, exec (.trapEntry c sl) s = .next t ∧
    t.path.lanes = u.path.lanes ∧ t.path.v = u.path.v ∧ t.path.sc = u.path.sc ∧ t.path.masks = u.path.masks ∧
    match u.buffered h with
    | none => t.path.handler = some tr ∧ t.path.trap = none ∧ ∃ o v, t.path.status = .fetch h false o v
    | some b => b.valid = true → t.path.handler = some tr ∧ t.path.trap = none ∧
        if b.untested = true then ∃ o v, t.path.status = .fetch h false o v
        else t.path.status = .ready ∧ t.path.blk = b ∧ t.path.pc = b.base + 8) ∧
  (∀ (s : State) (tr : Trap), s.path.handler = some tr → s.path.windowOpen = false → tr.blk.covers tr.fpc = true →
    tr.cause ≠ 0x14 → tr.cause ≠ 0x15 → ∃ t, exec (.tret false) s = .next t ∧ t.path.handler = none ∧ t.path.pc = tr.fpc ∧
      t.path.blk = tr.blk ∧ t.path.status = .ready ∧ t.path.window = tr.rest ∧
      t.path.redo = some ⟨tr.fpc, tr.fdone &&& BitVec.ofNat 32 (2 ^ tr.win - 1), tr.win⟩ ∧ t.path.v = s.path.v ∧ t.path.sc = s.path.sc) ∧
  (∀ (s : State) (tr : Trap) (w : Word) (skip : Bool), s.path.handler = some tr → s.path.windowOpen = false → s.path.window = none →
    tr.blk.wordAt tr.fpc = some w → (tr.cause = 0x14 ∨ tr.cause = 0x15) → tr.fpc + BitVec.ofNat 64 (8 * wordLen w) ≠ tr.blk.stop →
    ∃ t, exec (.tret skip) s = .next t ∧ t.path.handler = none ∧ t.path.pc = tr.fpc + BitVec.ofNat 64 (8 * wordLen w) ∧
      t.path.blk = tr.blk ∧ t.path.status = .ready ∧ t.path.v = s.path.v ∧ t.path.sc = s.path.sc) ∧
  (∀ (s : State) (tr : Trap) (w : Word) (skip : Bool), s.path.handler = some tr → s.path.windowOpen = false → s.path.window = none →
    tr.blk.wordAt tr.fpc = some w → (tr.cause = 0x14 ∨ tr.cause = 0x15) → tr.fpc + BitVec.ofNat 64 (8 * wordLen w) = tr.blk.stop →
    ∃ t, exec (.tret skip) s = .next t ∧
      s.Arrives t tr.blk.stop false fun p => p.handler = none ∧ p.v = s.path.v ∧ p.sc = s.path.sc)

end

/-! ## Engine commands (R275 to R294, R300 to R322) -/

namespace Sys2Proof.Machine

/-- Counted names whose values a command takes can be read on the lanes given. -/
structure State.CanTake (s : State) (ns : List Name) (en : LaneSet) : Prop where
  reads : s.path.hasReads ns = true
  present : s.path.present ns = true
  faults : s.path.laneFaults ns s.strand.width en = []

/-- What acceptance of a command leaves: its reads taken, and masks, lanes, the memory and the clock as they were. -/
def State.Took (s t : State) (ns : List Name) : Prop :=
  (∀ n, t.path.get n = (s.path.takeReads ns).get n) ∧ t.path.masks = s.path.masks ∧ t.path.lanes = s.path.lanes ∧
  t.dev.mem = s.dev.mem ∧ t.clock = s.clock

/-- One unit more on a counter, and no other counter changed. -/
def State.Posted (s t : State) (k : Fin 16) : Prop :=
  t.strand.outstanding k.val = s.strand.outstanding k.val + 1 ∧
  ∀ j : Fin 16, j ≠ k → t.strand.counter j.val = s.strand.counter j.val

/-! ### Copies -/

inductive CopyIssue : Instr → CopyOp → Nat → Prop where
  | cpy (o : CopyOp) : CopyIssue (.cpy o) o 0
  | cpyMc (o : CopyOp) : CopyIssue (.cpyMc o) o 1
  | cpyst (o : CopyOp) : CopyIssue (.cpyst o) o 2
  | cpyfill (o : CopyOp) : CopyIssue (.cpyfill o) o 3

def copyNames (o : CopyOp) : List Name :=
  fieldNames (o.addr.toList ++ o.abar.toList) ++ (o.co.toList ++ o.ch.toList).map Name.scl ++ fieldNames o.side.toList

/-- A copy as its slice describes it (R309 to R313). -/
def State.copyDesc (s : State) (kind : Nat) (o : CopyOp) : CopyDesc where
  kind := kind
  rows := o.rows.toNat + 1
  wbuf := o.buf = 1
  handle := o.handle.toNat
  addr := (o.addr.map s.field).getD 0
  abar := o.abar.map s.field
  side := o.side.map s.field
  recv := o.recv
  co := match o.co with | some a => s.peek a | none => 0
  ch := match o.ch with | some a => s.peek a | none => 0

/-- Its tensor record, when it is valid for the path's address space (R277). -/
def State.tensorOf (s : State) (h : Nat) : Option Tensor := (tget s.dev.asids s.asid).bind fun a => tensorAt s.dev.mem a s.asid h

/-- There is room for the slice: on its counter, and in the channel or the copy that it joins (R242, R276, R283). -/
def State.SliceRoom (s : State) (o : CopyOp) : Prop :=
  s.copyRoom o.k.val = true ∧
  match (s.core.chan o.chan.toNat).queue.find? fun y => y.collects s.strand.cohort (o.slices.toNat + 1) with
  | some y => y.slices.any (·.index == o.slice.toNat) = false
  | none => (s.core.chan o.chan.toNat).queue.length < 16

/-- Its origin, its scales and its window are as R279 and R312 ask. -/
def State.CopyFits (s : State) (kind : Nat) (d : CopyDesc) (tn : Tensor) : Prop :=
  let cr := kind = 2 ∧ d.wbuf = true
  let win := if d.wbuf && kind != 2 then s.cohort.wsize else s.cohort.asize
  originOk kind tn (origin d.co d.ch) = true ∧ d.side.isSome = (tn.layout == 2) ∧ (cr → s.cohort.slots ≠ 0) ∧
  (¬ cr → d.addr % 128 = 0 ∧ d.addr + 128 * d.rows ≤ win) ∧
  (∀ a, d.abar = some a → a % 16 = 0 ∧ a + 16 ≤ s.cohort.asize) ∧
  (∀ a, d.side = some a → a % 8 = 0 ∧ a + 16 * d.rows ≤ s.cohort.asize)

/-- The scales and the specials of a row beside it (R281): eight of each, in the A-buffer of the issuing core. -/
def Copy.putSide (x : Copy) (side : Option (List Byte × List Byte)) (m : Memory) : Memory :=
  match side, x.desc.side with
  | some (sc, sp), some a => (m.write (a + 8 * x.row) sc).write (a + 8 * x.desc.rows + 8 * x.row) sp
  | _, _ => m

/-- The byte post of a row at one receiver (R284): all that is not posted yet, after every 1,024 bytes and after the last row. -/
def Copy.rowPost (x : Copy) (p : Nat) : List (Nat × AbEvent) :=
  match x.desc.abar with
  | some b => if 128 * (x.row + 1) % 1024 = 0 ∨ x.row + 1 = x.desc.rows
      then [(b, .post (128 * (x.row + 1) - x.posted) (tget x.gens p))] else []
  | none => []

/-- Bytes that one row of a copy out writes: where, which of its bits, and the value (R281). -/
def putBytes (ws : List (Nat × Nat × Byte)) (ts : List Trans) (m : Memory) : Memory :=
  (ws.zip ts).foldl (fun m b =>
    m.write b.2.pa [((m.get b.2.pa) &&& ~~~(BitVec.ofNat 8 b.1.2.1)) ||| (b.1.2.2 &&& BitVec.ofNat 8 b.1.2.1)]) m

/-! ### The matrix engine, the epilogue and collectives -/

inductive AccIssue : Instr → AccOp → MKind → Prop where
  | mcl (o : AccOp) : AccIssue (.mcl o) o .close
  | mclr (o : AccOp) : AccIssue (.mclr o) o .clear
  | mrd (o : AccOp) : AccIssue (.mrd o) o .read

def mmaPair (x : Option (Fin 128 × Fin 128)) : List Name := match x with | some (a, b) => [.vec a, .vec b] | none => []
def mmaNames (o : MmaOp) : List Name := fieldNames ([o.aaddr, o.baddr] ++ o.idx.toList) ++ mmaPair o.scales ++ mmaPair o.specials
def State.pairWords (s : State) (x : Option (Fin 128 × Fin 128)) (snd : Bool) : List Word :=
  match x with | some (p, q) => s.laneWords (if snd then q else p) | none => []

/-- The operands of an `mma` lie in their windows (R316). -/
def State.OperandsFit (s : State) (o : MmaOp) : Prop :=
  (match o.idx with
    | none => s.field o.aaddr % 1024 = 0 ∧ s.field o.aaddr + 16384 ≤ s.cohort.asize
    | some i => s.field o.aaddr % 128 = 0 ∧ s.field o.aaddr + 128 ≤ s.cohort.asize ∧ s.field i % 256 = 0 ∧
        s.field i + 256 ≤ s.cohort.asize) ∧
  s.field o.baddr % 1024 = 0 ∧ s.field o.baddr + 16384 ≤ s.cohort.wsize

/-- The entry is in the quad's reservation table behind those posted before it, commands of one clock by core position (R288), and the
rest of the quad is as it was. -/
def State.Reserved (s t : State) (k : Fin 16) (acc : Nat) (kind : MKind) : Prop :=
  ∃ id e older younger, s.quadHere.entries = older ++ younger ∧
    t.quadHere = { s.quadHere with entries := older ++ (id, e) :: younger } ∧
    (∀ x ∈ older, e.posted = x.2.posted → posOf x.2.core ≤ posOf e.core) ∧
    (∀ x y, younger = x :: y → e.posted = x.2.posted ∧ posOf e.core < posOf x.2.core) ∧
    e.posted = s.clock ∧ e.kind = kind ∧ e.acc = acc ∧
    e.core = s.coreNo ∧ e.cohort = s.strand.cohort ∧ e.slot = s.slotNo ∧ e.ctr = k.val ∧ e.started = none ∧
    ∃ u ∈ (t.strand.counter k.val).units, u.id = e.unit

/-- The engine commands that need the whole mask (R275, R301). -/
inductive MaskedCommand (s : State) : Instr → Prop where
  | acc (i : Instr) (o : AccOp) (kind : MKind) (h : AccIssue i o kind) (hr : s.engineRoom o.k = true) (he : s.entryRoom = true)
      (hm : s.wholeMask o.mask = false) : MaskedCommand s i
  | mma (o : MmaOp) (ht : s.CanTake (mmaNames o) (s.path.lanes &&& allLanes 128)) (hr : s.engineRoom o.k = true)
      (he : s.entryRoom = true) (hm : s.wholeMask o.mask = false) : MaskedCommand s (.mma o)
  | epi (la mask k : Fin 16) (hr : s.engineRoom k = true) (he : s.core.epis.length < 4) (hm : s.wholeMask mask = false) :
      MaskedCommand s (.epi la mask k)
  | copy (i : Instr) (o : CopyOp) (kind : Nat) (h : CopyIssue i o kind) (ht : s.CanTake (copyNames o) s.path.lanes)
      (hd : ({ s with path := s.path.takeReads (copyNames o) } : State).CanWrite o.d true) (hr : s.SliceRoom o)
      (hm : s.wholeMask o.mask = false) : MaskedCommand s i
  | epicfg (o : EpicfgOp) (ht : s.CanTake (fieldNames ([o.scale, o.bias, o.dest] ++ o.side.toList)) s.path.lanes)
      (ha : s.strand.acquiring s.pathNo = false) (hm : s.wholeMask o.mask = false) : MaskedCommand s (.epicfg o)
  | coll (o : CollOp) (ht : s.CanTake ([Name.scl o.dst, .scl o.src] ++ ([o.count, o.group].filterMap scName)) s.path.lanes)
      (hr : s.engineRoom o.k = true) (hg : ∀ g, s.part.group (s.scNat o.group) = some g → g.held < 8)
      (hm : s.wholeMask o.mask = false) : MaskedCommand s (.coll o)
  | collwait (la mask k : Fin 16) (x : SC) (ht : s.CanTake (scName x).toList s.path.lanes) (hr : s.engineRoom k = true)
      (hm : s.wholeMask mask = false) : MaskedCommand s (.collwait la mask k x)

end Sys2Proof.Machine

section
open Sys2Proof Sys2Proof.Machine

/-- `cpy`, `cpy.mc`, `cpyst` and `cpyfill` (R283, R302, R309 to R313): a slice with its description stands in its channel, on the open
batch of its counter, and its destination waits for the channel's write pointer. -/
def Obligations.CopyIssues : Prop := ∀ i o kind s (foc : Nat × Nat × Nat) (tn : Tensor), CopyIssue i o kind → s.focus = some foc →
  s.CanTake (copyNames o) s.path.lanes → ({ s with path := s.path.takeReads (copyNames o) } : State).CanWrite o.d true →
  s.SliceRoom o → s.wholeMask o.mask = true → s.tensorOf o.handle.toNat = some tn → s.CopyFits kind (s.copyDesc kind o) tn →
  (kind = 1 → o.slice = 0 → ∀ p ∈ (s.copyDesc kind o).receivers s.coreNo, 4 * quadOf s.coreNo + p ≠ s.coreNo →
    (s.cohortAt (4 * quadOf s.coreNo + p) s.strand.cohort).isSome = true) →
  ∃ t y x u, exec i s = .next t ∧ y ∈ (t.core.chan o.chan.toNat).queue ∧ y.cohort = s.strand.cohort ∧ y.started = false ∧
    x ∈ y.slices ∧ x.desc = s.copyDesc kind o ∧ x.index = o.slice.toNat ∧ x.slot = s.slotNo ∧ x.ctr = o.k.val ∧
    (o.slice = 0 → y.tensor = tn) ∧ u ∈ (t.strand.counter o.k.val).units ∧ u.id = x.unit ∧ u.batch = true ∧ u.open_ = true ∧
    (∀ n c, destName o.d = some (n, c) → ∃ r, t.path.get n = some r ∧ r.pend = [(x.flight, 1)] ∧ r.count = countOf c) ∧
    (∀ n, (∀ c, destName o.d ≠ some (n, c)) → t.path.get n = (s.path.takeReads (copyNames o)).get n) ∧
    t.path.masks = s.path.masks ∧ t.dev.mem = s.dev.mem

/-- `mma` (R288, R314 to R316): an entry with its operands' addresses and its per-lane words. `mcl`, `mclr` and `mrd` (R288,
R317). -/
def Obligations.MatrixCommandIssues : Prop :=
  (∀ (o : MmaOp) (s : State), s.CanTake (mmaNames o) (s.path.lanes &&& allLanes 128) →
  s.engineRoom o.k = true → s.entryRoom = true → s.wholeMask o.mask = true → 128 ≤ s.strand.width →
  s.mmaOk o.acc.toNat (o.aty == .f64) = true → s.OperandsFit o →
  ∃ t, exec (.mma o) s = .next t ∧ s.Took t (mmaNames o) ∧ s.Posted t o.k ∧
    s.Reserved t o.k o.acc.toNat (.mma o (s.field o.aaddr) (s.field o.baddr) (o.idx.map s.field) (s.pairWords o.scales false)
      (s.pairWords o.scales true) (s.pairWords o.specials false) (s.pairWords o.specials true))) ∧
  (∀ i o kind s, AccIssue i o kind → s.engineRoom o.k = true → s.entryRoom = true →
  s.wholeMask o.mask = true → s.accOk o.acc.toNat = true →
  ∃ t, exec i s = .next t ∧ s.Took t [] ∧ s.Posted t o.k ∧ s.Reserved t o.k o.acc.toNat kind)

/-- `epicfg` and `epi` (R293, R318, R319): the cohort's configuration, and a command that takes the next tile of the ring. `coll`
and `collwait` (R294, R320 to R322): the command is the last of its group's sequence at this member; a misaligned destination or
source of a `coll` raises ALIGN, with that address. -/
def Obligations.EpilogueCollectiveIssue : Prop :=
  ((∀ (o : EpicfgOp) (s : State), let ns := fieldNames ([o.scale, o.bias, o.dest] ++ o.side.toList)
    let c : EpiCfg := ⟨o.oty, o.act, s.field o.scale, s.field o.bias, s.field o.dest, (o.side.map s.field).getD 0⟩
    s.CanTake ns s.path.lanes → s.strand.acquiring s.pathNo = false → s.wholeMask o.mask = true →
    c.scale % 4 = 0 → c.scale + 512 ≤ s.cohort.asize → c.bias % 4 = 0 → c.bias + 512 ≤ s.cohort.asize →
    c.dest % 1024 = 0 → c.dest + 128 * outRow o.oty ≤ s.cohort.asize →
    (o.side.isSome = true → c.side % 4 = 0 ∧ c.side + (if o.oty = .e2m1 then 1024 else 512) ≤ s.cohort.asize) →
    ∃ t, exec (.epicfg o) s = .next t ∧ s.Took t ns ∧ t.strand = s.strand ∧
      t.cohort = { s.cohort with epicfg := some c, discardable := t.cohort.discardable }) ∧
  (∀ (la mask k : Fin 16) (s : State) (c : EpiCfg), s.engineRoom k = true → s.core.epis.length < 4 → s.wholeMask mask = true →
    s.cohort.epicfg = some c → s.cohort.slots ≠ 0 →
    ∃ t x, exec (.epi la mask k) s = .next t ∧ s.Took t [] ∧ s.Posted t k ∧ t.core.epis = s.core.epis ++ [x] ∧ x.cfg = c ∧
      x.tile = s.cohort.nextClaim ∧ x.cohort = s.strand.cohort ∧ x.slot = s.slotNo ∧ x.started = none ∧
      t.cohort = { s.cohort with nextClaim := s.cohort.nextClaim + 1, discardable := t.cohort.discardable })) ∧
  ((∀ (o : CollOp) (s : State) (g : Group), let ns := [Name.scl o.dst, .scl o.src] ++ ([o.count, o.group].filterMap scName)
    s.CanTake ns s.path.lanes → s.part.group (s.scNat o.group) = some g → s.engineRoom o.k = true → g.held < 8 →
    s.wholeMask o.mask = true → g.die = dieOf s.coreNo →
    ((s.peek o.dst).toNat % o.ty.size = 0 → (s.peek o.src).toNat % o.ty.size = 0 →
      ∃ t c, exec (.coll o) s = .next t ∧ s.Took t ns ∧ s.Posted t o.k ∧
        t.part.group (s.scNat o.group) = some { g with queue := g.queue ++ [c], pos := g.pos + 1 } ∧ c.wait = false ∧ c.kind = o.kind ∧
        c.ty = o.ty ∧ c.dst = s.peek o.dst ∧ c.src = s.peek o.src ∧ c.count = s.scNat o.count ∧ c.pos = g.pos) ∧
    (∀ a, a = (if (s.peek o.dst).toNat % o.ty.size = 0 then s.peek o.src else s.peek o.dst) → a.toNat % o.ty.size ≠ 0 →
      s.path.windowOpen = false → ∃ t tr, exec (.coll o) s = .next t ∧ t.path.trap = some tr ∧
      tr.cause = 0x07 ∧ tr.fpc = s.path.pc ∧ (∀ l ∈ lanesOf s.strand.width s.path.lanes, tget tr.faddr l = some a) ∧
      t.dev = s.dev ∧ t.strand = s.strand)) ∧
  (∀ (la mask k : Fin 16) (x : SC) (s : State) (g : Group), s.CanTake (scName x).toList s.path.lanes →
    s.part.group (s.scNat x) = some g → s.engineRoom k = true → s.wholeMask mask = true → g.die = dieOf s.coreNo →
    ∃ t c, exec (.collwait la mask k x) s = .next t ∧ s.Took t (scName x).toList ∧ s.Posted t k ∧
      t.part.group (s.scNat x) = some { g with queue := g.queue ++ [c] } ∧ c.wait = true))

/-- COPY_START, COPY_ROW_DELIVERY and COPY_COMPLETE (R279 to R286): the first whole copy of the channel starts; a row of a copy, a
multicast or a fill, not read ahead, lies at every receiver in the A-buffer or the W-buffer at its canonical addresses, its scales and
specials in the A-buffer of the issuing core, its bytes posted to the receivers' barriers when they are due; other cores' buffers are as
they were, and the write pointer has moved by its bytes. A row of a store writes the bytes of the tile that lie inside the tensor,
with their blocks' scales and specials, and no other byte of memory; at its end the channel is free for the next.
COLLECTIVE_COMPLETE (R294, R321, R322): the first of the group's sequence is over: a `collwait`, or a collective of which this device
has one member, which reaches its source and destination; its result is then in memory, with every other byte as it was. -/
def Obligations.CopiesCollectivesProceed : Prop :=
  (∀ (s : State) (c i : Nat), i < 2 →
  (∀ x, ((s.flush.dev.coreAt c).running i) = none →
    ((s.flush.dev.coreAt c).chan i).queue.find? (fun y => y.slices.length == y.n) = some x →
    s.flush.dev.heldQuad (quadOf c) = false → x.tile = none → (∀ z ∈ x.slices, z.desc = x.desc) →
    ∃ t, exec (.copyStart c i) s = .next t ∧ (t.dev.coreAt c).running i = some { x with started := true } ∧ t.dev.mem = s.dev.mem) ∧
  (∀ x bs side e, (s.flush.dev.coreAt c).running i = some x → x.detail = 0 → x.ahead = [] → x.row < x.desc.rows → x.desc.kind ≠ 2 →
    x.failedAt = 0 → s.flush.tileRow c x e = .ok bs → (x.desc.side = none → side = none) →
    (x.desc.side ≠ none → ∃ y, side = some y ∧ s.flush.sideRow c x e = .ok y) →
    ∃ t x', exec (.copyRowDelivery c i 0 e) s = .next t ∧ (t.dev.coreAt c).running i = some x' ∧ x'.row = x.row + 1 ∧
      ((t.dev.coreAt c).chan i).wp = ((s.flush.dev.coreAt c).chan i).wp + 128 ∧ t.dev.mem = s.dev.mem ∧
      ∀ k h, s.flush.cohortAt k x.cohort = some h → ∃ h', t.cohortAt k x.cohort = some h' ∧
        let got := quadOf k = quadOf c ∧ posOf k ∈ x.desc.receivers c
        let row := fun m => putRow m (x.desc.addr + 128 * x.row) bs
        let beside := fun m => if k = c then x.putSide side m else m
        (got → x.desc.wbuf = true → h'.w = row h.w ∧ h'.a = beside h.a) ∧
        (got → x.desc.wbuf = false → h'.w = h.w ∧ h'.a = beside (row h.a)) ∧
        (got → h'.abEvents = h.abEvents ++ x.rowPost (posOf k)) ∧
        (¬ got → h'.w = h.w ∧ h'.a = beside h.a ∧ h'.abEvents = h.abEvents)) ∧
  (∀ x h ts e, (s.flush.dev.coreAt c).running i = some x → x.detail = 0 → x.ahead = [] → x.row < x.desc.rows → x.desc.kind = 2 →
    s.flush.cohortAt c x.cohort = some h → (s.flush.storeRow x h).mapM (fun b => s.flush.putPlace c x e b.1) = .ok ts →
    (∀ q ∈ ts, spaceOf q.pa ≠ 3 ∧ spaceOf q.pa ≠ 4) →
    ∃ t x', exec (.copyRowDelivery c i 0 e) s = .next t ∧ (t.dev.coreAt c).running i = some x' ∧ x'.row = x.row + 1 ∧
      ((t.dev.coreAt c).chan i).wp = ((s.flush.dev.coreAt c).chan i).wp +
        128 * (match x.tile.bind fun n => tget h.tiles n with | some y => y.esize | none => 1) ∧
      t.dev.mem = putBytes (s.flush.storeRow x h) ts s.dev.mem ∧
      ∀ a, (∀ p ∈ ts, p.pa ≠ a) → t.dev.mem.get a = s.dev.mem.get a) ∧
  (∀ x, (s.flush.dev.coreAt c).running i = some x → x.detail ≠ 0 ∨ x.desc.rows ≤ x.row →
    ∃ t, exec (.copyComplete c i) s = .next t ∧ (t.dev.coreAt c).running i = none ∧ t.dev.mem = s.dev.mem)) ∧
  (∀ (s : State) (p g : Nat) (y : Group) (x : Coll) (r : List Coll) (src : List Byte),
  (s.flush.dev.partAt p).group g = some y → y.queue = x :: r →
  (x.wait = true → ∃ t, exec (.collectiveComplete p g 0 src) s = .next t ∧
    (t.dev.partAt p).group g = some { y with queue := r } ∧ t.dev.mem = s.dev.mem) ∧
  (∀ own qs, x.wait = false → x.rank < x.m → (∀ k < x.m, x.isLocal k = true ↔ k = x.rank) → s.flush.collSource p x = .ok own →
    s.flush.collPlaces p x true = .ok qs → src.length = x.m * x.srcLen x.m →
    (∀ q ∈ qs, spaceOf q.pa ≠ 3 ∧ spaceOf q.pa ≠ 4) →
    ∃ t, exec (.collectiveComplete p g 0 src) s = .next t ∧ (t.dev.partAt p).group g = some { y with queue := r } ∧
      t.dev.mem = (qs.zip (x.result x.m x.rank ((List.range x.m).map fun k =>
        if k = x.rank then own else (src.drop (k * x.srcLen x.m)).take (x.srcLen x.m)))).foldl
          (fun m b => m.write b.1.pa [b.2]) s.dev.mem ∧
      ∀ a, (∀ q ∈ qs, q.pa ≠ a) → t.dev.mem.get a = s.dev.mem.get a))

/-- LATCH_FILL, PASS_START and PASS_END (R289 to R291, R316): the latch is given to the gathered entry that the arbiter ranks first,
with its index list, and takes four rows a clock; a pass of the entry that the arbiter chooses is under way with the rows of both
operands, those in the latch where it is gathered; 32 clocks later the accumulator holds the sums, each rounded once, and the entry is
over. TILE_CLOSED, EPILOGUE_START and EPILOGUE_COMPLETE (R292, R293, R319): the tile of
a close or a read whose time is up is closed; an `epi` whose tile is closed starts with its scales and biases as the A-buffer holds them;
its output then lies in the A-buffer and its tile is gone. -/
def Obligations.MatrixEngineProceeds : Prop :=
  (∀ (s : State) (q id : Nat) (e : Entry) (h : Cohort) (o : MmaOp) (a b : Nat) (idx : Option Nat)
    (sa sb xa xb : List Word), e.kind = .mma o a b idx sa sb xa xb → s.flush.cohortAt e.core e.cohort = some h →
  let d := s.flush.dev
  let qd := d.quadAt q
  (∀ i, idx = some i → d.heldQuad q = false → qd.latch = none → choose (qd.waiting.filter fun e => e.2.gathered) = some (id, e) →
    ∃ t, exec (.latchFill q) s = .next t ∧ t.dev.mem = d.mem ∧
      t.dev.quadAt q = { qd with latch := some (id, s.clock, (List.range 128).map (fun r => h.a.nat (i + 2 * r) 2), []) }) ∧
  (∀ t0 ix till, qd.latch = some (id, t0, ix, []) → qd.entries.find? (·.1 == id) = some (id, e) →
    (qd.fill d till).latch = some (id, t0, ix, (ix.take (4 * (till - t0))).map (rowOfA h o a))) ∧
  (∀ ra, d.heldQuad q = false → qd.pass = none → (idx = none → ra = rowsOfA h o a) →
    (idx ≠ none → ∃ t0 ix, qd.latch = some (id, t0, ix, ra)) →
    choose (qd.waiting.filter fun e => !e.2.gathered || match qd.latch with
      | some (id, _, _, rows) => id == e.1 && 128 ≤ rows.length
      | none => false) = some (id, e) →
    ∃ t, exec (.passStart q) s = .next t ∧ (t.dev.quadAt q).pass = some (id, s.clock, ra, rowsOfB h o b) ∧
      (idx ≠ none → (t.dev.quadAt q).latch = none) ∧ (t.dev.quadAt q).accs = qd.accs ∧ t.dev.mem = d.mem) ∧
  (∀ t0 ra rb, qd.pass = some (id, t0, ra, rb) → t0 + 32 ≤ s.clock → qd.entries.find? (·.1 == id) = some (id, e) →
    ∃ t, exec (.passEnd q) s = .next t ∧ (t.dev.quadAt q).pass = none ∧
      tget (t.dev.quadAt q).accs (accKey e.cohort e.core e.acc) = some ⟨e.wide, passResult o
        (match tget qd.accs (accKey e.cohort e.core e.acc) with | some x => x.vals | none => zeroTile) ra rb sa sb xa xb⟩ ∧
      (∀ k, k ≠ accKey e.cohort e.core e.acc → tget (t.dev.quadAt q).accs k = tget qd.accs k) ∧
      (t.dev.quadAt q).entries = qd.entries.filter (·.1 != id) ∧ t.dev.mem = d.mem)) ∧
  (∀ (s : State) (c : Nat),
  let d := s.flush.dev
  (∀ id e h x t0, let q := d.quadAt (quadOf c)
    q.entries.find? (fun e => e.2.core = c && !e.2.isMma && match e.2.started with
      | some t => t + (if (q.tileOf e.2).wide then 256 else 128) ≤ s.clock
      | none => false) = some (id, e) → e.started = some t0 → s.flush.cohortAt c e.cohort = some h → tget h.tiles e.tile = some x →
    ∃ t h', exec (.tileClosed c) s = .next t ∧ t.cohortAt c e.cohort = some h' ∧ tget h'.tiles e.tile = some { x with closed := true } ∧
      (t.dev.quadAt (quadOf c)).entries = q.entries.filter (·.1 != id) ∧
      (e.kind ≠ .read → tget (t.dev.quadAt (quadOf c)).accs (accKey e.cohort e.core e.acc) = none) ∧
      (e.kind = .read → (t.dev.quadAt (quadOf c)).accs = q.accs)) ∧
  (∀ x r h y, (d.coreAt c).epis = x :: r → s.flush.cohortAt c x.cohort = some h → d.heldQuad (quadOf c) = false → x.started = none →
    tget h.tiles x.tile = some y → y.closed = true →
    ∃ t x', exec (.epilogueStart c) s = .next t ∧ (t.dev.coreAt c).epis = x' :: r ∧ x'.started = some s.clock ∧ x'.tile = x.tile ∧
      x'.cfg = x.cfg ∧ x'.scales = (List.range 128).map (fun n => BitVec.ofNat 64 (h.a.nat (x.cfg.scale + 4 * n) 4)) ∧
      x'.biases = (List.range 128).map (fun n => BitVec.ofNat 64 (h.a.nat (x.cfg.bias + 4 * n) 4)) ∧ t.dev.mem = d.mem) ∧
  (∀ x r h y t0, (d.coreAt c).epis = x :: r → x.started = some t0 → s.flush.cohortAt c x.cohort = some h →
    tget h.tiles x.tile = some y → t0 + (if y.wide then 512 else 256) ≤ s.clock →
    ∃ t h', exec (.epilogueComplete c) s = .next t ∧ (t.dev.coreAt c).epis = r ∧ t.cohortAt c x.cohort = some h' ∧
      h'.a = (List.range 128).foldl (epiStore x.cfg y x.scales x.biases) h.a ∧ tget h'.tiles x.tile = none ∧ t.dev.mem = d.mem))

end

/-! ## Joins, rejoins, pages, blocks, spilling, roles and tasks (R137 to R139, R148, R297 to R299, R335 to R338, R344) -/

namespace Sys2Proof.Machine

/-- A vector name of one of the merging paths, on a lane that is its own alone: the merged path has its value there (R138). -/
def keepsLanes (w : Nat) (ps : List Path) (m : Path) : Prop := ∀ p ∈ ps, ∀ n r l, n < 128 → l < w → tget p.v n = some r →
  p.lanes.getLsbD l = true → (∀ q ∈ ps, q.lanes.getLsbD l = true → q = p) →
  ∃ r', tget m.v n = some r' ∧ r'.vals.getD l 0 = r.vals.getD l 0

/-- The strand of a slot, with one of its paths. -/
def State.HasPath (s : State) (r : PRef) (st : Strand) (p : Path) : Prop :=
  s.strandAt r.core r.slot = some st ∧ tget st.paths r.path = some p

/-- The same path afterwards, with its names and its lanes. -/
def State.PathNow (t : State) (r : PRef) (p q : Path) : Prop :=
  ∃ st, t.HasPath r st q ∧ q.v = p.v ∧ q.sc = p.sc ∧ q.masks = p.masks ∧ q.lanes = p.lanes

/-- A strand of an address space on a core, in its buffers. -/
def State.runsIn (s : State) (asid : Nat) (st : Strand) : Prop := (s.dev.launchAt st.launch).asid = asid ∧ st.spilled = false

/-- No path of the strand stops at this header on its way: it is no rejoin point, and the join of no split the path is an arm of. -/
def Strand.Passes (st : Strand) (p : Path) (a : Word) : Prop :=
  a.toNat % 8 = 0 ∧ a.toNat < 2 ^ 57 ∧ (∀ q ∈ st.paths, q.2.rejoin ≠ some a) ∧ armsAt st.splits a p.arms = none ∧ p.joinCheck = false

/-- The path is blocked at a queue, still full or empty, where another role can go on (R297). -/
structure State.CanSwitch (u : State) (q n : Nat) (sends : Bool) (a : Option SC) (x : Queue) (r : Role) (e : Word) : Prop where
  at_ : u.path.yieldsAt = some (q, sends, a)
  queue : tget u.core.queues q = some x
  role : otherRole u.launch.kernel q sends = some (n, r)
  known : u.launch.kernel.roles[n]? = some r
  local_ : x.kind = 0
  still : if sends then x.cap ≤ x.occ else x.occ = 0
  sole : u.sole = true
  window : u.path.windowOpen = false
  idle : u.strand.idle = true
  long : (if sends then r.outq else r.inq) = none → u.longBlocked u.path = true
  first : ∀ e ∈ u.core.strands, e.1 ≠ u.slotNo → u.strand.linear < e.2.linear →
    u.rival q sends (if sends then r.outq else r.inq).isNone e.2 = false
  rested : x.lastSwitch + 256 ≤ u.clock
  free : sends = true → x.reserve = false
  marks : u.marksHeld r sends = true
  entry : r.entry = some e
  argw : r.argw = []

end Sys2Proof.Machine

section
open Sys2Proof Sys2Proof.Machine

/-- JOIN_COMPLETE (R137, R138): once every path of a split waits at its join since an earlier clock, they merge into one that has all of their lanes, with
the values of each lane; the split is closed. REJOIN (R335, R336): a fragment at its rejoin point merges into its parent that waits
there; a name that only the fragment holds is lane-divided, absent on the parent's lanes. -/
def Obligations.PathsMerge : Prop :=
  (∀ (s : State) (c sl split : Nat) (st : Strand) (e : Split), s.flush.strandAt c sl = some st → tget st.splits split = some e →
    let ps := (st.paths.filter fun p => p.2.arms.any (·.1 == split)).map (·.2)
    ps ≠ [] → (∀ p ∈ ps, (∃ t0 < s.clock, p.status = .join split t0) ∧ p.windowOpen = false) →
    ∃ t, exec (.joinComplete c sl split) s = .next t ∧ t.path.lanes = ps.foldl (fun x p => x ||| p.lanes) 0 ∧
      tget t.strand.splits split = none ∧ keepsLanes st.width ps t.path ∧
      ((s.flush.dev.coreAt c).dbg.on 1 = false → t.dev.mem = s.dev.mem)) ∧
  (∀ (s : State) (r : PRef) (st : Strand) (f q : Path) (pid : Nat) (a : Word), s.flush.HasPath r st f → f.parent = some pid →
    f.rejoin = some a → pid ≠ r.path → tget st.paths pid = some q → f.status = .atRejoin → q.status = .rejoinWait → q.pc = a →
    f.windowOpen = false → q.windowOpen = false →
    ∃ t, exec (.rejoin r) s = .next t ∧ t.path.lanes = q.lanes ||| f.lanes ∧ tget t.strand.paths r.path = none ∧
      keepsLanes st.width [q, f] t.path ∧
      (∀ n x, n < 128 → tget f.v n = some x → tget q.v n = none →
        ∃ x', tget t.path.v n = some x' ∧ x'.absent = q.lanes ||| (x.absent &&& f.lanes)) ∧
      ((s.flush.dev.coreAt r.core).dbg.on 1 = false → t.dev.mem = s.dev.mem))

/-- PAGE_RESPONSE (R338): the last answer of a parked path makes it ready to execute its instruction again. BLOCK_FETCH (R344): the block
is in the instruction buffer, and the path that waits for it is in it, where all that the check of its header needs has been fetched. SPILL and SPILL_RESTORE (R148, R149): the youngest strand that may be
spilled gives up its slabs and path slots and keeps what it holds; the spilled strand of the lowest linear identifier comes back when
the free slabs above the plinth cover it. -/
def Obligations.WaitingPathsGoOn : Prop :=
  (∀ (s : State) (r : PRef) (page port : Nat) (st : Strand) (p : Path), s.flush.HasPath r st p → p.status = .pages [(page, port)] [] →
    ∃ t q, exec (.pageResponse r page true) s = .next t ∧ t.PathNow r p q ∧ q.status = .ready ∧ q.trap = none ∧ q.redo = p.redo ∧
      t.dev.mem = s.dev.mem) ∧
  (∀ (s : State) (asid : Nat) (a : Word) (r : PRef) (st : Strand) (p : Path) (fall : Bool) (o : Word) (u : Undo) (b : Block)
    (stop : Option FetchStop), s.flush.HasPath r st p → s.runsIn asid st → p.status = .fetch a fall o u → st.Passes p a →
    (∀ x ∈ (s.flush.dev.coreAt r.core).strands, ∀ q ∈ x.2.paths, q.2.waitsFor a = true → x.1 = r.slot ∧ q.1 = r.path) →
    (∀ q, s.flush.dev.newText asid q a = false) → b.valid = true → b.untested = false →
    (∀ x ∈ (s.flush.dev.coreAt r.core).strands, s.runsIn asid x.2 →
      fetchBlock s.flush.dev asid (s.dev.launchAt x.2.launch).part a .done = .ok (b, stop)) →
    ∃ t q, exec (.blockFetch r.core asid ⟨a, .done⟩) s = .next t ∧ tget (t.dev.coreAt r.core).ibuf (codeKey asid a) = some b ∧
      t.PathNow r p q ∧ q.status = .ready ∧ q.blk = b ∧ q.pc = b.base + 8 ∧ t.dev.mem = s.dev.mem) ∧
  (∀ (s : State) (c sl : Nat) (st : Strand), let co := s.flush.dev.coreAt c
    co.idleFrom + 256 ≤ s.clock → (∃ e ∈ co.strands, e.2.spilled = false ∧ ∃ p ∈ e.2.paths, p.2.starved = true) →
    youngest co.strands = some (sl, st) → st.noLoads = true → s.flush.dev.framePaused st = false →
    ∃ t st', exec (.spill c) s = .next t ∧ t.strandAt c sl = some st' ∧ st'.spilled = true ∧ slabsHeld st' = 0 ∧
      ∀ p q, tget st.paths p = some q → tget st'.paths p = some { q with slot := none }) ∧
  (∀ (s : State) (c sl : Nat) (st : Strand), let co := s.flush.dev.coreAt c
    (sl, st) ∈ co.strands → st.spilled = true →
    (∀ e ∈ co.strands, e.2.spilled = true → e = (sl, st) ∨ st.linear < e.2.linear) →
    slabsHeld { st with spilled := false } + plinth co.strands ≤ slabsFree co.strands →
    ∃ t, exec (.spillRestore c) s = .next t ∧ t.strandAt c sl = some { st with spilled := false } ∧ t.dev.mem = s.dev.mem)

/-- ROLE_SWITCH (R297): a strand blocked at a yieldable operation takes the role at the other end of the queue and goes to its
entry with no record, mask or walker; a sender leaves its element in the queue's reserve. Stated of roles without live-ins.
CGROW_ANSWER (R176): 24 clocks after its request the record holds the number of strands committed: none where the kernel has no
attachment entry or the number asked for is not 1 to 1,024, and one where one was asked for, the cohort stands on one core, and there is room for it.
TASK_STRAND_FORM (R299): a task that has waited 64 clocks on a core of the partition becomes a strand of width 32 at its entry, with the words of its
record in v0 to v7 of its lane; a task of an entry that the kernel does not list is discarded. -/
def Obligations.RolesAndTasks : Prop :=
  (∀ (s u : State) (p : PRef) (q n : Nat) (a : Option SC) (x : Queue) (r : Role) (e : Word), s.load p.core p.slot p.path = some u →
    u.CanSwitch q n false a x r e → ∃ t, exec (.roleSwitch p) s = .next t ∧ t.strand.role = some n ∧
      u.Arrives t e false fun p => p.v = [] ∧ p.sc = [] ∧ p.masks = [] ∧ p.walkers = []) ∧
  (∀ (s u : State) (p : PRef) (q n : Nat) (a : SC) (x : Queue) (r : Role) (e : Word), s.load p.core p.slot p.path = some u →
    u.CanSwitch q n true (some a) x r e → u.CanRead (scSrcs a) u.path.lanes → u.CanRelease →
    ∃ t y, exec (.roleSwitch p) s = .next t ∧ t.strand.role = some n ∧ tget t.core.queues q = some y ∧ y.reserve = true ∧
      y.reserved.toNat = u.scVal a ∧ u.Arrives t e false fun p => p.v = [] ∧ p.sc = [] ∧ p.masks = [] ∧ p.walkers = []) ∧
  ((∀ (s u : State) (p : PRef) (d : Dest) (n t0 : Nat), s.load p.core p.slot p.path = some u → t0 < 2 ^ 64 →
    u.path.status = .grow d (n * 2 ^ 64 + t0) → t0 + 24 ≤ u.clock → (∀ k ∈ u.flush.dev.growRequests u.strand.cohort, t0 ≤ k) →
    u.path.window = none → u.path.atEnd = false →
    (u.launch.kernel.attach = none ∨ n = 0 ∨ 1024 < n → ∃ t, exec (.cgrowAnswer p) s = .next t ∧ t.path.status = .ready ∧
      t.path.pc = u.path.nextPc ∧ u.path.Wrote t.path d false (destVals d false u.strand.width u.path.lanes fun _ => 0) ∧
      t.dev.mem = s.dev.mem) ∧
    (∀ a sl, u.launch.kernel.attach = some a → n = 1 →
      (tgetD (u.flush.dev.coreAt p.core).cohorts u.strand.cohort .empty).quad = false → u.launch.grown < u.launch.grow →
      u.flush.dev.framesUsed u.strand.launch < u.launch.qsize / frameBytes u.launch.kernel.armature →
      (u.flush.dev.coreAt p.core).admits 1 u.launch.kernel.width u.launch.kernel.armature = true →
      (u.flush.dev.coreAt p.core).freeSlot = some sl →
      ∃ t st, exec (.cgrowAnswer p) s = .next t ∧ t.path.status = .ready ∧
        u.path.Wrote t.path d false (destVals d false u.strand.width u.path.lanes fun _ => 1) ∧
        tget t.core.strands sl = some st ∧ st.entry = a ∧ st.cohort = u.strand.cohort ∧ st.width = u.launch.kernel.width ∧
        st.linear = u.launch.counter ∧ t.launch.grown = u.launch.grown + 1 ∧ t.launch.counter = u.launch.counter + 1 ∧
        t.dev.mem = s.dev.mem)) ∧
  (∀ (s : State) (c key sl : Nat) (r : TaskRing) (entry : Word) (ws : List Word), tget (s.flush.dev.coreAt c).rings key = some r →
    r.tail = r.head + 1 → r.taken = [] → s.flush.taskSlot r r.head = some (entry, ws) →
    let l := s.dev.launchAt r.launch
    l.ending = none → (s.dev.partAt l.part).open_ = true → (s.dev.dieAt (dieOf c)).fenced = false →
    (∀ arm, (s.dev.partAt l.part).hasQuad (quadOf c) = true → l.kernel.tasks.find? (fun k => k.1 = entry) = some (entry, arm) → r.since + 64 ≤ s.clock →
      (s.flush.dev.coreAt c).admits 1 32 arm = true → 8 + plinth (s.flush.dev.coreAt c).strands ≤ slabsFree (s.flush.dev.coreAt c).strands →
      s.flush.dev.framesUsed r.launch < l.qsize / frameBytes l.kernel.armature → (s.flush.dev.coreAt c).freeSlot = some sl →
      ∃ t st p, exec (.taskStrandForm c key) s = .next t ∧ t.HasPath ⟨c, sl, 0⟩ st p ∧ st.task = true ∧ st.width = 32 ∧ st.entry = entry ∧
        st.launch = r.launch ∧ st.armature = arm ∧ p.lanes = 1 ∧
        (∀ k < 8, ∃ x, tget p.v k = some x ∧ x.count = some 1 ∧ x.vals.getD 0 0 = ws.getD k 0) ∧
        (∃ y, tget (t.dev.coreAt c).rings key = some y ∧ y.head = r.head + 1) ∧ t.dev.mem = s.dev.mem) ∧
    (l.kernel.tasks.find? (fun k => k.1 = entry) = none → ∃ t y, exec (.taskStrandForm c key) s = .next t ∧
      tget (t.dev.coreAt c).rings key = some y ∧ y.head = r.head + 1 ∧ t.dev.mem = s.dev.mem)))

/-- DOORBELL, LAUNCH, CHUNK_GRANT, COHORT_PLACEMENT and LAUNCH_COMPLETION (R341, R355 to R362, R378): the owner's write sets the queue's
tail, modulo the capacity (log entry 47), and another port's is counted as an error; the oldest waiting launch that passes the checks runs, as its descriptor and kernel
say, with every die asking for a chunk; the master hands out the next numbers to the die that asked first; the next cohort, here of one strand without role or
queue, takes a free slot of the core chosen; and a launch that is over and quiet leaves nothing behind. -/
def Obligations.LaunchProceeds : Prop :=
  (∀ (s : State) (port pn q : Nat) (tail : BitVec 32), pn < 8 → q < 8 →
    (∀ base cap, s.flush.dev.holder pn = some port → s.flush.dev.ringOf pn q = some (base, cap) →
      ∃ t, exec (.doorbell port pn q tail) s = .next t ∧ t.dev.hq pn q = { s.dev.hq pn q with tail := tail.toNat % cap } ∧
        t.dev.mem = s.dev.mem ∧ t.dev.launches = s.dev.launches) ∧
    (s.flush.dev.holder pn ≠ some port → ∃ t, exec (.doorbell port pn q tail) s = .next t ∧
      t.dev.hq pn q = { s.dev.hq pn q with errors := ((s.dev.hq pn q).errors + 1) % 2 ^ 64 } ∧ t.dev.mem = s.dev.mem)) ∧
  (∀ (s : State) (pn q desc : Nat) (rest : List Nat) (bs : List Byte) (k : Nat × Kernel) (asid : Nat), let d := s.flush.dev
    d.unfetched pn q = 0 → (d.hq pn q).running = none → (d.hq pn q).waiting = desc :: rest → (d.hq pn q).asid = some asid →
    (d.partAt pn).open_ = true → (d.setHq pn q { d.hq pn q with waiting := rest }).descriptor pn q desc = some bs →
    (d.partAt pn).kernels.find? (fun k => k.1 = fieldN (bytesNat bs 0x14 4) 16 12 && k.2.entry = BitVec.ofNat 64 (bytesNat bs 0 8)) =
      some k → d.checkLaunch pn desc bs (launchOf pn q desc k.2 bs (d.partAt pn).ordinals) true = 0 →
    ∃ t, exec (.launch pn q) s = .next t ∧ (t.dev.hq pn q).running = some d.nextLaunch ∧ (t.dev.hq pn q).waiting = rest ∧
      tget t.dev.launches d.nextLaunch = some { launchOf pn q desc k.2 bs (d.partAt pn).ordinals with
        dists := (d.diesOf pn).map (fun i => (i, ⟨[], some s.clock⟩)), loads := d.loads } ∧
      (t.dev.partAt pn).ordinals = (d.partAt pn).ordinals + 1 ∧ t.dev.mem = s.dev.mem) ∧
  (∀ (s : State) (pn die l t0 : Nat) (x : Launch) (di : Dist), tget s.dev.launches l = some x → tget x.dists die = some di → x.part = pn →
    di.asked = some t0 → x.askedBefore die t0 = false → (s.dev.partAt pn).electing = none → x.ending = none → (s.dev.partAt pn).open_ = true →
    let n := min x.chunk (x.cohorts - x.granted)
    ∃ t, exec (.chunkGrant pn die l) s = .next t ∧ t.dev.mem = s.dev.mem ∧ tget t.dev.launches l = some (if n = 0
      then { x with dists := tset x.dists die { di with asked := none } }
      else { x with granted := x.granted + n, dists := tset x.dists die ⟨di.chunks ++ [(x.granted, n)], none⟩ })) ∧
  (∀ (s : State) (pn die lid n c sl : Nat) (l : Launch), s.flush.candidates pn die = [(lid, l, n, [(c, 1)])] →
    (s.dev.partAt pn).open_ = true → (s.dev.partAt pn).electing = none → (s.dev.dieAt die).fenced = false → l.spc = 0 → l.quad = false →
    l.kernel.roles = [] → l.kernel.queues = [] → (s.flush.dev.coreAt c).freeSlot = some sl →
    ∃ t st p, exec (.cohortPlacement pn die lid) s = .next t ∧ t.HasPath ⟨c, sl, 0⟩ st p ∧ st.launch = lid ∧ st.number = n ∧
      st.linear = n ∧ st.width = l.kernel.width ∧ st.armature = l.kernel.armature ∧ p.lanes = allLanes l.kernel.width ∧ p.v = [] ∧
      p.sc = [] ∧ (∃ o u, p.status = .fetch l.kernel.entry true o u) ∧ (t.dev.launchAt lid).placed = l.placed + 1 ∧
      t.dev.mem = s.dev.mem) ∧
  (∀ (s : State) (pn lid : Nat) (x : Launch), tget s.flush.dev.launches lid = some x → x.part = pn → s.flush.dev.quiet lid = true →
    (x.ending = none → s.flush.dev.finished lid x = true) → (s.dev.partAt pn).open_ = true →
    (∀ y ∈ s.flush.partials lid x, s.flush.dev.paused y.pa = false) →
    (∀ e ∈ s.flush.ovfSlots x.part x.ordinal, s.flush.dev.slotPaused x.part e.1 = false) →
    ∃ t, exec (.launchCompletion pn lid) s = .next t ∧ tget t.dev.launches lid = none ∧ (t.dev.hq pn x.queue).running = none ∧
      (∀ c, ∀ e ∈ (t.dev.coreAt c).strands, e.2.launch ≠ lid))

/-- Faults and handlers. An engine command under a mask that leaves a lane out raises MASKENG, before anything of it takes effect
(R275, R301). A store to the A-buffer beyond it raises PROT, a misaligned one ALIGN, with no effect (R191, R249). A load that faults whole
has no effect (R38): its reads are restored, its destination is as it was; the trap names it, the window instructions that
completed, and the addresses. A page that the host refuses makes the parked path trap with the fault it had (R338), and a block that cannot
be fetched raises FETCH at the path that waits for it (R344). The handler's registers (R339, R42): `%cause`, `%fpc` and `%faddr` read what the trap gave them, and read 0
outside a handler. TRAP_ENTRY in handler mode ends the launch with status 2 (R342). `tret.skip` after a fault (R96): the path goes on
behind the instruction, with the reads that it would have made taken. `tret` outside a handler raises ILLOP, and after a fault at an
address that is no instruction of its block the path goes to that address, as to a branch target (log entry 43). -/
def Obligations.FaultsAndHandlers : Prop :=
  (∀ i s, MaskedCommand s i → s.path.windowOpen = false → ∃ t, exec i s = .next t ∧ s.Raised t 0x06 0) ∧
  (∀ i o phys s, BufStore i o phys → s.canPost o.k.val = true → s.path.windowOpen = false →
  s.CanRead (storeSrcs o) (s.storeEn o) → lanesOf s.strand.width (s.storeEn o) ≠ [] →
  ofLanes (lanesOf s.strand.width (s.storeEn o)) &&& s.path.lanes = s.path.lanes →
  ((∀ l ∈ lanesOf s.strand.width (s.storeEn o), s.cohort.asize ≤ s.storeAddr o l ∧ s.storeAddr o l % o.ty.size = 0) →
    ∃ t tr, exec i s = .next t ∧ t.path.trap = some tr ∧ t.path.status = .trapped ∧ tr.cause = 0x09 ∧ tr.fpc = s.path.pc ∧
      t.cohort = s.cohort ∧ t.dev = s.dev ∧ ∀ n, t.path.get n = s.path.get n) ∧
  (s.cohort.asize ≠ 0 → (∀ l ∈ lanesOf s.strand.width (s.storeEn o), s.storeAddr o l % o.ty.size ≠ 0) →
    ∃ t tr, exec i s = .next t ∧ t.path.trap = some tr ∧ t.path.status = .trapped ∧ tr.cause = 0x07 ∧ tr.fpc = s.path.pc ∧
      t.cohort = s.cohort ∧ t.dev = s.dev ∧ ∀ n, t.path.get n = s.path.get n)) ∧
  (∀ (s u : State) (p : PRef) (w : Window) (f : Flight) (a : LaneAcc) (c : Nat),
  s.load p.core p.slot p.path = some u → u.path.window = some w → w.complete = false → u.strand.flight w.flight = some f →
  f.passed = false → f.kind.isLoad = true → f.accs = [a] → u.checkLane f a = .bad ⟨a.lane, c, a.va⟩ none →
  (∀ g ∈ u.strand.flights, u.earlier f g.2 = false) → lanesOf u.strand.width f.lanes ≠ [] →
  ofLanes (lanesOf u.strand.width f.lanes) &&& u.path.lanes = u.path.lanes →
  ∃ t tr, exec (.translationPassed p) s = .next t ∧ t.path.trap = some tr ∧ t.path.status = .trapped ∧ tr.cause = min 0xFF c ∧
    tr.fpc = w.pc ∧ tr.fdone = w.done ||| u.path.doneAt w.pc ∧ (∀ l ∈ lanesOf u.strand.width f.lanes, tget tr.faddr l = some a.va) ∧
    t.path.window = none ∧ t.strand.flight w.flight = none ∧
    (∀ n, t.path.get n = (w.undo.foldl (fun q e => q.restore e.1 e.2) u.path).get n) ∧ t.path.masks = u.path.masks ∧
    t.dev.mem = u.dev.mem) ∧
  (∀ s : State,
  (∀ tr, s.path.handler = some tr → s.special 13 = .one (BitVec.ofNat 64 tr.cause) ∧ s.special 14 = .one tr.fpc ∧
    s.special 15 = .per ((List.range s.strand.width).map fun l => tgetD tr.faddr l 0)) ∧
  (s.path.handler = none → s.special 13 = .one 0 ∧ s.special 14 = .one 0 ∧ s.special 15 = .per ((List.range s.strand.width).map fun _ => 0))) ∧
  (∀ (s u : State) (c sl id : Nat) (st : Strand) (tr h : Trap),
  s.flush.strandAt c sl = some st → nextTrap st.paths = some id → s.flush.load c sl id = some u → u.path.trap = some tr →
  u.strand.trapFrom ≤ u.clock → (∀ f ∈ u.strand.flights, f.2.kind.isStore = false) →
  u.path.handler = some h → u.launch.ending = none → ∃ t, exec (.trapEntry c sl) s = .next t ∧
    t.launch.ending = some (2, u.faultRecord tr)) ∧
  (∀ (s : State) (tr : Trap) (w : Word) (i : Instr), s.path.handler = some tr → s.path.windowOpen = false →
    tr.blk.wordAt tr.fpc = some w → decode w (tr.blk.wordAt (tr.fpc + 8)) = .ok i → tr.cause ≠ 0x14 → tr.cause ≠ 0x15 →
    tr.win = 0 → tr.rest = none → tr.fpc + BitVec.ofNat 64 (8 * wordLen w) ≠ tr.blk.stop →
    ∃ t, exec (.tret true) s = .next t ∧ t.path.handler = none ∧ t.path.pc = tr.fpc + BitVec.ofNat 64 (8 * wordLen w) ∧
      t.path.blk = tr.blk ∧ t.path.status = .ready ∧ t.path.v = (s.path.takeReads (usesInstr i).reads).v ∧
      t.path.sc = (s.path.takeReads (usesInstr i).reads).sc) ∧
  (∀ (s : State) (tr : Trap), s.path.handler = some tr → s.path.windowOpen = false → tr.blk.covers tr.fpc = false →
    tr.cause ≠ 0x14 → tr.cause ≠ 0x15 → tr.joinCheck = false → ∃ t, exec (.tret false) s = .next t ∧
    s.Arrives t tr.fpc false fun p => p.handler = none ∧ p.v = s.path.v ∧ p.sc = s.path.sc) ∧
  (∀ (s : State) (skip : Bool), s.path.handler = none → s.path.windowOpen = false →
    ∃ t, exec (.tret skip) s = .next t ∧ s.Raised t 0x01 0) ∧
  (∀ (s : State) (r : PRef) (page port : Nat) (st : Strand) (p : Path) (tr : Trap), s.flush.HasPath r st p →
    p.status = .pages [(page, port)] [] → p.trap = some tr → ∃ t q tr', exec (.pageResponse r page false) s = .next t ∧
      t.PathNow r p q ∧ q.status = .trapped ∧ q.trap = some tr' ∧ tr'.cause = tr.cause ∧ tr'.fpc = tr.fpc ∧ tr'.fdone = tr.fdone ∧
      t.dev.mem = s.dev.mem) ∧
  (∀ (s : State) (asid : Nat) (a : Word) (r : PRef) (st : Strand) (p : Path) (fall : Bool) (o : Word) (u : Undo) (c : Nat),
    s.flush.HasPath r st p → s.runsIn asid st → p.status = .fetch a fall o u → p.windowOpen = false →
    (∀ x ∈ (s.flush.dev.coreAt r.core).strands, ∀ q ∈ x.2.paths, q.2.waitsFor a = true → x.1 = r.slot ∧ q.1 = r.path) →
    (∀ x ∈ (s.flush.dev.coreAt r.core).strands, s.runsIn asid x.2 →
      fetchBlock s.flush.dev asid (s.dev.launchAt x.2.launch).part a .done = .error (.fail ⟨c, none⟩)) →
    ∃ t q tr, exec (.blockFetch r.core asid ⟨a, .done⟩) s = .next t ∧ t.PathNow r p q ∧ q.status = .trapped ∧ q.trap = some tr ∧
      tr.cause = 0x0C ∧ tr.fpc = a ∧ (∀ l ∈ lanesOf 1024 p.lanes, tget tr.faddr l = some a) ∧ t.dev.mem = s.dev.mem)

end

/-! ## Privileged commands (R345 to R348, R378 to R386, R393, R394) -/

namespace Sys2Proof.Machine

/-- A command of an opcode is at the head of queue 0, with operands at `a` and its status to go to `st`; the partition is configured,
but for opcode 0x0010. -/
structure State.Commanded (s : State) (pn op a st : Nat) : Prop where
  head : s.flush.dev.privCmd pn op = some (a, st)
  align : a % 8 = 0
  conf : op = 0x10 ∨ (s.dev.partAt pn).configured = true

/-- The operand: n bytes at an offset. -/
def State.opnd (s : State) (pn a : Nat) : Opnd := fun o n => s.dev.mem.nat (s.flush.dev.locPlace pn a + o) n

/-- The status word that a command has left, where it lies in the host's storage or the partition's own: 0, or 1 and its detail times
256 (R184, R378). -/
def State.Told (s t : State) (pn st w : Nat) : Prop :=
  ((s.dev.partAt pn).loc = true → (t.dev.partAt pn).inPairs st 8 = true) → t.dev.mem.nat (s.flush.dev.locPlace pn st) 8 = w

/-- A table of this size lies in the stacks, while statuses go to the host. -/
def State.inStacks (s : State) (pn at_ n : Nat) : Prop := at_ + n ≤ 2 ^ 64 ∧ (s.dev.partAt pn).loc = false

/-- The commands, with their opcodes. -/
inductive CommandOp : (Nat → Instr) → Nat → Prop where
  | configure : CommandOp .configure 0x10
  | sealPartition : CommandOp .sealPartition 0x11
  | releasePartition : CommandOp .releasePartition 0x12
  | preempt : CommandOp .preempt 0x13
  | restore : CommandOp .restore 0x14
  | asidCreate : CommandOp .asidCreate 0x20
  | asidDestroy : CommandOp .asidDestroy 0x20
  | writeRangeEntry : CommandOp .writeRangeEntry 0x21
  | pagesWrite : CommandOp .pagesWrite 0x22
  | pagesInvalidate : CommandOp .pagesInvalidate 0x22
  | writeTensorRecord : CommandOp .writeTensorRecord 0x23
  | writeGroupEntry : CommandOp .writeGroupEntry 0x24
  | writeExportEntry : CommandOp .writeExportEntry 0x25
  | bindBridgeSender : CommandOp .bindBridgeSender 0x26
  | bindBridgeReceiver : CommandOp .bindBridgeReceiver 0x26
  | unbindBridge : CommandOp .unbindBridge 0x26
  | setQueue : CommandOp .setQueue 0x27
  | setOverflowArea : CommandOp .setOverflowArea 0x28
  | bindPodGroup : CommandOp .bindPodGroup 0x29
  | unbindPodGroup : CommandOp .unbindPodGroup 0x29
  | loadCodeObject : CommandOp .loadCodeObject 0x30
  | enrolKey : CommandOp .enrolKey 0x31
  | withdrawKey : CommandOp .withdrawKey 0x31
  | setPowerCap : CommandOp .setPowerCap 0x32
  | cancelLaunch : CommandOp .cancelLaunch 0x40

/-- What is claimed of a command that runs: it is done, its status is 0, and `P` holds. -/
def Runs (i : Instr) (s : State) (pn st : Nat) (P : State → Prop) : Prop := ∃ t, exec i s = .next t ∧ s.Told t pn st 0 ∧ P t

/-- The operands of opcode 0x0022 are well formed: level, address and number of entries (R380). -/
def pagesArgs (f : Opnd) (op : Nat) : Prop :=
  f 0 2 < 4096 ∧ 1 ≤ f 2 1 ∧ f 2 1 ≤ 5 ∧ f 3 1 = op ∧ 1 ≤ f 4 2 ∧ f 4 2 ≤ 512 ∧ f 6 2 = 0 ∧ f 0x10 16 = 0 ∧ f 8 8 < 2 ^ 57 ∧
  f 8 8 % 2 ^ (12 + 9 * (f 2 1 - 1)) = 0

/-- Frames that an entry maps and another in its place does not (R202). -/
def lostFrames (m : Memory) (level old new : Nat) : List (Nat × Nat) :=
  if old = new then [] else minusRanges (entryFrames m level old) (entryFrames m level new)

/-- Frames that an entry maps anew. -/
def gainedFrames (m : Memory) (level old new : Nat) : List (Nat × Nat) := if old = new then [] else entryFrames m level new

/-- No storage in some ranges is in the quarantine queue, or enters it with some others (R202). -/
def Device.FreeOf (d : Device) (new old : List (Nat × Nat)) : Prop := ∀ r ∈ new,
  (∀ e ∈ d.quarantine, ∀ q ∈ e.2, ¬ (r.1 < q.1 + q.2 ∧ q.1 < r.1 + r.2)) ∧ ∀ q ∈ old, ¬ (r.1 < q.1 + q.2 ∧ q.1 < r.1 + r.2)

/-- The operands of opcode 0x0026 are well formed (R373). -/
def bridgeArgs (f : Opnd) (act : Nat) : Prop :=
  f 0 1 < 16 ∧ f 1 1 = act ∧ f 2 1 < 8 ∧ f 3 1 = 0 ∧ f 5 3 = 0 ∧ f 8 8 = 0

end Sys2Proof.Machine

section
open Sys2Proof Sys2Proof.Machine

/-- A privileged command whose operand address is no multiple of 8 is rejected with detail 0x01 (R378, R380), also where the partition is
unconfigured or its state forbids the command: that 0x01 comes before 0x02 is log entry 55. -/
def Obligations.CommandRejected : Prop := ∀ i op s pn a st, CommandOp i op → s.flush.dev.privCmd pn op = some (a, st) → a % 8 ≠ 0 →
  ∃ t, exec (i pn) s = .next t ∧ s.Told t pn st 0x101 ∧ (∀ p, (t.dev.partAt p).configured = (s.dev.partAt p).configured) ∧
    t.dev.asids = s.dev.asids ∧ t.dev.launches = s.dev.launches

/-- CONFIGURE, SEAL_PARTITION, RELEASE_PARTITION, SET_OVERFLOW_AREA, SET_QUEUE, ENROL_KEY, WITHDRAW_KEY and SET_POWER_CAP (R17, R18,
R377 to R385): the partition has the resources named; it is sealed; it stops, and once it has drained it is unconfigured and has no
address space; its overflow area, queue, keys and cap are as the operand says, and a cap is only lowered. -/
def Obligations.PartitionCommandsComplete : Prop := ∀ (s : State) (pn a st : Nat), let d := s.flush.dev
  let p := d.partAt pn
  let f := s.opnd pn a
  let quads := BitVec.ofNat 128 (f 0 16)
  let pairs := BitVec.ofNat 8 (f 0x10 1)
  let shares := (List.range 4).map fun i => f (0x14 + i) 1
  (s.Commanded pn 0x10 a st → f 0x11 3 = 0 → f 0x18 8 = 0 → (∀ i < 4, shares.getD i 0 ≤ 16) → p.sealed = false → quads ≠ 0 → pairs ≠ 0 →
    (∀ x ∈ d.parts, x.1 ≠ pn → x.2.quads &&& quads = 0 ∧ x.2.pairs &&& pairs = 0) →
    (∀ i < 4, (d.parts.filter fun x => x.1 != pn).foldl (fun n x => n + shareOf x.2 i) (shares.getD i 0) ≤ 16) →
    (∀ i < 4, needsL2 quads pairs i = true → shares.getD i 0 ≠ 0) →
    Runs (.configure pn) s pn st fun t => (t.dev.partAt pn).configured = true ∧ (t.dev.partAt pn).quads = quads ∧
      (t.dev.partAt pn).pairs = pairs ∧
      (t.dev.partAt pn).shares = (List.range 4).map (fun i => if needsL2 quads pairs i then shares.getD i 0 else 0) ∧ (p.configured = false → (t.dev.partAt pn).clock0 = s.clock)) ∧
  (s.Commanded pn 0x11 a st → a = 0 → p.sealed = false → Runs (.sealPartition pn) s pn st fun t => (t.dev.partAt pn).sealed = true) ∧
  (s.Commanded pn 0x12 a st → a = 0 → p.preempt = none → p.saved = false → ∃ t, exec (.releasePartition pn) s = .next t ∧
    (t.dev.partAt pn).preempt = some (0, 0) ∧ t.dev.mem = s.dev.mem) ∧
  (s.Commanded pn 0x12 a st → a = 0 → p.preempt.isSome = true ∨ p.saved = true → d.drained pn = true →
    Runs (.releasePartition pn) s pn st fun t => (t.dev.partAt pn).configured = false ∧ (t.dev.partAt pn).quads = 0 ∧
      (t.dev.partAt pn).pairs = 0 ∧ ∀ k x, tget t.dev.asids k = some x → x.part ≠ pn) ∧
  (s.Commanded pn 0x28 a st → f 0 8 % 4096 = 0 → f 8 8 % 4096 = 0 → (∀ l ∈ d.launches, l.2.part ≠ pn) →
    f 8 8 = 0 ∨ p.inPairs (f 0 8) (f 8 8) = true → Runs (.setOverflowArea pn) s pn st fun t =>
      (t.dev.partAt pn).ovfBase = f 0 8 ∧ (t.dev.partAt pn).ovfSize = f 8 8) ∧
  (∀ x, s.Commanded pn 0x27 a st → f 0 1 ≠ 0 → f 0 1 < 8 → f 1 1 ≤ 1 → f 2 2 < 4096 → f 5 3 = 0 → f 0x10 8 = 0 → 4 ≤ f 4 1 → f 4 1 ≤ 12 →
    f 8 8 % 64 = 0 → d.unfetched pn (f 0 1) = 0 → d.asidIn pn (f 2 2) = some x →
    (f 1 1 = 1 → p.inPairs (f 8 8) (64 * 2 ^ f 4 1) = true) → Runs (.setQueue pn) s pn st fun t =>
      t.dev.hq pn (f 0 1) = { d.hq pn (f 0 1) with
        set_ := true, dev := decide (f 1 1 = 1), base := f 8 8, logc := f 4 1, asid := some (f 2 2), head := 0, tail := 0 }) ∧
  (∀ x, s.Commanded pn 0x27 a st → f 0 1 = 0 → f 1 1 ≤ 1 → f 2 2 < 4096 → f 5 3 = 0 → f 0x10 8 = 0 → d.unfetched pn 0 ≤ 1 →
    d.asidIn pn (f 2 2) = some x → Runs (.setQueue pn) s pn st fun t => (t.dev.hq pn 0).asid = some (f 2 2)) ∧
  (s.Commanded pn 0x31 a st → f 0 1 < 8 → f 2 6 = 0 →
    (f 1 1 = 0 → Runs (.enrolKey pn) s pn st fun t => tget (t.dev.partAt pn).keys (f 0 1) = some (leBytes 48 (f 8 48))) ∧
    (f 1 1 = 1 → (tget p.keys (f 0 1)).isSome = true → Runs (.withdrawKey pn) s pn st fun t =>
      tget (t.dev.partAt pn).keys (f 0 1) = none)) ∧
  (s.Commanded pn 0x32 a st → f 2 6 = 0 →
    (f 0 2 < p.cap → Runs (.setPowerCap pn) s pn st fun t => (t.dev.partAt pn).cap = f 0 2) ∧
    (p.cap ≤ f 0 2 → ∃ t, exec (.setPowerCap pn) s = .next t ∧ s.Told t pn st 0x301 ∧ (t.dev.partAt pn).cap = p.cap))

/-- ASID_CREATE, ASID_DESTROY, WRITE_RANGE_ENTRY, PAGES_WRITE, PAGES_INVALIDATE and WRITE_TENSOR_RECORD (R196 to R202, R277, R380): the
address space is known, or is not and no core holds code of it; the tables in memory, which lie in the partition's stack pairs, hold what
the operand gives, once no storage that they map anew is in quarantine. PAGES_INVALIDATE leaves each entry wholly 0 (log entry 70). -/
def Obligations.AddressSpaceCommandsComplete : Prop := ∀ (s : State) (pn a st : Nat), let d := s.flush.dev
  let p := d.partAt pn
  let f := s.opnd pn a
  (s.Commanded pn 0x20 a st → fieldN (f 0 8) 12 3 = 0 → f 2 6 = 0 →
    (bitN (f 0 2) 15 = false → f 8 8 % 4096 = 0 → f 0x10 8 % 2048 = 0 → f 0x18 8 % 128 = 0 → f 0x20 8 ≤ 65536 →
      tget d.asids (f 0 2 % 4096) = none → p.inPairs (f 8 8) 4096 = true → p.inPairs (f 0x10 8) 2048 = true →
      p.inPairs (f 0x18 8) (128 * f 0x20 8) = true →
      d.FreeOf ((((List.range 64).flatMap fun i => rangeTarget d.mem (f 0x10 8 + 32 * i)) ++ frames d.mem 5 (f 8 8)).flatMap p.clip) [] →
      Runs (.asidCreate pn) s pn st fun t =>
        tget t.dev.asids (f 0 2 % 4096) = some ⟨pn, f 8 8, f 0x10 8, f 0x18 8, f 0x20 8⟩) ∧
    (∀ x, bitN (f 0 2) 15 = true → (∀ l ∈ d.launches, l.2.part = pn → l.2.asid ≠ f 0 2 % 4096) →
      d.asidIn pn (f 0 2 % 4096) = some x → d.quarantine.length < 4096 → Runs (.asidDestroy pn) s pn st fun t =>
        tget t.dev.asids (f 0 2 % 4096) = none ∧ ∀ c, ∀ b ∈ (t.dev.coreAt c).ibuf, b.1 / 2 ^ 64 ≠ f 0 2 % 4096)) ∧
  (∀ x, s.Commanded pn 0x21 a st → f 0 2 < 4096 → f 2 2 < 64 → f 4 12 = 0 → d.asidIn pn (f 0 2) = some x →
    (bitN (f 0x28 8) 2 && bitN (f 0x28 8) 3) = false → d.quarantine.length < 4096 → s.inStacks pn (x.ranges + 32 * f 2 2) 32 →
    p.holdsTable x.ranges = true →
    (let e := x.ranges + 32 * f 2 2;
      d.FreeOf ((rangeTarget (d.mem.write e (leBytes 32 (f 0x10 32))) e).flatMap p.clip) ((rangeTarget d.mem e).flatMap p.clip)) →
    Runs (.writeRangeEntry pn) s pn st fun t => t.dev.mem.read (x.ranges + 32 * f 2 2) 32 = leBytes 32 (f 0x10 32)) ∧
  (∀ x tbl, s.Commanded pn 0x22 a st → d.asidIn pn (f 0 2) = some x → tableAt p d.mem (f 8 8) (f 2 1) 5 x.root = some tbl →
    let idx := fieldN (f 8 8) (12 + 9 * (f 2 1 - 1)) 9
    idx + f 4 2 ≤ 512 → d.quarantine.length < 4096 → s.inStacks pn tbl 4096 →
    (pagesArgs f 0 → (∀ i < f 4 2, let e := f (0x20 + 8 * i) 8
        p.entryIn (f 2 1) e = true ∧ ¬ (bitN e 2 = true ∧ bitN e 3 = true)) →
      (let es := (List.range (f 4 2)).map fun i => (d.mem.nat (tbl + 8 * (idx + i)) 8, f (0x20 + 8 * i) 8);
        d.FreeOf ((es.flatMap fun e => gainedFrames d.mem (f 2 1) e.1 e.2).flatMap p.clip)
          ((es.flatMap fun e => lostFrames d.mem (f 2 1) e.1 e.2).flatMap p.clip)) →
      Runs (.pagesWrite pn) s pn st fun t => ∀ i < f 4 2, t.dev.mem.nat (tbl + 8 * (idx + i)) 8 = f (0x20 + 8 * i) 8) ∧
    (pagesArgs f 1 → Runs (.pagesInvalidate pn) s pn st fun t => ∀ i < f 4 2, t.dev.mem.nat (tbl + 8 * (idx + i)) 8 = 0)) ∧
  (∀ x, s.Commanded pn 0x23 a st → f 0 2 < 4096 → f 4 12 = 0 → d.asidIn pn (f 0 2) = some x → f 2 2 < x.ntensors →
    s.inStacks pn (x.tensors + 128 * f 2 2) 128 → p.holdsTable (x.tensors + 128 * f 2 2) = true → Runs (.writeTensorRecord pn) s pn st fun t =>
      t.dev.mem.read (x.tensors + 128 * f 2 2) 128 = leBytes 128 (f 0x10 128))

/-- WRITE_GROUP_ENTRY, WRITE_EXPORT_ENTRY, BIND_BRIDGE_SENDER, BIND_BRIDGE_RECEIVER, UNBIND_BRIDGE, BIND_POD_GROUP and UNBIND_POD_GROUP
(R294, R368, R372 to R374, R380): the table entry is as the operand says, whatever its valid bit; unbinding frees the side of the bridge
that the partition holds, sender or receiver, and leaves the other bound (log entry 56); a member list that does not name this device at its rank is
rejected with detail 0x04. -/
def Obligations.TableCommandsComplete : Prop := ∀ (s : State) (pn a st : Nat), let d := s.flush.dev
  let p := d.partAt pn
  let f := s.opnd pn a
  (s.Commanded pn 0x24 a st → f 1 1 ≤ 1 → 1 ≤ f 2 2 → f 2 2 ≤ 16384 → f 4 4 < f 2 2 → let ms := d.members pn (f 8 8) (f 2 2)
    ∃ t, exec (.writeGroupEntry pn) s = .next t ∧ if namesMe ms (f 4 4) = true then s.Told t pn st 0 ∧
        (f 1 1 = 0 → (t.dev.partAt pn).group (f 0 1) = none) ∧
        (f 1 1 = 1 → ∃ g, (t.dev.partAt pn).group (f 0 1) = some g ∧ g.m = f 2 2 ∧ g.rank = f 4 4 ∧ g.members = ms)
      else s.Told t pn st 0x401 ∧ (t.dev.partAt pn).groups = p.groups) ∧
  (s.Commanded pn 0x25 a st → f 0 1 < 64 → f 1 1 < 8 → f 2 6 = 0 → f 0x18 2 < 2 ^ 14 → f 0x1A 2 < 2 ^ 14 → f 0x1C 4 = 0 → f 0x28 8 = 0 →
    f 8 8 < f 0x10 8 → p.inPairs (f 0x20 8) (f 0x10 8 - f 8 8) = true →
    Runs (.writeExportEntry pn) s pn st fun t => tget (t.dev.partAt pn).exports (f 0 1) = some ⟨bitN (f 1 1) 0, bitN (f 1 1) 1,
      bitN (f 1 1) 2, f 8 8, f 0x10 8, f 0x18 2, f 0x1A 2, f 0x20 8⟩) ∧
  (s.Commanded pn 0x26 a st → let b := tgetD d.bridges (f 0 1) .empty
    (bridgeArgs f 0 → 1 ≤ f 4 1 → f 4 1 ≤ 12 → b.sender = none ∨ b.sender = some (pn, f 2 1) →
      b.receiver = none ∨ b.receiver = some (f 2 1, pn) → Runs (.bindBridgeSender pn) s pn st fun t =>
        tget t.dev.bridges (f 0 1) = some { b with sender := some (pn, f 2 1), cap := 2 ^ f 4 1 }) ∧
    (bridgeArgs f 1 → b.receiver = none ∨ b.receiver = some (pn, f 2 1) → b.sender = none ∨ b.sender = some (f 2 1, pn) →
      Runs (.bindBridgeReceiver pn) s pn st fun t =>
        tget t.dev.bridges (f 0 1) = some { b with receiver := some (pn, f 2 1) }) ∧
    (bridgeArgs f 2 → f 2 1 ≠ pn → b.sender = some (pn, f 2 1) → b.receiver = none ∨ b.receiver = some (f 2 1, pn) →
      Runs (.unbindBridge pn) s pn st fun t =>
        tget t.dev.bridges (f 0 1) = some { b with sender := none, ring := [], took := (0, 0), acted := (0, 0) }) ∧
    (bridgeArgs f 2 → f 2 1 ≠ pn → b.receiver = some (pn, f 2 1) → b.sender = none ∨ b.sender = some (f 2 1, pn) →
      Runs (.unbindBridge pn) s pn st fun t =>
        tget t.dev.bridges (f 0 1) = some { b with receiver := none, ring := [], took := (0, 0), acted := (0, 0) })) ∧
  (s.Commanded pn 0x29 a st → f 0 1 < 16 → f 2 2 = 0 → f 0xC 4 = 0 →
    (f 1 1 = 0 → 1 ≤ f 8 2 → f 8 2 ≤ 16384 → f 0xA 2 < f 8 2 → (∀ x ∈ p.pods, x.1 ≠ f 0 1 → x.2.key ≠ f 4 4) →
      let ms := (d.members pn (f 0x10 8) (f 8 2)).map (· % 2 ^ 14)
      ∃ t, exec (.bindPodGroup pn) s = .next t ∧ if namesMe ms (f 0xA 2) = true then s.Told t pn st 0 ∧
          tget (t.dev.partAt pn).pods (f 0 1) = some ⟨f 4 4, f 8 2, f 0xA 2, ms, false⟩
        else s.Told t pn st 0x401 ∧ (t.dev.partAt pn).pods = p.pods) ∧
    (f 1 1 = 1 → (∀ l ∈ d.launches, l.2.part = pn → l.2.podgrp ≠ some (f 0 1)) →
      Runs (.unbindPodGroup pn) s pn st fun t => tget (t.dev.partAt pn).pods (f 0 1) = none))

/-- LOAD_CODE_OBJECT (R385, R393, R394): the checks of R393 in their order, each with its detail, and then the object's kernels can be
launched. CANCEL_LAUNCH (R380): the launch that runs ends with status 4, and one that waits is gone. -/
def Obligations.LoadCancelComplete : Prop := ∀ (s : State) (pn a st : Nat), let d := s.flush.dev
  let p := d.partAt pn
  let f := s.opnd pn a
  (∀ x bs, s.Commanded pn 0x30 a st → f 0x10 8 < 4096 → f 0x18 8 % 4096 = 0 → f 0x20 8 % 4096 = 0 → d.asidIn pn (f 0x10 8) = some x →
    d.readVirt (f 0x10 8) pn (f 0 8) (f 8 8) = some bs → let h := ObjHdr.of bs
    let pages := pagesOf (f 0x18 8) h.textsize
    ∃ t, exec (.loadCodeObject pn) s = .next t ∧
      if h.rev < 8 ∨ 12 < h.rev then s.Told t pn st 0x301 ∧ (t.dev.partAt pn).kernels = p.kernels
      else if ∀ k ∈ p.keys, slhVerify k.2 ((bs.drop h.sigoff).take 16224) (bs.take h.sigoff) = false then
        s.Told t pn st 0x401 ∧ (t.dev.partAt pn).kernels = p.kernels
      else if h.layoutOk bs = false then s.Told t pn st 0x501 ∧ (t.dev.partAt pn).kernels = p.kernels
      else if (∃ v ∈ pages ++ pagesOf (f 0x20 8) h.datasize, d.writable (f 0x10 8) pn v = none) ∨
          ∃ v ∈ pages, (rangeHit p d.mem x v 8).isSome = true then s.Told t pn st 0x701 ∧ (t.dev.partAt pn).kernels = p.kernels
      else s.Told t pn st 0 ∧ ∀ i < h.nk, (f 0x10 8, h.kernel bs (f 0x18 8) i) ∈ (t.dev.partAt pn).kernels) ∧
  (s.Commanded pn 0x40 a st → f 0 1 < 8 → f 1 7 = 0 → f 0 1 = 0 ∨ d.unfetched pn (f 0 1) = 0 →
    (∀ l y, (d.hq pn (f 0 1)).running = some l → tget d.launches l = some y → y.desc = f 8 8 →
      Runs (.cancelLaunch pn) s pn st fun t => tget t.dev.launches l = some { y with ending := some (y.ending.getD (4, [])) }) ∧
    ((d.hq pn (f 0 1)).running = none → (d.hq pn (f 0 1)).waiting.contains (f 8 8) = true →
      Runs (.cancelLaunch pn) s pn st fun t => (t.dev.hq pn (f 0 1)).waiting = (d.hq pn (f 0 1)).waiting.erase (f 8 8)))

/-- PREEMPT, DRAIN_END and RESTORE (R345 to R350): the partition halts, with its save area known; once it has drained it is saved and
holds no launch; a partition that is large enough and runs no launch (log entry 131) takes over the launches of the save that an area
holds, which it holds by its bytes (log entry 37), and which is then used up (log entry 57). -/
def Obligations.PreemptionCompletes : Prop := ∀ (s : State) (pn a st : Nat), let d := s.flush.dev
  let p := d.partAt pn
  let f := s.opnd pn a
  (s.Commanded pn 0x13 a st → f 0 8 % 4096 = 0 → p.preempt = none → p.saved = false → p.inPairs (f 0 8) (f 8 8) = true →
    saveSize (countBits p.quads.toNat 128) (d.asids.filter fun x => x.2.part = pn).length ≤ f 8 8 →
    ∃ t, exec (.preempt pn) s = .next t ∧ (t.dev.partAt pn).preempt = some (f 0 8, f 8 8) ∧ t.dev.mem = s.dev.mem) ∧
  (∀ base size, d.privCmd pn 0x13 = some (a, st) → p.preempt = some (base, size) → d.drained pn = true → s.flush.savePaused pn base = false →
    Runs (.drainEnd pn) s pn st fun t => (t.dev.partAt pn).saved = true ∧ (t.dev.partAt pn).preempt = none ∧
      (∃ n x, tget t.dev.saves n = some x ∧ x.part = pn ∧ x.quads = p.quads.toNat) ∧ ∀ l ∈ t.dev.launches, l.2.part ≠ pn) ∧
  (∀ n x, s.Commanded pn 0x14 a st → f 0x10 8 ≤ 1 → (∀ l ∈ d.launches, l.2.part ≠ pn) → d.rangePaused (f 0 8) (f 8 8) = false →
    p.inPairs (f 0 8) (f 8 8) = true → d.saveIn (f 0 8) (f 8 8) (f 0x10 8 == 1) = some (n, x) →
    countBits x.quads 128 ≤ (d.liveQuads pn).length → countBits x.pairs 8 ≤ countBits p.pairs.toNat 8 →
    x.shares.foldl (· + ·) 0 ≤ p.shares.foldl (· + ·) 0 →
    Runs (.restore pn) s pn st fun t => (t.dev.partAt pn).saved = false ∧ tget t.dev.saves n = none ∧
      ∀ l ∈ x.launches, ∃ y, tget t.dev.launches l.1 = some y ∧ y.part = pn)

end

/-! ## The ports, the debug blocks, and what befalls the package (R237, R239, R364 to R372, R376 to R387, R403 to R413) -/

section
open Sys2Proof Sys2Proof.Machine

/-- Semaphores (R376): an acquiring write takes a free semaphore with the port and the tag, and a held one ignores it; the holder's
freeing write frees it, with port and tag 0, and the other port's is ignored. Of two acquiring writes of one clock to a free
semaphore the port that lost the previous tie wins, port 0 the first. -/
def Obligations.SemaphoreRule : Prop := ∀ (s : State) (port n : Nat) (tag : BitVec 16), n < 32 → port < 2 → let d := s.flush.dev
  ((d.sem n).held = false → ∃ t, exec (.semaphoreAcquire port n tag) s = .next t ∧ t.dev.sem n = ⟨true, port, tag, some s.clock⟩ ∧
    (∀ k, k ≠ n → t.dev.sem k = d.sem k) ∧ t.dev.mem = s.dev.mem) ∧
  ((d.sem n).held = true → ¬ ((d.sem n).wonAt = some s.clock ∧ (d.sem n).port ≠ port) → ∃ t, exec (.semaphoreAcquire port n tag) s = .next t ∧
    (∀ k, t.dev.sem k = d.sem k) ∧ t.dev.mem = s.dev.mem) ∧
  ((d.sem n).held = true → (d.sem n).port = 1 - port → (d.sem n).wonAt = some s.clock →
    d.tieLast = none ∨ d.tieLast = some 0 ∨ d.tieLast = some 1 → ∃ t, exec (.semaphoreAcquire port n tag) s = .next t ∧
      (t.dev.sem n).held = true ∧ (t.dev.sem n).port = (match d.tieLast with | some w => 1 - w | none => 0) ∧
      (∀ k, k ≠ n → t.dev.sem k = d.sem k) ∧ t.dev.mem = s.dev.mem) ∧
  ((d.sem n).held = true → (d.sem n).port = port → ∃ t, exec (.semaphoreFree port n) s = .next t ∧ t.dev.sem n = Sema.free ∧
    (∀ k, k ≠ n → t.dev.sem k = d.sem k) ∧ t.dev.mem = s.dev.mem) ∧
  ((d.sem n).held = false ∨ (d.sem n).port ≠ port → ∃ t, exec (.semaphoreFree port n) s = .next t ∧
    (∀ k, t.dev.sem k = d.sem k) ∧ t.dev.mem = s.dev.mem)

/-- Control blocks (R379), DEVT (R381), the trace control (R403), causal trials (R410), stops (R411, R412) and samples (R408): what
the owner's writes do, that other ports' do nothing, the end of a trial, a breakpoint met, and the turn of the next sample. DEVT belongs
to no partition: a write of it from either port clears its bits (log entry 58). -/
def Obligations.DebugRegistersComplete : Prop :=
  (∀ (s : State) (port pn : Nat) (v : Word), let d := s.flush.dev
    (pn < 8 → d.holder pn = some port → (d.partAt pn).configured = false →
      (∃ t, exec (.controlBlockWrite port pn 0 v) s = .next t ∧ (t.dev.partAt pn).cqbase = v &&& ~~~0xFFF#64 ∧
        (t.dev.hq pn 0).head = 0 ∧ (t.dev.hq pn 0).tail = 0) ∧
      (∃ t, exec (.controlBlockWrite port pn 8 v) s = .next t ∧ (t.dev.partAt pn).cqcap = v.toNat % 16)) ∧
    (d.holder pn ≠ some port ∨ (d.partAt pn).configured = true → ∀ off, ∃ t, exec (.controlBlockWrite port pn off v) s = .next t ∧
      t.dev = d)) ∧
  (∀ (s : State) (port : Nat) (v : Word), (∃ t, exec (.registerWrite port 0x3000 v) s = .next t ∧
      t.dev = { s.flush.dev with devt := s.dev.devt &&& ~~~(v.setWidth 6) }) ∧
    ∀ off, 0x140000 ≤ off → ∃ t, exec (.registerWrite port off v) s = .next t ∧ t.dev = s.flush.dev) ∧
  (∀ (s : State) (port c pn : Nat) (v : Word), let d := s.flush.dev
    let co := d.coreAt c
    let sp := v.toNat / 2 ^ 8 % 32
    d.ownerOf (quadOf c) = some pn →
    (d.holder pn = some port → 6 ≤ sp → sp ≤ 20 → co.dbg.ctl.getLsbD 0 = false →
      (v.getLsbD 0 = false → ∃ t, exec (.traceControlWrite port c v) s = .next t ∧
        (t.dev.coreAt c).dbg = { co.dbg with ctl := v &&& 0xFF1F1F#64 } ∧ t.dev.mem = s.dev.mem) ∧
      (v.getLsbD 0 = true → tsizeOk co.dbg.tsize.toNat = true →
        (d.partAt pn).bufferOk co.dbg.tbase.toNat co.dbg.tsize.toNat = true → d.paused co.dbg.tbase.toNat = false → ∃ t, exec (.traceControlWrite port c v) s = .next t ∧
          (t.dev.coreAt c).dbg.ctl = v &&& 0xFF1F1F#64 ∧ (t.dev.coreAt c).dbg.twp = 9 ∧ (t.dev.coreAt c).dbg.trd = 0 ∧
          t.dev.mem.get co.dbg.tbase.toNat = 0x10 ∧
          t.dev.mem.nat (co.dbg.tbase.toNat + 1) 8 = (d.partAt pn).now s.clock % 2 ^ 64)) ∧
    (d.holder pn ≠ some port → ∃ t, exec (.traceControlWrite port c v) s = .next t ∧ t.dev = d)) ∧
  (∀ (s : State) (port pn : Nat) (v : Word), pn < 8 → s.flush.dev.holder pn = some port → v.getLsbD 0 = true →
    let p := s.flush.dev.partAt pn
    (∃ t, exec (.causalTrialGo port pn v) s = .next t ∧ (t.dev.partAt pn).trial = some (s.clock + p.ctdur.toNat) ∧
      (t.dev.partAt pn).ctstat = 1 ∧ ∀ c, p.hasQuad (quadOf c) = true → (t.dev.coreAt c).prog = [] ∧ (t.dev.coreAt c).progStop = false) ∧
    (p.stop = none → ∃ t x, exec (.stopWrite port pn v) s = .next t ∧ (t.dev.partAt pn).stop = some x ∧ x.src = 4) ∧
    (p.stop.isSome = true → ∃ t, exec (.resumeWrite port pn v) s = .next t ∧ (t.dev.partAt pn).stop = none ∧
      ∀ c sl st i q, p.hasQuad (quadOf c) = true → s.flush.strandAt c sl = some st → tget st.paths i = some q → q.status = .debug →
        ∃ st', t.strandAt c sl = some st' ∧ tget st'.paths i = some { q with status := .ready })) ∧
  (∀ (s : State) (pn t0 : Nat), (s.flush.dev.partAt pn).trial = some t0 →
    (t0 ≤ s.clock → ∃ t, exec (.causalTrialEnd pn) s = .next t ∧ (t.dev.partAt pn).trial = none ∧
      (t.dev.partAt pn).ctstat.getLsbD 1 = true ∧ (t.dev.partAt pn).ctstat.getLsbD 0 = false) ∧
    (s.clock < t0 → ∃ t, exec (.causalTrialEnd pn) s = .next t ∧ t.dev = s.flush.dev)) ∧
  (∀ (s u : State) (p : PRef) (n : Nat), s.load p.core p.slot p.path = some u → u.path.status = .ready → u.breakpoint = some n →
    u.part.stop = none → ∃ t x, exec (.breakpointHit p) s = .next t ∧ t.path.status = .debug ∧ u.path.SameNames t.path ∧
      t.path.pc = u.path.pc ∧ t.path.pass = u.path.pass ++ [(n, u.path.pc)] ∧ (t.dev.partAt u.partNo).stop = some x ∧ x.src = 1 ∧ x.n = n) ∧
  (∀ (s : State) (c sl i : Nat) (st : Strand) (q : Path), let co := s.flush.dev.coreAt c
    co.dbg.on 4 = true → co.dbg.sampledAt + 2 ^ (co.dbg.ctl.toNat / 2 ^ 8 % 32) ≤ s.clock →
    nextSlot co.dbg.sampleSlot co.sampled = some sl → tget co.strands sl = some st →
    ∀ k, (let want := if co.dbg.sampleNext.getLsbD sl then 1 else 0
      k = want ∨ k = 1 - want ∧ ∀ e ∈ st.paths, e.2.slot ≠ some want) → st.paths.find? (fun p => p.2.slot == some k) = some (i, q) →
    ∃ t, exec (.sample c) s = .next t ∧ (t.dev.coreAt c).dbg.sampleSlot = sl ∧ (t.dev.coreAt c).dbg.sampledAt = s.clock ∧
      ∀ j, (t.dev.coreAt c).dbg.sampleNext.getLsbD j = if j = sl then k == 0 else co.dbg.sampleNext.getLsbD j)

/-- POWER_ON_RESET (whichever firmware slot comes up), LINK_DOWN, SEMAPHORE_LINK_FREE, DIE_FENCE, MASTER_ELECTION, STACK_SELF_REFRESH, STACK_RESUME, STACK_FENCE and
QUARANTINE_RELEASE (R202, R237, R239, R364 to R366, R377, R386, R387): what each leaves; storage in quarantine is zeroed and released
once every access in flight was posted after it. That device memory is zero and the host's is kept at POWER_ON_RESET is log entries 2 and
65; the 8,000,000 clocks of a stack's recovery and the single freeing of a lost link's semaphores are log entry 62. -/
def Obligations.ReliabilityCompletes : Prop :=
  (∀ s : State, ∃ t, exec .powerOnReset s = .next t ∧ t.dev = { State.reset.dev with mem := t.dev.mem, fwSlot := t.dev.fwSlot } ∧ t.focus = none ∧
    ∀ a, t.dev.mem.get a = if a < 2 ^ 64 then 0 else s.dev.mem.get a) ∧
  (∀ (s : State) (port : Nat), port < 2 → s.flush.dev.linkAt port = none →
    ∃ t, exec (.linkDown port) s = .next t ∧ t.dev.linkAt port = some s.clock ∧ t.dev.sems = s.dev.sems) ∧
  (∀ (s : State) (port t0 : Nat), s.flush.dev.linkAt port = some t0 →
    (t0 + 1600 ≤ s.clock → ∃ t, exec (.semaphoreLinkFree port) s = .next t ∧ (∀ n < 32, t.dev.holder n ≠ some port) ∧
      ∀ n < 32, s.flush.dev.holder n ≠ some port → t.dev.sem n = s.flush.dev.sem n) ∧
    (s.clock < t0 + 1600 → ∃ t, exec (.semaphoreLinkFree port) s = .next t ∧ t.dev = s.flush.dev)) ∧
  (∀ (s : State) (die : Nat) (l2 : Bool), die < 4 → (s.flush.dev.dieAt die).fenced = false →
    ∃ t, exec (.dieFence die l2) s = .next t ∧ (t.dev.dieAt die).fenced = true ∧
      (∀ c, dieOf c = die → (t.dev.coreAt c).strands = [] ∧ (t.dev.coreAt c).cohorts = []) ∧
      (∀ l x, tget s.flush.dev.launches l = some x → (s.flush.dev.launches.map (·.1)).Nodup → s.flush.dev.struck l die x = true →
        x.reissuable = false → x.ending = none → ∃ y, tget t.dev.launches l = some y ∧ y.ending = some (3, []))) ∧
  (∀ (s : State) (pn c m : Nat) (ms : List Nat), (s.flush.dev.partAt pn).electing = some c → s.flush.dev.diesOf pn = m :: ms →
    ∃ t, exec (.masterElection pn) s = .next t ∧ (t.dev.partAt pn).master = m ∧ (t.dev.partAt pn).electing = none) ∧
  (∀ (s : State) (n : Nat), (s.flush.dev.stack n).fenced = false →
    (n < 16 → (s.flush.dev.stack n).refresh = none →
      ∃ t, exec (.stackSelfRefresh n) s = .next t ∧ (t.dev.stack n).refresh = some s.clock ∧ (t.dev.stack n).fenced = false) ∧
    (∀ c, (s.flush.dev.stack n).refresh = some c →
      (∃ t, exec (.stackResume n) s = .next t ∧ (t.dev.stack n).refresh = none ∧ (t.dev.stack n).fenced = false) ∧
      (c + 8000000 ≤ s.clock → ∃ t, exec (.stackFence n) s = .next t ∧ (t.dev.stack n).fenced = true))) ∧
  (∀ s : State, let q := s.flush.dev.quarantine
    ∃ t, exec .quarantineRelease s = .next t ∧
      (∀ e, e ∈ t.dev.quarantine ↔ e ∈ q ∧ ∃ k ∈ s.flush.dev.tickets, k ≤ e.1) ∧
      ∀ a, t.dev.mem.get a = if ∃ e ∈ q, e ∉ t.dev.quarantine ∧ ∃ r ∈ e.2, r.1 ≤ a ∧ a < r.1 + r.2 then 0 else s.dev.mem.get a)

/-- FIRMWARE_HANDOVER, SHANOV_LINK_FAILURE, POD_GROUP_LIVE, REMOTE_ACCESS, and the events that change latency only (R368 to R372, R377,
R385, R386): the idle firmware slot takes over for the holder of semaphore 8 when its image verifies and starts; a device cut off is on
record; a pod group becomes live once its members here have bound it alike, those elsewhere taken as bound (log entry 63); a request, of at
most 64 bytes and with the strand that log entry 64 describes, that an entry of the export table grants is
performed at its home, unless it conflicts with a tag there (R221), and any other is refused and counted. -/
def Obligations.FabricCompletes : Prop :=
  (∀ (s : State) (port : Nat) (image sig : List Byte) (starts : Bool), let ok := slhVerify Config.fuseKey sig image && starts
    (s.flush.dev.holder 8 = some port → ∃ t, exec (.firmwareHandover ⟨port, image, sig, starts⟩) s = .next t ∧
      t.dev.fwSlot = (if ok then !s.dev.fwSlot else s.dev.fwSlot) ∧ t.dev.devt.getLsbD (if ok then 3 else 4) = true ∧
      t.dev.mem = s.dev.mem ∧ t.dev.cores = s.flush.dev.cores) ∧
    (s.flush.dev.holder 8 ≠ some port → ∃ t, exec (.firmwareHandover ⟨port, image, sig, starts⟩) s = .next t ∧ t.dev = s.flush.dev)) ∧
  (∀ (s : State) (dev : Nat), (∃ t, exec (.shanovLinkFailure dev true) s = .next t ∧ t.dev.cut.contains dev = true ∧
      t.dev.mem = s.dev.mem) ∧ exec (.shanovLinkFailure dev false) s = .next s.flush) ∧
  (∀ (s : State) (pn slot : Nat) (x : PodSlot), tget (s.flush.dev.partAt pn).pods slot = some x →
    ∃ t, exec (.podGroupLive pn slot) s = .next t ∧ if s.flush.dev.allBound x = true then
      tget (t.dev.partAt pn).pods slot = some { x with live := true } else t.dev = s.flush.dev) ∧
  (∀ (s : State) (n c i : Nat), exec (.hbmChannelSparing n) s = .next s.flush ∧
    exec (.refreshPostponementLimit c i) s = .next s.flush) ∧
  (∀ (s : State) (pn dev : Nat) (addr : Word) (who : RemoteStrand) (r : RemoteReq), let d := s.flush.dev
    let grant := (d.partAt pn).exports.findSome? fun e => e.2.grants (d.partAt pn) dev addr.toNat r
    let races := fun (a : Nat) => who.sid ≠ 0 ∧
      (reqAccs a (reqLen r)).any (s.flush.races (remoteIdentity dev who.sid) who.core (reqWrites r)) = true
    (grant = none → ∃ t, exec (.remoteAccess pn dev addr ⟨who, r⟩) s = .next t ∧
      (t.dev.partAt pn).refused = (d.partAt pn).refused + 1 ∧ t.dev.replies = d.replies ++ [(dev, none)] ∧ t.dev.mem = s.dev.mem) ∧
    (∀ a, grant = some a → (∀ i < reqLen r, d.paused (a + i) = false ∧ d.lost (a + i) = false) →
      (∀ n, r = .load n → ¬ races a → ∃ t, exec (.remoteAccess pn dev addr ⟨who, r⟩) s = .next t ∧
        t.dev.replies = d.replies ++ [(dev, some (s.dev.mem.read a n))] ∧ t.dev.mem = s.dev.mem) ∧
      (∀ bs, r = .store bs → ¬ races a → ∃ t, exec (.remoteAccess pn dev addr ⟨who, r⟩) s = .next t ∧ t.dev.mem = s.dev.mem.write a bs ∧
        t.dev.replies = d.replies ++ [(dev, some [])]) ∧
      (reqPlain r = true → races a → ∃ t, exec (.remoteAccess pn dev addr ⟨who, r⟩) s = .next t ∧
        t.dev.replies = d.replies ++ [(dev, none)] ∧ t.dev.mem = s.dev.mem) ∧
      (∀ k ty v w, r = .atomic k ty v w → let old := BitVec.ofNat 64 (s.dev.mem.nat a ty.size)
        ∃ t, exec (.remoteAccess pn dev addr ⟨who, r⟩) s = .next t ∧
          t.dev.mem = s.dev.mem.write a (leBytes ty.size (atomVal k ty old v w).toNat) ∧
          t.dev.replies = d.replies ++ [(dev, some (leBytes ty.size old.toNat))])))

/-! ## The machine as a whole -/

/-- Counted reads (R70, R24, R25): a register instruction whose sources cannot be read raises EXNAME, whatever its mask; one whose
sources can, but whose destination is live once the reads are taken, raises NAMEBUSY; both trap the whole path with no effect; else
the reads are taken and the result is written. -/
def Obligations.CountedReads : Prop := ∀ i s r, (IntegerForm s i r ∨ MoveForm s i r ∨ FloatForm s i r) → s.path.windowOpen = false →
  (s.path.hasReads (readNames r.srcs) = false → ∃ t, exec i s = .next t ∧ s.Raised t 0x03 0) ∧
  (s.CanRead r.srcs (s.enabled r.d r.mask) → ∀ n c, destName r.d = some (n, c) →
    ((s.afterReads r.srcs).path.get n).any Rec.live = true → ∃ t, exec i s = .next t ∧ s.Raised t 0x04 0) ∧
  (s.CanRun r → ∃ t, exec i s = .next t ∧ s.RegResult t r)

/-- No instruction and no event ends a run: every one answers a next state, and so does every step. -/
def Obligations.NothingStops : Prop := (∀ i s, ∃ t, exec i s = .next t) ∧ ∀ s, ∃ t, step s = .next t

/-- A step whose turn is a core's (the clocks of the turn pass first; the schedule is the model's, log entry 5) runs the instruction
that the words at the address of the first path in the order of R151 decode to (R31, R57), when that path may issue, the window lets it
and its pipe is free, and then what follows at once from a stop (R412) and from a change of paths; a word that does not decode raises ILLOP there with the step
of R59 that fails. A path that has stalled without issuing gives the clock to the next. -/
def Obligations.StepRunsDecoded : Prop :=
  ∀ (s u : State) (dt c sl p : Nat) (ts : List Turn) (rest : List (Nat × Nat)) (w : Word), s.turns = ⟨dt, .core c⟩ :: ts →
    let v := ({ s with turns := ts } : State).tick dt
    (v.flush.dev.coreAt c).order v.clock = (sl, p) :: rest → v.load c sl p = some u → u.canIssue = true → u.breakpoint = none →
    u.path.blk.wordAt u.path.pc = some w → u.path.hasWord = true →
    (∀ i t, decode w (u.path.blk.wordAt (u.path.pc + 8)) = .ok i → gateOf u.path (majorOf w) (usesInstr i) = .go →
      u.pipeFree i = true → u.streamHolds i = false → exec i u = .next t →
      (progressed v (t.occupied u c i) c sl p = true → step s = .next (t.occupied u c i).haltStops.settleAll) ∧
      (progressed v (t.occupied u c i) c sl p = false → ∀ x, issueFirst exec c rest (t.occupied u c i) = .next x →
        step s = .next x.haltStops.settleAll)) ∧
    (∀ n, decode w (u.path.blk.wordAt (u.path.pc + 8)) = .error n → u.path.window = none →
      step s = .next (State.haltStops { u with path := u.path.trapped { u.path.trapHere 0x01 with step := n } }).settleAll)

/-- Words laid out as the manual's encodings give them decode to the instructions that they stand for, and illegal words fail at the step
of R59 that forbids them (R47 to R55, R59, R91, R92, R250, R317, R396). -/
def Obligations.DecodesSpecWords : Prop :=
  decode 0x0400040290040400 none = .ok (.add ⟨0, .i32, .vec 5 2, .vec 1, .vec 2⟩) ∧
  decode 0x0C20040108040400 none = .ok (.cmpLt ⟨0, .i32, false, 2, .vec 1, .vec 2⟩) ∧
  decode 0x102005008C400004 none = .ok (.cmpiLt ⟨0, .n32, false, 1, .special 0, 4⟩) ∧
  decode 0x1410074088001000 none = .ok (.movi ⟨0, .n64, .scl 1 1, 0x1000⟩) ∧
  decode 0x2000000007FFFFFA none = .ok (.br (-6)) ∧
  decode 0x2010020000000006 none = .ok (.brd 2 false 6) ∧
  decode 0x2400000007FFFFFE none = .ok (.brw 0 0 false (-2)) ∧
  decode 0x2800008100000000 (some 0x400008) = .ok (.wset ⟨0, .scl 1, 0, 0, 0, 0, 4, 8⟩) ∧
  decode 0xA00234840A100462 none = .ok (.ldG ⟨2, 3, .i32, true, .vec 8 1, .scl 4, .vec 2, 3, 2⟩) ∧
  decode 0xB040075E8AF3000B none = .ok (.atomOr ⟨0, 0, .n64, .scl 61 1, .scl 60, .const 0, 0, .acq, .pkg⟩) ∧
  decode 0xDC10000800000000 (some 0x4000000000000000) = .ok (.mcl ⟨0, 0, 1, 4⟩) ∧
  decode 0 none = .error 1 ∧ decode 0x0400040290040500 none = .error 5 ∧ decode 0x0401040290040400 none = .error 3

/-- Decoding the bytes of an encoded well-formed instruction gives it back, with the bytes that follow: no bit of an encoding is
dropped (R3, R45 to R59). -/
def Obligations.EncodingRoundTrip : Prop := ∀ (i : Instr) (rest : List Byte), i.wf = true → i.isEvent = false →
  decodeBytes ((encode i).flatMap bytesOfWord ++ rest) = .ok (i, rest)

/-- Right after reset (R387): every semaphore is free, every partition is unconfigured, with no quad, stack pair or share, and its
control block zero; the package runs nothing, device memory reads as zero, and the memory keeps its canonical form. -/
def Obligations.ResetState : Prop :=
  State.reset.Inv ∧ (∀ n, State.reset.dev.sem n = ⟨false, 0, 0, none⟩) ∧
  (∀ p, let x := State.reset.dev.partAt p
    x.configured = false ∧ x.sealed = false ∧ x.quads = 0 ∧ x.pairs = 0 ∧ x.shares = [0, 0, 0, 0] ∧ x.loc = false ∧ x.cqbase = 0 ∧
      x.cqcap = 0 ∧ x.pevt = 0 ∧ State.reset.dev.hq p 0 = HQueue.empty) ∧
  (∀ c, (State.reset.dev.coreAt c).strands = [] ∧ (State.reset.dev.coreAt c).cohorts = []) ∧ State.reset.dev.asids = [] ∧
  State.reset.dev.launches = [] ∧ State.reset.focus = none ∧ ∀ a, State.reset.dev.mem.get a = 0

/-- Every step keeps the canonical form of the package's memory: rising addresses, and no byte listed that an unlisted address reads
as. -/
def Obligations.StepKeepsMemoryForm : Prop := ∀ s t : State, s.Inv → step s = .next t → t.Inv

end
end

