-- ==== Sys2Proof/Laws/Dispatch.lean ====
section
/-! SUPPORT. The meaning that `exec` calls for each constructor. -/
namespace Sys2Proof.Machine

@[simp] theorem exec_add o s : exec (.add o) s = execAdd o s := rfl
@[simp] theorem exec_sub o s : exec (.sub o) s = execSub o s := rfl
@[simp] theorem exec_mul o s : exec (.mul o) s = execMul o s := rfl
@[simp] theorem exec_mulhi o s : exec (.mulhi o) s = execMulhi o s := rfl
@[simp] theorem exec_mad o s : exec (.mad o) s = execMad o s := rfl
@[simp] theorem exec_imin o s : exec (.imin o) s = execMin o s := rfl
@[simp] theorem exec_imax o s : exec (.imax o) s = execMax o s := rfl
@[simp] theorem exec_iabs o s : exec (.iabs o) s = execAbs o s := rfl
@[simp] theorem exec_ineg o s : exec (.ineg o) s = execNeg o s := rfl
@[simp] theorem exec_iand o s : exec (.iand o) s = execAnd o s := rfl
@[simp] theorem exec_ior o s : exec (.ior o) s = execOr o s := rfl
@[simp] theorem exec_ixor o s : exec (.ixor o) s = execXor o s := rfl
@[simp] theorem exec_iandn o s : exec (.iandn o) s = execAndn o s := rfl
@[simp] theorem exec_inot o s : exec (.inot o) s = execNot o s := rfl
@[simp] theorem exec_shl o s : exec (.shl o) s = execShl o s := rfl
@[simp] theorem exec_shr o s : exec (.shr o) s = execShr o s := rfl
@[simp] theorem exec_sar o s : exec (.sar o) s = execSar o s := rfl
@[simp] theorem exec_rotl o s : exec (.rotl o) s = execRotl o s := rfl
@[simp] theorem exec_popc o s : exec (.popc o) s = execPopc o s := rfl
@[simp] theorem exec_clz o s : exec (.clz o) s = execClz o s := rfl
@[simp] theorem exec_ctz o s : exec (.ctz o) s = execCtz o s := rfl
@[simp] theorem exec_brev o s : exec (.brev o) s = execBrev o s := rfl
@[simp] theorem exec_bfx o s : exec (.bfx o) s = execBfx o s := rfl
@[simp] theorem exec_bfi o s : exec (.bfi o) s = execBfi o s := rfl
@[simp] theorem exec_sel o s : exec (.sel o) s = execSel o s := rfl
@[simp] theorem exec_divq o s : exec (.divq o) s = execDivq o s := rfl
@[simp] theorem exec_remq o s : exec (.remq o) s = execRemq o s := rfl
@[simp] theorem exec_addsat o s : exec (.addsat o) s = execAddsat o s := rfl
@[simp] theorem exec_subsat o s : exec (.subsat o) s = execSubsat o s := rfl
@[simp] theorem exec_addi o s : exec (.addi o) s = execAddi o s := rfl
@[simp] theorem exec_muli o s : exec (.muli o) s = execMuli o s := rfl
@[simp] theorem exec_andi o s : exec (.andi o) s = execAndi o s := rfl
@[simp] theorem exec_ori o s : exec (.ori o) s = execOri o s := rfl
@[simp] theorem exec_xori o s : exec (.xori o) s = execXori o s := rfl
@[simp] theorem exec_shli o s : exec (.shli o) s = execShli o s := rfl
@[simp] theorem exec_shri o s : exec (.shri o) s = execShri o s := rfl
@[simp] theorem exec_sari o s : exec (.sari o) s = execSari o s := rfl
@[simp] theorem exec_mini o s : exec (.mini o) s = execMini o s := rfl
@[simp] theorem exec_maxi o s : exec (.maxi o) s = execMaxi o s := rfl
@[simp] theorem exec_cmpEq o s : exec (.cmpEq o) s = execCmpEq o s := rfl
@[simp] theorem exec_cmpNe o s : exec (.cmpNe o) s = execCmpNe o s := rfl
@[simp] theorem exec_cmpLt o s : exec (.cmpLt o) s = execCmpLt o s := rfl
@[simp] theorem exec_cmpLe o s : exec (.cmpLe o) s = execCmpLe o s := rfl
@[simp] theorem exec_cmpGt o s : exec (.cmpGt o) s = execCmpGt o s := rfl
@[simp] theorem exec_cmpGe o s : exec (.cmpGe o) s = execCmpGe o s := rfl
@[simp] theorem exec_cmpiEq o s : exec (.cmpiEq o) s = execCmpiEq o s := rfl
@[simp] theorem exec_cmpiNe o s : exec (.cmpiNe o) s = execCmpiNe o s := rfl
@[simp] theorem exec_cmpiLt o s : exec (.cmpiLt o) s = execCmpiLt o s := rfl
@[simp] theorem exec_cmpiLe o s : exec (.cmpiLe o) s = execCmpiLe o s := rfl
@[simp] theorem exec_cmpiGt o s : exec (.cmpiGt o) s = execCmpiGt o s := rfl
@[simp] theorem exec_cmpiGe o s : exec (.cmpiGe o) s = execCmpiGe o s := rfl
@[simp] theorem exec_mov o s : exec (.mov o) s = execMov o s := rfl
@[simp] theorem exec_movi o s : exec (.movi o) s = execMovi o s := rfl
@[simp] theorem exec_drop x cnt s : exec (.drop x cnt) s = execDrop x cnt s := rfl
@[simp] theorem exec_hold x cnt s : exec (.hold x cnt) s = execHold x cnt s := rfl
@[simp] theorem exec_mmov mask md a s : exec (.mmov mask md a) s = execMmov mask md a s := rfl
@[simp] theorem exec_msel o s : exec (.msel o) s = execMsel o s := rfl
@[simp] theorem exec_lea o s : exec (.lea o) s = execLea o s := rfl
@[simp] theorem exec_leax o s : exec (.leax o) s = execLeax o s := rfl
@[simp] theorem exec_movl o s : exec (.movl o) s = execMovl o s := rfl
@[simp] theorem exec_br off s : exec (.br off) s = execBr off s := rfl
@[simp] theorem exec_brd mc neg off s : exec (.brd mc neg off) s = execBrd mc neg off s := rfl
@[simp] theorem exec_brnz x off s : exec (.brnz x off) s = execBrnz x off s := rfl
@[simp] theorem exec_brz x off s : exec (.brz x off) s = execBrz x off s := rfl
@[simp] theorem exec_call d off s : exec (.call d off) s = execCall d off s := rfl
@[simp] theorem exec_callx d t s : exec (.callx d t) s = execCallx d t s := rfl
@[simp] theorem exec_ret x s : exec (.ret x) s = execRet x s := rfl
@[simp] theorem exec_exit s : exec (.exit) s = execExit s := rfl
@[simp] theorem exec_brw w e onSet off s : exec (.brw w e onSet off) s = execBrw w e onSet off s := rfl
@[simp] theorem exec_wset o s : exec (.wset o) s = execWset o s := rfl
@[simp] theorem exec_wrd d w sel s : exec (.wrd d w sel) s = execWrd d w sel s := rfl
@[simp] theorem exec_wend w s : exec (.wend w) s = execWend w s := rfl
@[simp] theorem exec_fadd o s : exec (.fadd o) s = execFadd o s := rfl
@[simp] theorem exec_fsub o s : exec (.fsub o) s = execFsub o s := rfl
@[simp] theorem exec_fmul o s : exec (.fmul o) s = execFmul o s := rfl
@[simp] theorem exec_fma o s : exec (.fma o) s = execFma o s := rfl
@[simp] theorem exec_fmin o s : exec (.fmin o) s = execFmin o s := rfl
@[simp] theorem exec_fmax o s : exec (.fmax o) s = execFmax o s := rfl
@[simp] theorem exec_fabs o s : exec (.fabs o) s = execFabs o s := rfl
@[simp] theorem exec_fneg o s : exec (.fneg o) s = execFneg o s := rfl
@[simp] theorem exec_fcopysign o s : exec (.fcopysign o) s = execFcopysign o s := rfl
@[simp] theorem exec_fclamp o s : exec (.fclamp o) s = execFclamp o s := rfl
@[simp] theorem exec_fmax3 o s : exec (.fmax3 o) s = execFmax3 o s := rfl
@[simp] theorem exec_fmin3 o s : exec (.fmin3 o) s = execFmin3 o s := rfl
@[simp] theorem exec_fdiv o s : exec (.fdiv o) s = execFdiv o s := rfl
@[simp] theorem exec_frcp o s : exec (.frcp o) s = execFrcp o s := rfl
@[simp] theorem exec_frsq o s : exec (.frsq o) s = execFrsq o s := rfl
@[simp] theorem exec_fsqrt o s : exec (.fsqrt o) s = execFsqrt o s := rfl
@[simp] theorem exec_fexp2 o s : exec (.fexp2 o) s = execFexp2 o s := rfl
@[simp] theorem exec_flog2 o s : exec (.flog2 o) s = execFlog2 o s := rfl
@[simp] theorem exec_fsin o s : exec (.fsin o) s = execFsin o s := rfl
@[simp] theorem exec_fcos o s : exec (.fcos o) s = execFcos o s := rfl
@[simp] theorem exec_ftanh o s : exec (.ftanh o) s = execFtanh o s := rfl
@[simp] theorem exec_cvt o s : exec (.cvt o) s = execCvt o s := rfl
@[simp] theorem exec_cvtsc o s : exec (.cvtsc o) s = execCvtsc o s := rfl
@[simp] theorem exec_cvtpk o s : exec (.cvtpk o) s = execCvtpk o s := rfl
@[simp] theorem exec_fcmp o s : exec (.fcmp o) s = execFcmp o s := rfl
@[simp] theorem exec_fclass o s : exec (.fclass o) s = execFclass o s := rfl
@[simp] theorem exec_fisnan o s : exec (.fisnan o) s = execFisnan o s := rfl
@[simp] theorem exec_dot2 o s : exec (.dot2 o) s = execDot2 o s := rfl
@[simp] theorem exec_dot4 o s : exec (.dot4 o) s = execDot4 o s := rfl
@[simp] theorem exec_dot8 o s : exec (.dot8 o) s = execDot8 o s := rfl
@[simp] theorem exec_sxAdd o s : exec (.sxAdd o) s = execSxAdd o s := rfl
@[simp] theorem exec_sxMul o s : exec (.sxMul o) s = execSxMul o s := rfl
@[simp] theorem exec_sxFma o s : exec (.sxFma o) s = execSxFma o s := rfl
@[simp] theorem exec_sxMax o s : exec (.sxMax o) s = execSxMax o s := rfl
@[simp] theorem exec_sxMin o s : exec (.sxMin o) s = execSxMin o s := rfl
@[simp] theorem exec_sxCvt o s : exec (.sxCvt o) s = execSxCvt o s := rfl
@[simp] theorem exec_sxExp2 o s : exec (.sxExp2 o) s = execSxExp2 o s := rfl
@[simp] theorem exec_sxSum o s : exec (.sxSum o) s = execSxSum o s := rfl
@[simp] theorem exec_shflIdx o s : exec (.shflIdx o) s = execShflIdx o s := rfl
@[simp] theorem exec_shflUp o s : exec (.shflUp o) s = execShflUp o s := rfl
@[simp] theorem exec_shflDn o s : exec (.shflDn o) s = execShflDn o s := rfl
@[simp] theorem exec_shflXor o s : exec (.shflXor o) s = execShflXor o s := rfl
@[simp] theorem exec_bcast o s : exec (.bcast o) s = execBcast o s := rfl
@[simp] theorem exec_matchLanes o s : exec (.matchLanes o) s = execMatchLanes o s := rfl
@[simp] theorem exec_ballot d ms b s : exec (.ballot d ms b) s = execBallot d ms b s := rfl
@[simp] theorem exec_any d ms s : exec (.any d ms) s = execAny d ms s := rfl
@[simp] theorem exec_all d ms s : exec (.all d ms) s = execAll d ms s := rfl
@[simp] theorem exec_scan o s : exec (.scan o) s = execScan o s := rfl
@[simp] theorem exec_reduce o s : exec (.reduce o) s = execReduce o s := rfl
@[simp] theorem exec_mrank o s : exec (.mrank o) s = execMrank o s := rfl
@[simp] theorem exec_mand mask md ma mb s : exec (.mand mask md ma mb) s = execMand mask md ma mb s := rfl
@[simp] theorem exec_mor mask md ma mb s : exec (.mor mask md ma mb) s = execMor mask md ma mb s := rfl
@[simp] theorem exec_mxor mask md ma mb s : exec (.mxor mask md ma mb) s = execMxor mask md ma mb s := rfl
@[simp] theorem exec_mnot mask md ma s : exec (.mnot mask md ma) s = execMnot mask md ma s := rfl
@[simp] theorem exec_mpop d ma s : exec (.mpop d ma) s = execMpop d ma s := rfl
@[simp] theorem exec_mfirst d ma s : exec (.mfirst d ma) s = execMfirst d ma s := rfl
@[simp] theorem exec_mlast d ma s : exec (.mlast d ma) s = execMlast d ma s := rfl
@[simp] theorem exec_cattach quad tags s : exec (.cattach quad tags) s = execCattach quad tags s := rfl
@[simp] theorem exec_cdetach quad tags s : exec (.cdetach quad tags) s = execCdetach quad tags s := rfl
@[simp] theorem exec_cgrow d n s : exec (.cgrow d n) s = execCgrow d n s := rfl
@[simp] theorem exec_rolesw role q s : exec (.rolesw role q) s = execRolesw role q s := rfl
@[simp] theorem exec_cwidth n s : exec (.cwidth n) s = execCwidth n s := rfl
@[simp] theorem exec_cprio p s : exec (.cprio p) s = execCprio p s := rfl
@[simp] theorem exec_qsend yield q a s : exec (.qsend yield q a) s = execQsend yield q a s := rfl
@[simp] theorem exec_qrecv yield d q s : exec (.qrecv yield d q) s = execQrecv yield d q s := rfl
@[simp] theorem exec_tspawn mask q e a s : exec (.tspawn mask q e a) s = execTspawn mask q e a s := rfl
@[simp] theorem exec_qstat cap d q s : exec (.qstat cap d q) s = execQstat cap d q s := rfl
@[simp] theorem exec_ldG o s : exec (.ldG o) s = execLdG o s := rfl
@[simp] theorem exec_ldR o s : exec (.ldR o) s = execLdR o s := rfl
@[simp] theorem exec_ldH o s : exec (.ldH o) s = execLdH o s := rfl
@[simp] theorem exec_ldC o s : exec (.ldC o) s = execLdC o s := rfl
@[simp] theorem exec_stG o s : exec (.stG o) s = execStG o s := rfl
@[simp] theorem exec_stR o s : exec (.stR o) s = execStR o s := rfl
@[simp] theorem exec_stH o s : exec (.stH o) s = execStH o s := rfl
@[simp] theorem exec_ldA o s : exec (.ldA o) s = execLdA o s := rfl
@[simp] theorem exec_stA o s : exec (.stA o) s = execStA o s := rfl
@[simp] theorem exec_ldxA o s : exec (.ldxA o) s = execLdxA o s := rfl
@[simp] theorem exec_stxA o s : exec (.stxA o) s = execStxA o s := rfl
@[simp] theorem exec_ldW o s : exec (.ldW o) s = execLdW o s := rfl
@[simp] theorem exec_crpop o s : exec (.crpop o) s = execCrpop o s := rfl
@[simp] theorem exec_crpeek o s : exec (.crpeek o) s = execCrpeek o s := rfl
@[simp] theorem exec_atomAdd o s : exec (.atomAdd o) s = execAtomAdd o s := rfl
@[simp] theorem exec_atomMin o s : exec (.atomMin o) s = execAtomMin o s := rfl
@[simp] theorem exec_atomMax o s : exec (.atomMax o) s = execAtomMax o s := rfl
@[simp] theorem exec_atomAnd o s : exec (.atomAnd o) s = execAtomAnd o s := rfl
@[simp] theorem exec_atomOr o s : exec (.atomOr o) s = execAtomOr o s := rfl
@[simp] theorem exec_atomXor o s : exec (.atomXor o) s = execAtomXor o s := rfl
@[simp] theorem exec_atomExch o s : exec (.atomExch o) s = execAtomExch o s := rfl
@[simp] theorem exec_atomCas o s : exec (.atomCas o) s = execAtomCas o s := rfl
@[simp] theorem exec_atomInc o s : exec (.atomInc o) s = execAtomInc o s := rfl
@[simp] theorem exec_redAdd o s : exec (.redAdd o) s = execRedAdd o s := rfl
@[simp] theorem exec_redMin o s : exec (.redMin o) s = execRedMin o s := rfl
@[simp] theorem exec_redMax o s : exec (.redMax o) s = execRedMax o s := rfl
@[simp] theorem exec_rflush la k s : exec (.rflush la k) s = execRflush la k s := rfl
@[simp] theorem exec_pfG o s : exec (.pfG o) s = execPfG o s := rfl
@[simp] theorem exec_pfCode la base s : exec (.pfCode la base) s = execPfCode la base s := rfl
@[simp] theorem exec_fence sc s : exec (.fence sc) s = execFence sc s := rfl
@[simp] theorem exec_wait k t s : exec (.wait k t) s = execWait k t s := rfl
@[simp] theorem exec_waitall s : exec (.waitall) s = execWaitall s := rfl
@[simp] theorem exec_seal k s : exec (.seal k) s = execSeal k s := rfl
@[simp] theorem exec_ifence s : exec (.ifence) s = execIfence s := rfl
@[simp] theorem exec_bar o s : exec (.bar o) s = execBar o s := rfl
@[simp] theorem exec_barv o s : exec (.barv o) s = execBarv o s := rfl
@[simp] theorem exec_bararr o s : exec (.bararr o) s = execBararr o s := rfl
@[simp] theorem exec_bardrop level tag s : exec (.bardrop level tag) s = execBardrop level tag s := rfl
@[simp] theorem exec_abinit a n b s : exec (.abinit a n b) s = execAbinit a n b s := rfl
@[simp] theorem exec_abarrive o s : exec (.abarrive o) s = execAbarrive o s := rfl
@[simp] theorem exec_abexpect a b s : exec (.abexpect a b) s = execAbexpect a b s := rfl
@[simp] theorem exec_abwait a p s : exec (.abwait a p) s = execAbwait a p s := rfl
@[simp] theorem exec_cpy o s : exec (.cpy o) s = execCpy o s := rfl
@[simp] theorem exec_cpyMc o s : exec (.cpyMc o) s = execCpyMc o s := rfl
@[simp] theorem exec_cpyst o s : exec (.cpyst o) s = execCpyst o s := rfl
@[simp] theorem exec_cpyfill o s : exec (.cpyfill o) s = execCpyfill o s := rfl
@[simp] theorem exec_mma o s : exec (.mma o) s = execMma o s := rfl
@[simp] theorem exec_mcl o s : exec (.mcl o) s = execMcl o s := rfl
@[simp] theorem exec_mclr o s : exec (.mclr o) s = execMclr o s := rfl
@[simp] theorem exec_mrd o s : exec (.mrd o) s = execMrd o s := rfl
@[simp] theorem exec_epi la mask k s : exec (.epi la mask k) s = execEpi la mask k s := rfl
@[simp] theorem exec_epicfg o s : exec (.epicfg o) s = execEpicfg o s := rfl
@[simp] theorem exec_coll o s : exec (.coll o) s = execColl o s := rfl
@[simp] theorem exec_collwait la mask k g s : exec (.collwait la mask k g) s = execCollwait la mask k g s := rfl
@[simp] theorem exec_trap n s : exec (.trap n) s = execTrap n s := rfl
@[simp] theorem exec_tret skip s : exec (.tret skip) s = execTret skip s := rfl
@[simp] theorem exec_brk n s : exec (.brk n) s = execBrk n s := rfl
@[simp] theorem exec_rdsr mask d r s : exec (.rdsr mask d r) s = execRdsr mask d r s := rfl
@[simp] theorem exec_wrsr r a s : exec (.wrsr r a) s = execWrsr r a s := rfl
@[simp] theorem exec_feat d n s : exec (.feat d n) s = execFeat d n s := rfl
@[simp] theorem exec_nop s : exec (.nop) s = execNop s := rfl
@[simp] theorem exec_sleep a s : exec (.sleep a) s = execSleep a s := rfl
@[simp] theorem exec_prog n s : exec (.prog n) s = execProg n s := rfl
@[simp] theorem exec_tstamp d s : exec (.tstamp d) s = execTstamp d s := rfl
@[simp] theorem exec_functionResultWrite p s : exec (.functionResultWrite p) s = execFunctionResultWrite p s := rfl
@[simp] theorem exec_atomicPerformed core slot flight e s : exec (.atomicPerformed core slot flight e) s = execAtomicPerformed core slot flight e s := rfl
@[simp] theorem exec_barrierRelease p s : exec (.barrierRelease p) s = execBarrierRelease p s := rfl
@[simp] theorem exec_abwaitRelease p s : exec (.abwaitRelease p) s = execAbwaitRelease p s := rfl
@[simp] theorem exec_sleepExpiry p s : exec (.sleepExpiry p) s = execSleepExpiry p s := rfl
@[simp] theorem exec_loadDataArrival core slot flight e s : exec (.loadDataArrival core slot flight e) s = execLoadDataArrival core slot flight e s := rfl
@[simp] theorem exec_storePerformed core slot flight e s : exec (.storePerformed core slot flight e) s = execStorePerformed core slot flight e s := rfl
@[simp] theorem exec_translationPassed p s : exec (.translationPassed p) s = execTranslationPassed p s := rfl
@[simp] theorem exec_remoteAccess part dev addr r s : exec (.remoteAccess part dev addr r) s = execRemoteAccess part dev addr r s := rfl
@[simp] theorem exec_pageResponse p page ok s : exec (.pageResponse p page ok) s = execPageResponse p page ok s := rfl
@[simp] theorem exec_joinComplete core slot split s : exec (.joinComplete core slot split) s = execJoinComplete core slot split s := rfl
@[simp] theorem exec_rejoin p s : exec (.rejoin p) s = execRejoin p s := rfl
@[simp] theorem exec_trapEntry core slot s : exec (.trapEntry core slot) s = execTrapEntry core slot s := rfl
@[simp] theorem exec_spill core s : exec (.spill core) s = execSpill core s := rfl
@[simp] theorem exec_spillRestore core s : exec (.spillRestore core) s = execSpillRestore core s := rfl
@[simp] theorem exec_roleSwitch p s : exec (.roleSwitch p) s = execRoleSwitch p s := rfl
@[simp] theorem exec_taskStrandForm core ring s : exec (.taskStrandForm core ring) s = execTaskStrandForm core ring s := rfl
@[simp] theorem exec_cgrowAnswer p s : exec (.cgrowAnswer p) s = execCgrowAnswer p s := rfl
@[simp] theorem exec_blockFetch core asid f s : exec (.blockFetch core asid f) s = execBlockFetch core asid f s := rfl
@[simp] theorem exec_insertedDelayExpiry p s : exec (.insertedDelayExpiry p) s = execInsertedDelayExpiry p s := rfl
@[simp] theorem exec_copyStart core chan s : exec (.copyStart core chan) s = execCopyStart core chan s := rfl
@[simp] theorem exec_copyRowDelivery core chan writeErrors e s : exec (.copyRowDelivery core chan writeErrors e) s = execCopyRowDelivery core chan writeErrors e s := rfl
@[simp] theorem exec_copyComplete core chan s : exec (.copyComplete core chan) s = execCopyComplete core chan s := rfl
@[simp] theorem exec_latchFill quad s : exec (.latchFill quad) s = execLatchFill quad s := rfl
@[simp] theorem exec_passStart quad s : exec (.passStart quad) s = execPassStart quad s := rfl
@[simp] theorem exec_passEnd quad s : exec (.passEnd quad) s = execPassEnd quad s := rfl
@[simp] theorem exec_tileClosed core s : exec (.tileClosed core) s = execTileClosed core s := rfl
@[simp] theorem exec_epilogueStart core s : exec (.epilogueStart core) s = execEpilogueStart core s := rfl
@[simp] theorem exec_epilogueComplete core s : exec (.epilogueComplete core) s = execEpilogueComplete core s := rfl
@[simp] theorem exec_collectiveComplete part group failure sources s : exec (.collectiveComplete part group failure sources) s = execCollectiveComplete part group failure sources s := rfl
@[simp] theorem exec_quarantineRelease s : exec (.quarantineRelease) s = execQuarantineRelease s := rfl
@[simp] theorem exec_doorbell port part queue tail s : exec (.doorbell port part queue tail) s = execDoorbell port part queue tail s := rfl
@[simp] theorem exec_launch part queue s : exec (.launch part queue) s = execLaunch part queue s := rfl
@[simp] theorem exec_chunkGrant part die lid s : exec (.chunkGrant part die lid) s = execChunkGrant part die lid s := rfl
@[simp] theorem exec_cohortPlacement part die lid s : exec (.cohortPlacement part die lid) s = execCohortPlacement part die lid s := rfl
@[simp] theorem exec_launchCompletion part lid s : exec (.launchCompletion part lid) s = execLaunchCompletion part lid s := rfl
@[simp] theorem exec_configure part s : exec (.configure part) s = execConfigure part s := rfl
@[simp] theorem exec_sealPartition part s : exec (.sealPartition part) s = execSealPartition part s := rfl
@[simp] theorem exec_releasePartition part s : exec (.releasePartition part) s = execReleasePartition part s := rfl
@[simp] theorem exec_preempt part s : exec (.preempt part) s = execPreempt part s := rfl
@[simp] theorem exec_drainEnd part s : exec (.drainEnd part) s = execDrainEnd part s := rfl
@[simp] theorem exec_restore part s : exec (.restore part) s = execRestore part s := rfl
@[simp] theorem exec_asidCreate part s : exec (.asidCreate part) s = execAsidCreate part s := rfl
@[simp] theorem exec_asidDestroy part s : exec (.asidDestroy part) s = execAsidDestroy part s := rfl
@[simp] theorem exec_writeRangeEntry part s : exec (.writeRangeEntry part) s = execWriteRangeEntry part s := rfl
@[simp] theorem exec_pagesWrite part s : exec (.pagesWrite part) s = execPagesWrite part s := rfl
@[simp] theorem exec_pagesInvalidate part s : exec (.pagesInvalidate part) s = execPagesInvalidate part s := rfl
@[simp] theorem exec_writeTensorRecord part s : exec (.writeTensorRecord part) s = execWriteTensorRecord part s := rfl
@[simp] theorem exec_writeGroupEntry part s : exec (.writeGroupEntry part) s = execWriteGroupEntry part s := rfl
@[simp] theorem exec_writeExportEntry part s : exec (.writeExportEntry part) s = execWriteExportEntry part s := rfl
@[simp] theorem exec_bindBridgeSender part s : exec (.bindBridgeSender part) s = execBindBridgeSender part s := rfl
@[simp] theorem exec_bindBridgeReceiver part s : exec (.bindBridgeReceiver part) s = execBindBridgeReceiver part s := rfl
@[simp] theorem exec_unbindBridge part s : exec (.unbindBridge part) s = execUnbindBridge part s := rfl
@[simp] theorem exec_setQueue part s : exec (.setQueue part) s = execSetQueue part s := rfl
@[simp] theorem exec_setOverflowArea part s : exec (.setOverflowArea part) s = execSetOverflowArea part s := rfl
@[simp] theorem exec_bindPodGroup part s : exec (.bindPodGroup part) s = execBindPodGroup part s := rfl
@[simp] theorem exec_unbindPodGroup part s : exec (.unbindPodGroup part) s = execUnbindPodGroup part s := rfl
@[simp] theorem exec_loadCodeObject part s : exec (.loadCodeObject part) s = execLoadCodeObject part s := rfl
@[simp] theorem exec_enrolKey part s : exec (.enrolKey part) s = execEnrolKey part s := rfl
@[simp] theorem exec_withdrawKey part s : exec (.withdrawKey part) s = execWithdrawKey part s := rfl
@[simp] theorem exec_setPowerCap part s : exec (.setPowerCap part) s = execSetPowerCap part s := rfl
@[simp] theorem exec_cancelLaunch part s : exec (.cancelLaunch part) s = execCancelLaunch part s := rfl
@[simp] theorem exec_semaphoreAcquire port sem tag s : exec (.semaphoreAcquire port sem tag) s = execSemaphoreAcquire port sem tag s := rfl
@[simp] theorem exec_semaphoreFree port sem s : exec (.semaphoreFree port sem) s = execSemaphoreFree port sem s := rfl
@[simp] theorem exec_controlBlockWrite port part off v s : exec (.controlBlockWrite port part off v) s = execControlBlockWrite port part off v s := rfl
@[simp] theorem exec_traceControlWrite port core v s : exec (.traceControlWrite port core v) s = execTraceControlWrite port core v s := rfl
@[simp] theorem exec_registerWrite port off v s : exec (.registerWrite port off v) s = execRegisterWrite port off v s := rfl
@[simp] theorem exec_causalTrialGo port part v s : exec (.causalTrialGo port part v) s = execCausalTrialGo port part v s := rfl
@[simp] theorem exec_causalTrialEnd part s : exec (.causalTrialEnd part) s = execCausalTrialEnd part s := rfl
@[simp] theorem exec_stopWrite port part v s : exec (.stopWrite port part v) s = execStopWrite port part v s := rfl
@[simp] theorem exec_resumeWrite port part v s : exec (.resumeWrite port part v) s = execResumeWrite port part v s := rfl
@[simp] theorem exec_breakpointHit p s : exec (.breakpointHit p) s = execBreakpointHit p s := rfl
@[simp] theorem exec_sample core s : exec (.sample core) s = execSample core s := rfl
@[simp] theorem exec_powerOnReset s : exec (.powerOnReset) s = execPowerOnReset s := rfl
@[simp] theorem exec_linkDown port s : exec (.linkDown port) s = execLinkDown port s := rfl
@[simp] theorem exec_semaphoreLinkFree port s : exec (.semaphoreLinkFree port) s = execSemaphoreLinkFree port s := rfl
@[simp] theorem exec_dieFence die l2Fault s : exec (.dieFence die l2Fault) s = execDieFence die l2Fault s := rfl
@[simp] theorem exec_masterElection part s : exec (.masterElection part) s = execMasterElection part s := rfl
@[simp] theorem exec_stackSelfRefresh stack s : exec (.stackSelfRefresh stack) s = execStackSelfRefresh stack s := rfl
@[simp] theorem exec_stackResume stack s : exec (.stackResume stack) s = execStackResume stack s := rfl
@[simp] theorem exec_stackFence stack s : exec (.stackFence stack) s = execStackFence stack s := rfl
@[simp] theorem exec_firmwareHandover h s : exec (.firmwareHandover h) s = execFirmwareHandover h s := rfl
@[simp] theorem exec_shanovLinkFailure dev lost s : exec (.shanovLinkFailure dev lost) s = execShanovLinkFailure dev lost s := rfl
@[simp] theorem exec_podGroupLive part slot s : exec (.podGroupLive part slot) s = execPodGroupLive part slot s := rfl
@[simp] theorem exec_hbmChannelSparing stack s : exec (.hbmChannelSparing stack) s = execHbmChannelSparing stack s := rfl
@[simp] theorem exec_refreshPostponementLimit core chan s : exec (.refreshPostponementLimit core chan) s = execRefreshPostponementLimit core chan s := rfl

end Sys2Proof.Machine
end

