-- ==== Sys2Proof/Laws/Memory.lean ====
section
/-! SUPPORT. Tables and memory: what a read gives after a write, and that every memory operation keeps the canonical form. -/
namespace Sys2Proof.Machine

/-! ### Tables -/

@[simp] theorem tget_nil {α : Type} (n : Nat) : tget ([] : Tbl α) n = none := rfl

@[simp] theorem tget_tset_same {α : Type} (t : Tbl α) (n : Nat) (x : α) : tget (tset t n x) n = some x := by
  induction t with
  | nil => simp [tset, tget]
  | cons e r ih =>
    obtain ⟨k, y⟩ := e
    simp only [tset]
    split
    · simp [tget]
    · split
      · simp [tget]
      · simp only [tget]
        rw [if_neg (by omega), ih]

theorem tget_tset_other {α : Type} (t : Tbl α) {n m : Nat} (x : α) (h : m ≠ n) : tget (tset t n x) m = tget t m := by
  induction t with
  | nil => simp [tset, tget, Ne.symm h]
  | cons e r ih =>
    obtain ⟨k, y⟩ := e
    simp only [tset]
    split
    · simp [tget, Ne.symm h]
    · split
      · next hk => subst hk; simp [tget, Ne.symm h]
      · simp only [tget, ih]

theorem tget_append {α : Type} (t u : Tbl α) (n : Nat) : tget (t ++ u) n = (tget t n).or (tget u n) := by
  induction t with
  | nil => simp [tget]
  | cons e r ih =>
    simp only [List.cons_append, tget]
    split <;> simp_all

theorem tget_filter_key {α : Type} (p : Nat → Bool) (t : Tbl α) (n : Nat) :
    tget (t.filter fun e => p e.1) n = if p n then tget t n else none := by
  induction t with
  | nil => simp [tget]
  | cons e r ih =>
    obtain ⟨k, x⟩ := e
    by_cases hk : k = n
    · subst hk
      by_cases hp : p k <;> simp_all [tget]
    · by_cases hp : p k <;> simp_all [tget]

theorem tget_tdel {α : Type} (t : Tbl α) (n m : Nat) : tget (tdel t n) m = if m = n then none else tget t m := by
  unfold tdel
  rw [tget_filter_key (fun k => k != n)]
  by_cases h : m = n <;> simp [h]

@[simp] theorem tget_tdel_same {α : Type} (t : Tbl α) (n : Nat) : tget (tdel t n) n = none := by simp [tget_tdel]

theorem tget_tdel_other {α : Type} (t : Tbl α) {n m : Nat} (h : m ≠ n) : tget (tdel t n) m = tget t m := by
  simp [tget_tdel, h]

/-! ### Reads after writes -/

theorem bne_zero (b : Byte) : (b != 0) = true ↔ b ≠ 0 := by simp

/-- The byte of a run at an address. -/
theorem tget_runAt (bs : List Byte) (a n : Nat) :
    tget ((runAt a bs).filter fun c => c.2 != 0) n = if a ≤ n then (bs[n - a]?).filter (fun b => b != 0) else none := by
  induction bs generalizing a with
  | nil => simp [runAt]
  | cons b r ih =>
    simp only [runAt, List.filter_cons]
    by_cases hn : n = a
    · subst hn
      have hz : tget ((runAt (n + 1) r).filter fun c => c.2 != 0) n = none := by rw [ih, if_neg (by omega)]
      by_cases hb : (b != 0) = true
      · rw [if_pos hb, if_pos (Nat.le_refl n)]; simp only [tget, if_true, Nat.sub_self, List.getElem?_cons_zero, Option.filter, hb]
      · rw [if_neg hb, hz, if_pos (Nat.le_refl n)]
        simp only [Nat.sub_self, List.getElem?_cons_zero, Option.filter, hb]; rfl
    · have step : tget ((runAt (a + 1) r).filter fun c => c.2 != 0) n =
          if a ≤ n then ((b :: r)[n - a]?).filter (fun b => b != 0) else none := by
        rw [ih]
        by_cases h : a ≤ n
        · obtain ⟨k, hk⟩ : ∃ k, n - a = k + 1 := ⟨n - a - 1, by omega⟩
          rw [if_pos (by omega), if_pos h, hk, show n - (a + 1) = k by omega, List.getElem?_cons_succ]
        · rw [if_neg (by omega), if_neg h]
      rw [← step]
      by_cases hb : (b != 0) = true
      · rw [if_pos hb]; simp only [tget]; rw [if_neg (by omega)]
      · rw [if_neg hb]

/-- A read inside the written bytes gives the byte written; outside, what was there. -/
theorem Memory.get_write (m : Memory) (a : Nat) (bs : List Byte) (x : Nat) :
    (m.write a bs).get x = if a ≤ x ∧ x < a + bs.length then bs.getD (x - a) 0 else m.get x := by
  unfold Memory.get Memory.write tgetD
  simp only [tget_append, tget_runAt]
  rw [show (m.cells.filter fun e => decide (e.1 < a)) = m.cells.filter (fun e => (fun k => decide (k < a)) e.1) from rfl,
    show (m.cells.filter fun e => decide (a + bs.length ≤ e.1)) = m.cells.filter (fun e => (fun k => decide (a + bs.length ≤ k)) e.1)
      from rfl, tget_filter_key (fun k => decide (k < a)), tget_filter_key (fun k => decide (a + bs.length ≤ k))]
  by_cases h1 : x < a
  · simp [h1, show ¬ a ≤ x by omega, show ¬ a + bs.length ≤ x by omega]
  · by_cases h2 : x < a + bs.length
    · have hl : x - a < bs.length := by omega
      simp only [h1, decide_false, show a ≤ x by omega, h2, show ¬ a + bs.length ≤ x by omega, List.getElem?_eq_getElem hl,
        List.getD_eq_getElem?_getD]
      by_cases hb : (bs[x - a] != 0) = true
      · simp only [Option.filter, hb]; simp
      · have h0 : bs[x - a] = 0 := by rw [bne_zero] at hb; exact Decidable.not_not.mp hb
        simp only [Option.filter, h0]; simp
    · have hl : bs.length ≤ x - a := by omega
      simp [h1, h2, show a + bs.length ≤ x by omega, List.getElem?_eq_none hl]

theorem Memory.get_write_outside (m : Memory) {a x : Nat} {bs : List Byte} (h : x < a ∨ a + bs.length ≤ x) :
    (m.write a bs).get x = m.get x := by
  rw [Memory.get_write, if_neg (by omega)]

theorem Memory.read_length (m : Memory) (a n : Nat) : (m.read a n).length = n := by simp [Memory.read]

/-- Reading back exactly what was written. -/
theorem Memory.read_write (m : Memory) (a : Nat) (bs : List Byte) : (m.write a bs).read a bs.length = bs := by
  apply List.ext_getElem
  · simp [Memory.read]
  · intro i h1 h2
    simp [Memory.read, Memory.get_write, h2, List.getD_eq_getElem?_getD]

theorem Memory.get_zero (m : Memory) (b n x : Nat) :
    (m.zero b n).get x = if b ≤ x ∧ x < b + n then 0 else m.get x := by
  unfold Memory.get Memory.zero tgetD
  rw [tget_filter_key (fun k => !(decide (b ≤ k) && decide (k < b + n)))]
  by_cases h : b ≤ x ∧ x < b + n
  · simp [h]
  · rw [if_neg h, if_pos]
    simp only [Bool.not_eq_true', Bool.and_eq_false_iff, decide_eq_false_iff_not]
    omega

theorem leBytes_length (n x : Nat) : (leBytes n x).length = n := by
  induction n generalizing x with
  | zero => rfl
  | succ n ih => simp [leBytes, ih]

theorem leNat_leBytes (n x : Nat) : leNat (leBytes n x) = x % 256 ^ n := by
  induction n generalizing x with
  | zero => simp [leBytes, leNat, Nat.mod_one]
  | succ n ih =>
    have e : (BitVec.ofNat 8 x).toNat = x % 256 := by rw [BitVec.toNat_ofNat]
    rw [leBytes, leNat, ih, e, Nat.pow_succ, Nat.mul_comm (256 ^ n), Nat.mod_mul]

/-- A number written is the number read, as far as it fits. -/
theorem Memory.nat_write (m : Memory) (a n x : Nat) : (m.write a (leBytes n x)).nat a n = x % 256 ^ n := by
  have h := Memory.read_write m a (leBytes n x)
  rw [leBytes_length] at h
  rw [Memory.nat, h, leNat_leBytes]

/-! ### The canonical form -/

theorem cellsWf_mono {lo hi : Nat} {t : List Host.Cell} (h : lo ≤ hi) (ht : cellsWf hi t = true) : cellsWf lo t = true := by
  cases t with
  | nil => rfl
  | cons e r => obtain ⟨k, b⟩ := e; simp only [cellsWf, Bool.and_eq_true, decide_eq_true_eq] at ht ⊢; exact ⟨⟨by omega, ht.1.2⟩, ht.2⟩

theorem cellsWf_filter (p : Host.Cell → Bool) {lo : Nat} {t : List Host.Cell} (ht : cellsWf lo t = true) :
    cellsWf lo (t.filter p) = true := by
  induction t generalizing lo with
  | nil => rfl
  | cons e r ih =>
    obtain ⟨k, b⟩ := e
    simp only [cellsWf, Bool.and_eq_true, decide_eq_true_eq] at ht
    simp only [List.filter_cons]
    split
    · simp only [cellsWf, Bool.and_eq_true, decide_eq_true_eq]; exact ⟨ht.1, ih ht.2⟩
    · exact cellsWf_mono (by omega) (ih ht.2)

theorem cellsWf_append {lo mid : Nat} {t u : List Host.Cell} (ht : cellsWf lo t = true) (hb : ∀ e ∈ t, e.1 < mid) (hm : lo ≤ mid)
    (hu : cellsWf mid u = true) : cellsWf lo (t ++ u) = true := by
  induction t generalizing lo with
  | nil => exact cellsWf_mono hm hu
  | cons e r ih =>
    obtain ⟨k, b⟩ := e
    simp only [cellsWf, Bool.and_eq_true, decide_eq_true_eq] at ht
    have hk : k < mid := hb (k, b) (by simp)
    simp only [List.cons_append, cellsWf, Bool.and_eq_true, decide_eq_true_eq]
    exact ⟨ht.1, ih ht.2 (fun e he => hb e (by simp [he])) (by omega)⟩

theorem cellsWf_runAt (a : Nat) (bs : List Byte) : cellsWf a ((runAt a bs).filter (·.2 != 0)) = true := by
  induction bs generalizing a with
  | nil => rfl
  | cons b r ih =>
    simp only [runAt, List.filter_cons]
    split
    · next h => simp only [cellsWf, Bool.and_eq_true, decide_eq_true_eq]; exact ⟨⟨Nat.le_refl a, h⟩, ih (a + 1)⟩
    · exact cellsWf_mono (by omega) (ih (a + 1))

theorem runAt_lt (a : Nat) (bs : List Byte) : ∀ e ∈ runAt a bs, e.1 < a + bs.length := by
  induction bs generalizing a with
  | nil => simp [runAt]
  | cons b r ih =>
    intro e he
    simp only [runAt, List.mem_cons] at he
    rcases he with rfl | he
    · simp
    · have := ih (a + 1) e he; simp only [List.length_cons]; omega

theorem cellsWf_raise {lo hi : Nat} {t : List Host.Cell} (ht : cellsWf lo t = true) (hb : ∀ e ∈ t, hi ≤ e.1) : cellsWf hi t = true := by
  cases t with
  | nil => rfl
  | cons e r =>
    obtain ⟨k, b⟩ := e
    simp only [cellsWf, Bool.and_eq_true, decide_eq_true_eq] at ht ⊢
    exact ⟨⟨hb (k, b) (by simp), ht.1.2⟩, ht.2⟩

theorem Memory.wf_empty : Memory.empty.wf = true := rfl

theorem Memory.wf_filter (m : Memory) (p : Host.Cell → Bool) (h : m.wf = true) : (Memory.mk (m.cells.filter p)).wf = true :=
  cellsWf_filter p h

theorem Memory.wf_zero (m : Memory) (b n : Nat) (h : m.wf = true) : (m.zero b n).wf = true := cellsWf_filter _ h

/-- A write keeps the canonical form. -/
theorem Memory.wf_write (m : Memory) (a : Nat) (bs : List Byte) (h : m.wf = true) : (m.write a bs).wf = true := by
  unfold Memory.wf Memory.write
  rw [List.append_assoc]
  refine cellsWf_append (mid := a) (cellsWf_filter _ h) (by simp) (Nat.zero_le _) ?_
  refine cellsWf_append (mid := a + bs.length) (cellsWf_runAt a bs) ?_ (by omega)
    (cellsWf_raise (cellsWf_filter _ h) (by simp))
  intro e he
  exact runAt_lt a bs e (List.mem_filter.mp he).1

/-- The ring of a trace buffer is written in canonical form. -/
theorem wf_streamBytes (m : Memory) (d : Debug) (bs : List Byte) (h : m.wf = true) : (streamBytes m d bs).wf = true := by
  unfold streamBytes
  dsimp only
  split
  · exact h
  · exact Memory.wf_write _ _ _ (Memory.wf_write _ _ _ h)

theorem wf_emit (m : Memory) (d : Debug) (clk clock slot byte : Nat) (mine : Option (Nat × Nat)) (pc : Word)
    (new : List (Nat × Nat)) (body : Nat → List Byte) (h : m.wf = true) :
    (emit m d clk clock slot byte mine pc new body).1.wf = true := by
  unfold emit
  extract_lets
  split
  · exact wf_streamBytes _ _ _ h
  · exact h

/-- A packet waits in its core for the end of the clock: memory is as before. -/
theorem wf_trace (s : State) (bit ty hi : Nat) (pc : Word) (new : List Nat) (rest : List Byte) (h : s.dev.mem.wf = true) :
    (s.trace bit ty hi pc new rest).dev.mem.wf = true := by
  unfold State.trace State.traceAs
  dsimp only
  split <;> exact h

/-- Bytes written elsewhere leave a list of bytes as it is. -/
theorem overlay_apart (base : Nat) (bs : List Byte) (a : Nat) (ws : List Byte) (h : base + bs.length ≤ a ∨ a + ws.length ≤ base) :
    overlay base bs a ws = bs := by
  unfold overlay
  apply List.ext_getElem
  · simp
  · intro i h1 h2
    have : ¬ (a ≤ base + i ∧ base + i < a + ws.length) := by omega
    simp [this, h2]

/-- Bytes that no queued store which one sees touches are read as memory or a cache holds them. -/
theorem overStores_apart (c : Core) (sees : Nat × Flight → LaneAcc → Bool) (base : Nat) (bs : List Byte)
    (h : ∀ f ∈ c.queuedStores, ∀ a ∈ f.2.accs, a.over = false → sees f a = true →
      base + bs.length ≤ a.pa ∨ a.pa + a.bytes.length ≤ base) : overStores c sees base bs = bs := by
  have inner : ∀ (f : Nat × Flight) (l : List LaneAcc), (∀ a ∈ l, a.over = false → sees f a = true →
      base + bs.length ≤ a.pa ∨ a.pa + a.bytes.length ≤ base) →
      l.foldl (fun bs a => if a.over || !sees f a then bs else overlay base bs a.pa a.bytes) bs = bs := by
    intro f l
    induction l with
    | nil => intro _; rfl
    | cons a l ih =>
      intro hl
      rw [List.foldl_cons]
      have h1 : (if (a.over || !sees f a) = true then bs else overlay base bs a.pa a.bytes) = bs := by
        split
        · rfl
        · next hn =>
          simp only [Bool.or_eq_true, Bool.not_eq_true', not_or, Bool.not_eq_true, Bool.not_eq_false] at hn
          exact overlay_apart _ _ _ _ (hl a List.mem_cons_self hn.1 hn.2)
      rw [h1]
      exact ih fun b hb => hl b (List.mem_cons_of_mem _ hb)
  unfold overStores
  generalize c.queuedStores = q at h
  induction q with
  | nil => rfl
  | cons f q ih =>
    rw [List.foldl_cons, inner f _ (h f List.mem_cons_self)]
    exact ih fun g hg => h g (List.mem_cons_of_mem _ hg)

end Sys2Proof.Machine
end

