-- ==== Sys2Proof/Laws/State.lean ====
section
/-! SUPPORT. What each named update of a record leaves in each field: one lemma per field and update, each true by computation. -/
namespace Sys2Proof.Machine

@[simp] theorem Path.setMask_pc (p : Path) (m : Fin 16) (x : LaneSet) : (p.setMask m x).pc = p.pc := rfl
@[simp] theorem Path.setMask_blk (p : Path) (m : Fin 16) (x : LaneSet) : (p.setMask m x).blk = p.blk := rfl
@[simp] theorem Path.setMask_lanes (p : Path) (m : Fin 16) (x : LaneSet) : (p.setMask m x).lanes = p.lanes := rfl
@[simp] theorem Path.setMask_v (p : Path) (m : Fin 16) (x : LaneSet) : (p.setMask m x).v = p.v := rfl
@[simp] theorem Path.setMask_sc (p : Path) (m : Fin 16) (x : LaneSet) : (p.setMask m x).sc = p.sc := rfl
@[simp] theorem Path.setMask_masks (p : Path) (m : Fin 16) (x : LaneSet) : (p.setMask m x).masks = tset p.masks m.val (x &&& p.lanes) := rfl
@[simp] theorem Path.setMask_walkers (p : Path) (m : Fin 16) (x : LaneSet) : (p.setMask m x).walkers = p.walkers := rfl
@[simp] theorem Path.setMask_slot (p : Path) (m : Fin 16) (x : LaneSet) : (p.setMask m x).slot = p.slot := rfl
@[simp] theorem Path.setMask_frag (p : Path) (m : Fin 16) (x : LaneSet) : (p.setMask m x).frag = p.frag := rfl
@[simp] theorem Path.setMask_parent (p : Path) (m : Fin 16) (x : LaneSet) : (p.setMask m x).parent = p.parent := rfl
@[simp] theorem Path.setMask_rejoin (p : Path) (m : Fin 16) (x : LaneSet) : (p.setMask m x).rejoin = p.rejoin := rfl
@[simp] theorem Path.setMask_arms (p : Path) (m : Fin 16) (x : LaneSet) : (p.setMask m x).arms = p.arms := rfl
@[simp] theorem Path.setMask_status (p : Path) (m : Fin 16) (x : LaneSet) : (p.setMask m x).status = p.status := rfl
@[simp] theorem Path.setMask_trap (p : Path) (m : Fin 16) (x : LaneSet) : (p.setMask m x).trap = p.trap := rfl
@[simp] theorem Path.setMask_handler (p : Path) (m : Fin 16) (x : LaneSet) : (p.setMask m x).handler = p.handler := rfl
@[simp] theorem Path.setMask_window (p : Path) (m : Fin 16) (x : LaneSet) : (p.setMask m x).window = p.window := rfl
@[simp] theorem Path.setMask_redo (p : Path) (m : Fin 16) (x : LaneSet) : (p.setMask m x).redo = p.redo := rfl
@[simp] theorem Path.setMask_last (p : Path) (m : Fin 16) (x : LaneSet) : (p.setMask m x).last = p.last := rfl
@[simp] theorem Path.setMask_hold (p : Path) (m : Fin 16) (x : LaneSet) : (p.setMask m x).hold = p.hold := rfl
@[simp] theorem Path.setMask_pass (p : Path) (m : Fin 16) (x : LaneSet) : (p.setMask m x).pass = p.pass := rfl
@[simp] theorem Path.setMask_starved (p : Path) (m : Fin 16) (x : LaneSet) : (p.setMask m x).starved = p.starved := rfl
@[simp] theorem Path.setMask_blocked (p : Path) (m : Fin 16) (x : LaneSet) : (p.setMask m x).blocked = p.blocked := rfl
@[simp] theorem Path.setMask_codeFrom (p : Path) (m : Fin 16) (x : LaneSet) : (p.setMask m x).codeFrom = p.codeFrom := rfl
@[simp] theorem Path.setMask_codeOk (p : Path) (m : Fin 16) (x : LaneSet) : (p.setMask m x).codeOk = p.codeOk := rfl
@[simp] theorem Path.setMask_joinCheck (p : Path) (m : Fin 16) (x : LaneSet) : (p.setMask m x).joinCheck = p.joinCheck := rfl
@[simp] theorem Path.setMask_asked (p : Path) (m : Fin 16) (x : LaneSet) : (p.setMask m x).asked = p.asked := rfl

@[simp] theorem Path.trapped_pc (p : Path) (t : Trap) : (p.trapped t).pc = p.pc := rfl
@[simp] theorem Path.trapped_blk (p : Path) (t : Trap) : (p.trapped t).blk = p.blk := rfl
@[simp] theorem Path.trapped_lanes (p : Path) (t : Trap) : (p.trapped t).lanes = p.lanes := rfl
@[simp] theorem Path.trapped_v (p : Path) (t : Trap) : (p.trapped t).v = p.v := rfl
@[simp] theorem Path.trapped_sc (p : Path) (t : Trap) : (p.trapped t).sc = p.sc := rfl
@[simp] theorem Path.trapped_masks (p : Path) (t : Trap) : (p.trapped t).masks = p.masks := rfl
@[simp] theorem Path.trapped_walkers (p : Path) (t : Trap) : (p.trapped t).walkers = p.walkers := rfl
@[simp] theorem Path.trapped_slot (p : Path) (t : Trap) : (p.trapped t).slot = p.slot := rfl
@[simp] theorem Path.trapped_frag (p : Path) (t : Trap) : (p.trapped t).frag = p.frag := rfl
@[simp] theorem Path.trapped_parent (p : Path) (t : Trap) : (p.trapped t).parent = p.parent := rfl
@[simp] theorem Path.trapped_rejoin (p : Path) (t : Trap) : (p.trapped t).rejoin = p.rejoin := rfl
@[simp] theorem Path.trapped_arms (p : Path) (t : Trap) : (p.trapped t).arms = p.arms := rfl
@[simp] theorem Path.trapped_status (p : Path) (t : Trap) : (p.trapped t).status = .trapped := rfl
@[simp] theorem Path.trapped_trap (p : Path) (t : Trap) : (p.trapped t).trap = some { t with rest := p.window.filter fun w => w.complete && w.idx < w.la, joinCheck := p.joinCheck } := rfl
@[simp] theorem Path.trapped_handler (p : Path) (t : Trap) : (p.trapped t).handler = p.handler := rfl
@[simp] theorem Path.trapped_window (p : Path) (t : Trap) : (p.trapped t).window = none := rfl
@[simp] theorem Path.trapped_redo (p : Path) (t : Trap) : (p.trapped t).redo = p.redo := rfl
@[simp] theorem Path.trapped_last (p : Path) (t : Trap) : (p.trapped t).last = p.last := rfl
@[simp] theorem Path.trapped_hold (p : Path) (t : Trap) : (p.trapped t).hold = p.hold := rfl
@[simp] theorem Path.trapped_pass (p : Path) (t : Trap) : (p.trapped t).pass = p.pass := rfl
@[simp] theorem Path.trapped_starved (p : Path) (t : Trap) : (p.trapped t).starved = p.starved := rfl
@[simp] theorem Path.trapped_blocked (p : Path) (t : Trap) : (p.trapped t).blocked = p.blocked := rfl
@[simp] theorem Path.trapped_codeFrom (p : Path) (t : Trap) : (p.trapped t).codeFrom = p.codeFrom := rfl
@[simp] theorem Path.trapped_codeOk (p : Path) (t : Trap) : (p.trapped t).codeOk = p.codeOk := rfl
@[simp] theorem Path.trapped_joinCheck (p : Path) (t : Trap) : (p.trapped t).joinCheck = p.joinCheck := rfl
@[simp] theorem Path.trapped_asked (p : Path) (t : Trap) : (p.trapped t).asked = p.asked := rfl

@[simp] theorem Device.setPart_mem (d : Device) (n : Nat) (x : Partition) : (d.setPart n x).mem = d.mem := rfl
@[simp] theorem Device.setPart_ctags (d : Device) (n : Nat) (x : Partition) : (d.setPart n x).ctags = d.ctags := rfl
@[simp] theorem Device.setPart_remRel (d : Device) (n : Nat) (x : Partition) : (d.setPart n x).remRel = d.remRel := rfl
@[simp] theorem Device.setPart_tables (d : Device) (n : Nat) (x : Partition) : (d.setPart n x).tables = d.tables := rfl
@[simp] theorem Device.setPart_loads (d : Device) (n : Nat) (x : Partition) : (d.setPart n x).loads = d.loads := rfl
@[simp] theorem Device.setPart_texts (d : Device) (n : Nat) (x : Partition) : (d.setPart n x).texts = d.texts := rfl
@[simp] theorem Device.setPart_cores (d : Device) (n : Nat) (x : Partition) : (d.setPart n x).cores = d.cores := rfl
@[simp] theorem Device.setPart_quads (d : Device) (n : Nat) (x : Partition) : (d.setPart n x).quads = d.quads := rfl
@[simp] theorem Device.setPart_dies (d : Device) (n : Nat) (x : Partition) : (d.setPart n x).dies = d.dies := rfl
@[simp] theorem Device.setPart_parts (d : Device) (n : Nat) (x : Partition) : (d.setPart n x).parts = tset d.parts n x := rfl
@[simp] theorem Device.setPart_asids (d : Device) (n : Nat) (x : Partition) : (d.setPart n x).asids = d.asids := rfl
@[simp] theorem Device.setPart_launches (d : Device) (n : Nat) (x : Partition) : (d.setPart n x).launches = d.launches := rfl
@[simp] theorem Device.setPart_nextLaunch (d : Device) (n : Nat) (x : Partition) : (d.setPart n x).nextLaunch = d.nextLaunch := rfl
@[simp] theorem Device.setPart_sems (d : Device) (n : Nat) (x : Partition) : (d.setPart n x).sems = d.sems := rfl
@[simp] theorem Device.setPart_tieLast (d : Device) (n : Nat) (x : Partition) : (d.setPart n x).tieLast = d.tieLast := rfl
@[simp] theorem Device.setPart_links (d : Device) (n : Nat) (x : Partition) : (d.setPart n x).links = d.links := rfl
@[simp] theorem Device.setPart_devt (d : Device) (n : Nat) (x : Partition) : (d.setPart n x).devt = d.devt := rfl
@[simp] theorem Device.setPart_vectors (d : Device) (n : Nat) (x : Partition) : (d.setPart n x).vectors = d.vectors := rfl
@[simp] theorem Device.setPart_routes (d : Device) (n : Nat) (x : Partition) : (d.setPart n x).routes = d.routes := rfl
@[simp] theorem Device.setPart_windows (d : Device) (n : Nat) (x : Partition) : (d.setPart n x).windows = d.windows := rfl
@[simp] theorem Device.setPart_egress (d : Device) (n : Nat) (x : Partition) : (d.setPart n x).egress = d.egress := rfl
@[simp] theorem Device.setPart_thermal (d : Device) (n : Nat) (x : Partition) : (d.setPart n x).thermal = d.thermal := rfl
@[simp] theorem Device.setPart_moduleCap (d : Device) (n : Nat) (x : Partition) : (d.setPart n x).moduleCap = d.moduleCap := rfl
@[simp] theorem Device.setPart_bridges (d : Device) (n : Nat) (x : Partition) : (d.setPart n x).bridges = d.bridges := rfl
@[simp] theorem Device.setPart_podTags (d : Device) (n : Nat) (x : Partition) : (d.setPart n x).podTags = d.podTags := rfl
@[simp] theorem Device.setPart_hbmStacks (d : Device) (n : Nat) (x : Partition) : (d.setPart n x).hbmStacks = d.hbmStacks := rfl
@[simp] theorem Device.setPart_ticket (d : Device) (n : Nat) (x : Partition) : (d.setPart n x).ticket = d.ticket := rfl
@[simp] theorem Device.setPart_quarantine (d : Device) (n : Nat) (x : Partition) : (d.setPart n x).quarantine = d.quarantine := rfl
@[simp] theorem Device.setPart_saves (d : Device) (n : Nat) (x : Partition) : (d.setPart n x).saves = d.saves := rfl
@[simp] theorem Device.setPart_fwSlot (d : Device) (n : Nat) (x : Partition) : (d.setPart n x).fwSlot = d.fwSlot := rfl
@[simp] theorem Device.setPart_msix (d : Device) (n : Nat) (x : Partition) : (d.setPart n x).msix = d.msix := rfl
@[simp] theorem Device.setPart_pageReqs (d : Device) (n : Nat) (x : Partition) : (d.setPart n x).pageReqs = d.pageReqs := rfl
@[simp] theorem Device.setPart_regWrites (d : Device) (n : Nat) (x : Partition) : (d.setPart n x).regWrites = d.regWrites := rfl
@[simp] theorem Device.setPart_fabricTails (d : Device) (n : Nat) (x : Partition) : (d.setPart n x).fabricTails = d.fabricTails := rfl
@[simp] theorem Device.setPart_fabricHeads (d : Device) (n : Nat) (x : Partition) : (d.setPart n x).fabricHeads = d.fabricHeads := rfl
@[simp] theorem Device.setPart_farRings (d : Device) (n : Nat) (x : Partition) : (d.setPart n x).farRings = d.farRings := rfl
@[simp] theorem Device.setPart_portReads (d : Device) (n : Nat) (x : Partition) : (d.setPart n x).portReads = d.portReads := rfl
@[simp] theorem Device.setPart_cut (d : Device) (n : Nat) (x : Partition) : (d.setPart n x).cut = d.cut := rfl
@[simp] theorem Device.setPart_replies (d : Device) (n : Nat) (x : Partition) : (d.setPart n x).replies = d.replies := rfl

@[simp] theorem Device.setQuad_mem (d : Device) (n : Nat) (x : Quad) : (d.setQuad n x).mem = d.mem := rfl
@[simp] theorem Device.setQuad_ctags (d : Device) (n : Nat) (x : Quad) : (d.setQuad n x).ctags = d.ctags := rfl
@[simp] theorem Device.setQuad_remRel (d : Device) (n : Nat) (x : Quad) : (d.setQuad n x).remRel = d.remRel := rfl
@[simp] theorem Device.setQuad_tables (d : Device) (n : Nat) (x : Quad) : (d.setQuad n x).tables = d.tables := rfl
@[simp] theorem Device.setQuad_loads (d : Device) (n : Nat) (x : Quad) : (d.setQuad n x).loads = d.loads := rfl
@[simp] theorem Device.setQuad_texts (d : Device) (n : Nat) (x : Quad) : (d.setQuad n x).texts = d.texts := rfl
@[simp] theorem Device.setQuad_cores (d : Device) (n : Nat) (x : Quad) : (d.setQuad n x).cores = d.cores := rfl
@[simp] theorem Device.setQuad_quads (d : Device) (n : Nat) (x : Quad) : (d.setQuad n x).quads = tset d.quads n x := rfl
@[simp] theorem Device.setQuad_dies (d : Device) (n : Nat) (x : Quad) : (d.setQuad n x).dies = d.dies := rfl
@[simp] theorem Device.setQuad_parts (d : Device) (n : Nat) (x : Quad) : (d.setQuad n x).parts = d.parts := rfl
@[simp] theorem Device.setQuad_asids (d : Device) (n : Nat) (x : Quad) : (d.setQuad n x).asids = d.asids := rfl
@[simp] theorem Device.setQuad_launches (d : Device) (n : Nat) (x : Quad) : (d.setQuad n x).launches = d.launches := rfl
@[simp] theorem Device.setQuad_nextLaunch (d : Device) (n : Nat) (x : Quad) : (d.setQuad n x).nextLaunch = d.nextLaunch := rfl
@[simp] theorem Device.setQuad_sems (d : Device) (n : Nat) (x : Quad) : (d.setQuad n x).sems = d.sems := rfl
@[simp] theorem Device.setQuad_tieLast (d : Device) (n : Nat) (x : Quad) : (d.setQuad n x).tieLast = d.tieLast := rfl
@[simp] theorem Device.setQuad_links (d : Device) (n : Nat) (x : Quad) : (d.setQuad n x).links = d.links := rfl
@[simp] theorem Device.setQuad_devt (d : Device) (n : Nat) (x : Quad) : (d.setQuad n x).devt = d.devt := rfl
@[simp] theorem Device.setQuad_vectors (d : Device) (n : Nat) (x : Quad) : (d.setQuad n x).vectors = d.vectors := rfl
@[simp] theorem Device.setQuad_routes (d : Device) (n : Nat) (x : Quad) : (d.setQuad n x).routes = d.routes := rfl
@[simp] theorem Device.setQuad_windows (d : Device) (n : Nat) (x : Quad) : (d.setQuad n x).windows = d.windows := rfl
@[simp] theorem Device.setQuad_egress (d : Device) (n : Nat) (x : Quad) : (d.setQuad n x).egress = d.egress := rfl
@[simp] theorem Device.setQuad_thermal (d : Device) (n : Nat) (x : Quad) : (d.setQuad n x).thermal = d.thermal := rfl
@[simp] theorem Device.setQuad_moduleCap (d : Device) (n : Nat) (x : Quad) : (d.setQuad n x).moduleCap = d.moduleCap := rfl
@[simp] theorem Device.setQuad_bridges (d : Device) (n : Nat) (x : Quad) : (d.setQuad n x).bridges = d.bridges := rfl
@[simp] theorem Device.setQuad_podTags (d : Device) (n : Nat) (x : Quad) : (d.setQuad n x).podTags = d.podTags := rfl
@[simp] theorem Device.setQuad_hbmStacks (d : Device) (n : Nat) (x : Quad) : (d.setQuad n x).hbmStacks = d.hbmStacks := rfl
@[simp] theorem Device.setQuad_ticket (d : Device) (n : Nat) (x : Quad) : (d.setQuad n x).ticket = d.ticket := rfl
@[simp] theorem Device.setQuad_quarantine (d : Device) (n : Nat) (x : Quad) : (d.setQuad n x).quarantine = d.quarantine := rfl
@[simp] theorem Device.setQuad_saves (d : Device) (n : Nat) (x : Quad) : (d.setQuad n x).saves = d.saves := rfl
@[simp] theorem Device.setQuad_fwSlot (d : Device) (n : Nat) (x : Quad) : (d.setQuad n x).fwSlot = d.fwSlot := rfl
@[simp] theorem Device.setQuad_msix (d : Device) (n : Nat) (x : Quad) : (d.setQuad n x).msix = d.msix := rfl
@[simp] theorem Device.setQuad_pageReqs (d : Device) (n : Nat) (x : Quad) : (d.setQuad n x).pageReqs = d.pageReqs := rfl
@[simp] theorem Device.setQuad_regWrites (d : Device) (n : Nat) (x : Quad) : (d.setQuad n x).regWrites = d.regWrites := rfl
@[simp] theorem Device.setQuad_fabricTails (d : Device) (n : Nat) (x : Quad) : (d.setQuad n x).fabricTails = d.fabricTails := rfl
@[simp] theorem Device.setQuad_fabricHeads (d : Device) (n : Nat) (x : Quad) : (d.setQuad n x).fabricHeads = d.fabricHeads := rfl
@[simp] theorem Device.setQuad_farRings (d : Device) (n : Nat) (x : Quad) : (d.setQuad n x).farRings = d.farRings := rfl
@[simp] theorem Device.setQuad_portReads (d : Device) (n : Nat) (x : Quad) : (d.setQuad n x).portReads = d.portReads := rfl
@[simp] theorem Device.setQuad_cut (d : Device) (n : Nat) (x : Quad) : (d.setQuad n x).cut = d.cut := rfl
@[simp] theorem Device.setQuad_replies (d : Device) (n : Nat) (x : Quad) : (d.setQuad n x).replies = d.replies := rfl

@[simp] theorem Device.setDie_mem (d : Device) (n : Nat) (x : Die) : (d.setDie n x).mem = d.mem := rfl
@[simp] theorem Device.setDie_ctags (d : Device) (n : Nat) (x : Die) : (d.setDie n x).ctags = d.ctags := rfl
@[simp] theorem Device.setDie_remRel (d : Device) (n : Nat) (x : Die) : (d.setDie n x).remRel = d.remRel := rfl
@[simp] theorem Device.setDie_tables (d : Device) (n : Nat) (x : Die) : (d.setDie n x).tables = d.tables := rfl
@[simp] theorem Device.setDie_loads (d : Device) (n : Nat) (x : Die) : (d.setDie n x).loads = d.loads := rfl
@[simp] theorem Device.setDie_texts (d : Device) (n : Nat) (x : Die) : (d.setDie n x).texts = d.texts := rfl
@[simp] theorem Device.setDie_cores (d : Device) (n : Nat) (x : Die) : (d.setDie n x).cores = d.cores := rfl
@[simp] theorem Device.setDie_quads (d : Device) (n : Nat) (x : Die) : (d.setDie n x).quads = d.quads := rfl
@[simp] theorem Device.setDie_dies (d : Device) (n : Nat) (x : Die) : (d.setDie n x).dies = tset d.dies n x := rfl
@[simp] theorem Device.setDie_parts (d : Device) (n : Nat) (x : Die) : (d.setDie n x).parts = d.parts := rfl
@[simp] theorem Device.setDie_asids (d : Device) (n : Nat) (x : Die) : (d.setDie n x).asids = d.asids := rfl
@[simp] theorem Device.setDie_launches (d : Device) (n : Nat) (x : Die) : (d.setDie n x).launches = d.launches := rfl
@[simp] theorem Device.setDie_nextLaunch (d : Device) (n : Nat) (x : Die) : (d.setDie n x).nextLaunch = d.nextLaunch := rfl
@[simp] theorem Device.setDie_sems (d : Device) (n : Nat) (x : Die) : (d.setDie n x).sems = d.sems := rfl
@[simp] theorem Device.setDie_tieLast (d : Device) (n : Nat) (x : Die) : (d.setDie n x).tieLast = d.tieLast := rfl
@[simp] theorem Device.setDie_links (d : Device) (n : Nat) (x : Die) : (d.setDie n x).links = d.links := rfl
@[simp] theorem Device.setDie_devt (d : Device) (n : Nat) (x : Die) : (d.setDie n x).devt = d.devt := rfl
@[simp] theorem Device.setDie_vectors (d : Device) (n : Nat) (x : Die) : (d.setDie n x).vectors = d.vectors := rfl
@[simp] theorem Device.setDie_routes (d : Device) (n : Nat) (x : Die) : (d.setDie n x).routes = d.routes := rfl
@[simp] theorem Device.setDie_windows (d : Device) (n : Nat) (x : Die) : (d.setDie n x).windows = d.windows := rfl
@[simp] theorem Device.setDie_egress (d : Device) (n : Nat) (x : Die) : (d.setDie n x).egress = d.egress := rfl
@[simp] theorem Device.setDie_thermal (d : Device) (n : Nat) (x : Die) : (d.setDie n x).thermal = d.thermal := rfl
@[simp] theorem Device.setDie_moduleCap (d : Device) (n : Nat) (x : Die) : (d.setDie n x).moduleCap = d.moduleCap := rfl
@[simp] theorem Device.setDie_bridges (d : Device) (n : Nat) (x : Die) : (d.setDie n x).bridges = d.bridges := rfl
@[simp] theorem Device.setDie_podTags (d : Device) (n : Nat) (x : Die) : (d.setDie n x).podTags = d.podTags := rfl
@[simp] theorem Device.setDie_hbmStacks (d : Device) (n : Nat) (x : Die) : (d.setDie n x).hbmStacks = d.hbmStacks := rfl
@[simp] theorem Device.setDie_ticket (d : Device) (n : Nat) (x : Die) : (d.setDie n x).ticket = d.ticket := rfl
@[simp] theorem Device.setDie_quarantine (d : Device) (n : Nat) (x : Die) : (d.setDie n x).quarantine = d.quarantine := rfl
@[simp] theorem Device.setDie_saves (d : Device) (n : Nat) (x : Die) : (d.setDie n x).saves = d.saves := rfl
@[simp] theorem Device.setDie_fwSlot (d : Device) (n : Nat) (x : Die) : (d.setDie n x).fwSlot = d.fwSlot := rfl
@[simp] theorem Device.setDie_msix (d : Device) (n : Nat) (x : Die) : (d.setDie n x).msix = d.msix := rfl
@[simp] theorem Device.setDie_pageReqs (d : Device) (n : Nat) (x : Die) : (d.setDie n x).pageReqs = d.pageReqs := rfl
@[simp] theorem Device.setDie_regWrites (d : Device) (n : Nat) (x : Die) : (d.setDie n x).regWrites = d.regWrites := rfl
@[simp] theorem Device.setDie_fabricTails (d : Device) (n : Nat) (x : Die) : (d.setDie n x).fabricTails = d.fabricTails := rfl
@[simp] theorem Device.setDie_fabricHeads (d : Device) (n : Nat) (x : Die) : (d.setDie n x).fabricHeads = d.fabricHeads := rfl
@[simp] theorem Device.setDie_farRings (d : Device) (n : Nat) (x : Die) : (d.setDie n x).farRings = d.farRings := rfl
@[simp] theorem Device.setDie_portReads (d : Device) (n : Nat) (x : Die) : (d.setDie n x).portReads = d.portReads := rfl
@[simp] theorem Device.setDie_cut (d : Device) (n : Nat) (x : Die) : (d.setDie n x).cut = d.cut := rfl
@[simp] theorem Device.setDie_replies (d : Device) (n : Nat) (x : Die) : (d.setDie n x).replies = d.replies := rfl

@[simp] theorem State.setCohort_dev (s : State) (x : Cohort) : (s.setCohort x).dev = s.dev := rfl
@[simp] theorem State.setCohort_core (s : State) (x : Cohort) : (s.setCohort x).core = { s.core with cohorts := tset s.core.cohorts s.strand.cohort x } := rfl
@[simp] theorem State.setCohort_strand (s : State) (x : Cohort) : (s.setCohort x).strand = s.strand := rfl
@[simp] theorem State.setCohort_path (s : State) (x : Cohort) : (s.setCohort x).path = s.path := rfl
@[simp] theorem State.setCohort_focus (s : State) (x : Cohort) : (s.setCohort x).focus = s.focus := rfl
@[simp] theorem State.setCohort_clock (s : State) (x : Cohort) : (s.setCohort x).clock = s.clock := rfl
@[simp] theorem State.setCohort_uid (s : State) (x : Cohort) : (s.setCohort x).uid = s.uid := rfl
@[simp] theorem State.setCohort_draws (s : State) (x : Cohort) : (s.setCohort x).draws = s.draws := rfl
@[simp] theorem State.setCohort_turns (s : State) (x : Cohort) : (s.setCohort x).turns = s.turns := rfl

@[simp] theorem State.setCore_dev (s : State) (c : Nat) (x : Core) : (s.setCore c x).dev = { s.dev with cores := tset s.dev.cores c x } := rfl
@[simp] theorem State.setCore_core (s : State) (c : Nat) (x : Core) : (s.setCore c x).core = s.core := rfl
@[simp] theorem State.setCore_strand (s : State) (c : Nat) (x : Core) : (s.setCore c x).strand = s.strand := rfl
@[simp] theorem State.setCore_path (s : State) (c : Nat) (x : Core) : (s.setCore c x).path = s.path := rfl
@[simp] theorem State.setCore_focus (s : State) (c : Nat) (x : Core) : (s.setCore c x).focus = s.focus := rfl
@[simp] theorem State.setCore_clock (s : State) (c : Nat) (x : Core) : (s.setCore c x).clock = s.clock := rfl
@[simp] theorem State.setCore_uid (s : State) (c : Nat) (x : Core) : (s.setCore c x).uid = s.uid := rfl
@[simp] theorem State.setCore_draws (s : State) (c : Nat) (x : Core) : (s.setCore c x).draws = s.draws := rfl
@[simp] theorem State.setCore_turns (s : State) (c : Nat) (x : Core) : (s.setCore c x).turns = s.turns := rfl

@[simp] theorem State.setLaunch_dev (s : State) (l : Nat) (x : Launch) : (s.setLaunch l x).dev = { s.dev with launches := tset s.dev.launches l x } := rfl
@[simp] theorem State.setLaunch_core (s : State) (l : Nat) (x : Launch) : (s.setLaunch l x).core = s.core := rfl
@[simp] theorem State.setLaunch_strand (s : State) (l : Nat) (x : Launch) : (s.setLaunch l x).strand = s.strand := rfl
@[simp] theorem State.setLaunch_path (s : State) (l : Nat) (x : Launch) : (s.setLaunch l x).path = s.path := rfl
@[simp] theorem State.setLaunch_focus (s : State) (l : Nat) (x : Launch) : (s.setLaunch l x).focus = s.focus := rfl
@[simp] theorem State.setLaunch_clock (s : State) (l : Nat) (x : Launch) : (s.setLaunch l x).clock = s.clock := rfl
@[simp] theorem State.setLaunch_uid (s : State) (l : Nat) (x : Launch) : (s.setLaunch l x).uid = s.uid := rfl
@[simp] theorem State.setLaunch_draws (s : State) (l : Nat) (x : Launch) : (s.setLaunch l x).draws = s.draws := rfl
@[simp] theorem State.setLaunch_turns (s : State) (l : Nat) (x : Launch) : (s.setLaunch l x).turns = s.turns := rfl

@[simp] theorem State.setQueue_dev (s : State) (q : Nat) (x : Queue) : (s.setQueue q x).dev = s.dev := rfl
@[simp] theorem State.setQueue_core (s : State) (q : Nat) (x : Queue) : (s.setQueue q x).core = { s.core with queues := tset s.core.queues q x } := rfl
@[simp] theorem State.setQueue_strand (s : State) (q : Nat) (x : Queue) : (s.setQueue q x).strand = s.strand := rfl
@[simp] theorem State.setQueue_path (s : State) (q : Nat) (x : Queue) : (s.setQueue q x).path = s.path := rfl
@[simp] theorem State.setQueue_focus (s : State) (q : Nat) (x : Queue) : (s.setQueue q x).focus = s.focus := rfl
@[simp] theorem State.setQueue_clock (s : State) (q : Nat) (x : Queue) : (s.setQueue q x).clock = s.clock := rfl
@[simp] theorem State.setQueue_uid (s : State) (q : Nat) (x : Queue) : (s.setQueue q x).uid = s.uid := rfl
@[simp] theorem State.setQueue_draws (s : State) (q : Nat) (x : Queue) : (s.setQueue q x).draws = s.draws := rfl
@[simp] theorem State.setQueue_turns (s : State) (q : Nat) (x : Queue) : (s.setQueue q x).turns = s.turns := rfl

@[simp] theorem State.setBridge_dev (s : State) (b : Nat) (x : Bridge) : (s.setBridge b x).dev = s.dev.setBridge b x s.clock := rfl
@[simp] theorem State.setBridge_core (s : State) (b : Nat) (x : Bridge) : (s.setBridge b x).core = s.core.fillOf b x.ring.length s.clock := rfl
@[simp] theorem State.setBridge_strand (s : State) (b : Nat) (x : Bridge) : (s.setBridge b x).strand = s.strand := rfl
@[simp] theorem State.setBridge_path (s : State) (b : Nat) (x : Bridge) : (s.setBridge b x).path = s.path := rfl
@[simp] theorem State.setBridge_focus (s : State) (b : Nat) (x : Bridge) : (s.setBridge b x).focus = s.focus := rfl
@[simp] theorem State.setBridge_clock (s : State) (b : Nat) (x : Bridge) : (s.setBridge b x).clock = s.clock := rfl
@[simp] theorem State.setBridge_uid (s : State) (b : Nat) (x : Bridge) : (s.setBridge b x).uid = s.uid := rfl
@[simp] theorem State.setBridge_draws (s : State) (b : Nat) (x : Bridge) : (s.setBridge b x).draws = s.draws := rfl
@[simp] theorem State.setBridge_turns (s : State) (b : Nat) (x : Bridge) : (s.setBridge b x).turns = s.turns := rfl

@[simp] theorem Path.stepWalker_pc (p : Path) (n : Nat) (x : Walker) : (p.stepWalker n x).pc = p.pc := rfl
@[simp] theorem Path.stepWalker_blk (p : Path) (n : Nat) (x : Walker) : (p.stepWalker n x).blk = p.blk := rfl
@[simp] theorem Path.stepWalker_lanes (p : Path) (n : Nat) (x : Walker) : (p.stepWalker n x).lanes = p.lanes := rfl
@[simp] theorem Path.stepWalker_v (p : Path) (n : Nat) (x : Walker) : (p.stepWalker n x).v = p.v := rfl
@[simp] theorem Path.stepWalker_sc (p : Path) (n : Nat) (x : Walker) : (p.stepWalker n x).sc = p.sc := rfl
@[simp] theorem Path.stepWalker_masks (p : Path) (n : Nat) (x : Walker) : (p.stepWalker n x).masks = p.masks := rfl
@[simp] theorem Path.stepWalker_walkers (p : Path) (n : Nat) (x : Walker) : (p.stepWalker n x).walkers = (p.onWalker n (some x.step) fun y => some y.step).walkers := rfl
@[simp] theorem Path.stepWalker_slot (p : Path) (n : Nat) (x : Walker) : (p.stepWalker n x).slot = p.slot := rfl
@[simp] theorem Path.stepWalker_frag (p : Path) (n : Nat) (x : Walker) : (p.stepWalker n x).frag = p.frag := rfl
@[simp] theorem Path.stepWalker_parent (p : Path) (n : Nat) (x : Walker) : (p.stepWalker n x).parent = p.parent := rfl
@[simp] theorem Path.stepWalker_rejoin (p : Path) (n : Nat) (x : Walker) : (p.stepWalker n x).rejoin = p.rejoin := rfl
@[simp] theorem Path.stepWalker_arms (p : Path) (n : Nat) (x : Walker) : (p.stepWalker n x).arms = p.arms := rfl
@[simp] theorem Path.stepWalker_status (p : Path) (n : Nat) (x : Walker) : (p.stepWalker n x).status = p.status := rfl
@[simp] theorem Path.stepWalker_trap (p : Path) (n : Nat) (x : Walker) : (p.stepWalker n x).trap = p.trap := rfl
@[simp] theorem Path.stepWalker_handler (p : Path) (n : Nat) (x : Walker) : (p.stepWalker n x).handler = p.handler := rfl
@[simp] theorem Path.stepWalker_window (p : Path) (n : Nat) (x : Walker) : (p.stepWalker n x).window = (p.onWalker n (some x.step) fun y => some y.step).window := rfl
@[simp] theorem Path.stepWalker_redo (p : Path) (n : Nat) (x : Walker) : (p.stepWalker n x).redo = p.redo := rfl
@[simp] theorem Path.stepWalker_last (p : Path) (n : Nat) (x : Walker) : (p.stepWalker n x).last = p.last := rfl
@[simp] theorem Path.stepWalker_hold (p : Path) (n : Nat) (x : Walker) : (p.stepWalker n x).hold = p.hold := rfl
@[simp] theorem Path.stepWalker_pass (p : Path) (n : Nat) (x : Walker) : (p.stepWalker n x).pass = p.pass := rfl
@[simp] theorem Path.stepWalker_starved (p : Path) (n : Nat) (x : Walker) : (p.stepWalker n x).starved = p.starved := rfl
@[simp] theorem Path.stepWalker_blocked (p : Path) (n : Nat) (x : Walker) : (p.stepWalker n x).blocked = p.blocked := rfl
@[simp] theorem Path.stepWalker_codeFrom (p : Path) (n : Nat) (x : Walker) : (p.stepWalker n x).codeFrom = p.codeFrom := rfl
@[simp] theorem Path.stepWalker_codeOk (p : Path) (n : Nat) (x : Walker) : (p.stepWalker n x).codeOk = p.codeOk := rfl
@[simp] theorem Path.stepWalker_joinCheck (p : Path) (n : Nat) (x : Walker) : (p.stepWalker n x).joinCheck = p.joinCheck := rfl
@[simp] theorem Path.stepWalker_asked (p : Path) (n : Nat) (x : Walker) : (p.stepWalker n x).asked = p.asked := rfl

@[simp] theorem Core.count_strands (c : Core) (i n : Nat) : (c.count i n).strands = c.strands := rfl
@[simp] theorem Core.count_cohorts (c : Core) (i n : Nat) : (c.count i n).cohorts = c.cohorts := rfl
@[simp] theorem Core.count_l1 (c : Core) (i n : Nat) : (c.count i n).l1 = c.l1 := rfl
@[simp] theorem Core.count_ibuf (c : Core) (i n : Nat) : (c.count i n).ibuf = c.ibuf := rfl
@[simp] theorem Core.count_chan0 (c : Core) (i n : Nat) : (c.count i n).chan0 = c.chan0 := rfl
@[simp] theorem Core.count_chan1 (c : Core) (i n : Nat) : (c.count i n).chan1 = c.chan1 := rfl
@[simp] theorem Core.count_abuf (c : Core) (i n : Nat) : (c.count i n).abuf = c.abuf := rfl
@[simp] theorem Core.count_queues (c : Core) (i n : Nat) : (c.count i n).queues = c.queues := rfl
@[simp] theorem Core.count_rings (c : Core) (i n : Nat) : (c.count i n).rings = c.rings := rfl
@[simp] theorem Core.count_epis (c : Core) (i n : Nat) : (c.count i n).epis = c.epis := rfl
@[simp] theorem Core.count_prog (c : Core) (i n : Nat) : (c.count i n).prog = c.prog := rfl
@[simp] theorem Core.count_progStop (c : Core) (i n : Nat) : (c.count i n).progStop = c.progStop := rfl
@[simp] theorem Core.count_pmc (c : Core) (i n : Nat) : (c.count i n).pmc = tset c.pmc i ((tgetD c.pmc i 0 + n) % 2 ^ 64) := rfl
@[simp] theorem Core.count_dbg (c : Core) (i n : Nat) : (c.count i n).dbg = c.dbg := rfl
@[simp] theorem Core.count_lastSlot (c : Core) (i n : Nat) : (c.count i n).lastSlot = c.lastSlot := rfl
@[simp] theorem Core.count_lastPath (c : Core) (i n : Nat) : (c.count i n).lastPath = c.lastPath := rfl
@[simp] theorem Core.count_run (c : Core) (i n : Nat) : (c.count i n).run = c.run := rfl
@[simp] theorem Core.count_nextClk (c : Core) (i n : Nat) : (c.count i n).nextClk = c.nextClk := rfl
@[simp] theorem Core.count_idleFrom (c : Core) (i n : Nat) : (c.count i n).idleFrom = c.idleFrom := rfl
@[simp] theorem Core.count_vecPipe (c : Core) (i n : Nat) : (c.count i n).vecPipe = c.vecPipe := rfl
@[simp] theorem Core.count_sclPipe (c : Core) (i n : Nat) : (c.count i n).sclPipe = c.sclPipe := rfl
@[simp] theorem Core.count_memPipe (c : Core) (i n : Nat) : (c.count i n).memPipe = c.memPipe := rfl
@[simp] theorem Core.count_stream (c : Core) (i n : Nat) : (c.count i n).stream = c.stream := rfl
@[simp] theorem Core.count_halted (c : Core) (i n : Nat) : (c.count i n).halted = c.halted := rfl
@[simp] theorem Core.count_synced (c : Core) (i n : Nat) : (c.count i n).synced = c.synced := rfl

@[simp] theorem Rec.take_rid (r : Rec) (n : Nat) : (r.take n).rid = r.rid := rfl
@[simp] theorem Rec.take_wide (r : Rec) (n : Nat) : (r.take n).wide = r.wide := rfl
@[simp] theorem Rec.take_count (r : Rec) (n : Nat) : (r.take n).count = r.count.map (· - n) := rfl
@[simp] theorem Rec.take_vals (r : Rec) (n : Nat) : (r.take n).vals = r.vals := rfl
@[simp] theorem Rec.take_pend (r : Rec) (n : Nat) : (r.take n).pend = r.pend := rfl
@[simp] theorem Rec.take_absent (r : Rec) (n : Nat) : (r.take n).absent = r.absent := rfl
@[simp] theorem Rec.take_failed (r : Rec) (n : Nat) : (r.take n).failed = r.failed := rfl
@[simp] theorem Rec.take_units (r : Rec) (n : Nat) : (r.take n).units = r.units := rfl
@[simp] theorem Rec.take_maker (r : Rec) (n : Nat) : (r.take n).maker = r.maker := rfl

@[simp] theorem Strand.setCounter_width (st : Strand) (k : Nat) (c : Counter) : (st.setCounter k c).width = st.width := rfl
@[simp] theorem Strand.setCounter_launch (st : Strand) (k : Nat) (c : Counter) : (st.setCounter k c).launch = st.launch := rfl
@[simp] theorem Strand.setCounter_cohort (st : Strand) (k : Nat) (c : Counter) : (st.setCounter k c).cohort = st.cohort := rfl
@[simp] theorem Strand.setCounter_number (st : Strand) (k : Nat) (c : Counter) : (st.setCounter k c).number = st.number := rfl
@[simp] theorem Strand.setCounter_linear (st : Strand) (k : Nat) (c : Counter) : (st.setCounter k c).linear = st.linear := rfl
@[simp] theorem Strand.setCounter_index (st : Strand) (k : Nat) (c : Counter) : (st.setCounter k c).index = st.index := rfl
@[simp] theorem Strand.setCounter_role (st : Strand) (k : Nat) (c : Counter) : (st.setCounter k c).role = st.role := rfl
@[simp] theorem Strand.setCounter_armature (st : Strand) (k : Nat) (c : Counter) : (st.setCounter k c).armature = st.armature := rfl
@[simp] theorem Strand.setCounter_entry (st : Strand) (k : Nat) (c : Counter) : (st.setCounter k c).entry = st.entry := rfl
@[simp] theorem Strand.setCounter_paths (st : Strand) (k : Nat) (c : Counter) : (st.setCounter k c).paths = st.paths := rfl
@[simp] theorem Strand.setCounter_splits (st : Strand) (k : Nat) (c : Counter) : (st.setCounter k c).splits = st.splits := rfl
@[simp] theorem Strand.setCounter_counters (st : Strand) (k : Nat) (c : Counter) : (st.setCounter k c).counters = tset st.counters k c := rfl
@[simp] theorem Strand.setCounter_fails (st : Strand) (k : Nat) (c : Counter) : (st.setCounter k c).fails = st.fails := rfl
@[simp] theorem Strand.setCounter_flights (st : Strand) (k : Nat) (c : Counter) : (st.setCounter k c).flights = st.flights := rfl
@[simp] theorem Strand.setCounter_tagsCore (st : Strand) (k : Nat) (c : Counter) : (st.setCounter k c).tagsCore = st.tagsCore := rfl
@[simp] theorem Strand.setCounter_tagsQuad (st : Strand) (k : Nat) (c : Counter) : (st.setCounter k c).tagsQuad = st.tagsQuad := rfl
@[simp] theorem Strand.setCounter_exited (st : Strand) (k : Nat) (c : Counter) : (st.setCounter k c).exited = st.exited := rfl
@[simp] theorem Strand.setCounter_o (st : Strand) (k : Nat) (c : Counter) : (st.setCounter k c).o = st.o := rfl
@[simp] theorem Strand.setCounter_lastRel (st : Strand) (k : Nat) (c : Counter) : (st.setCounter k c).lastRel = st.lastRel := rfl
@[simp] theorem Strand.setCounter_spilled (st : Strand) (k : Nat) (c : Counter) : (st.setCounter k c).spilled = st.spilled := rfl
@[simp] theorem Strand.setCounter_started (st : Strand) (k : Nat) (c : Counter) : (st.setCounter k c).started = st.started := rfl
@[simp] theorem Strand.setCounter_task (st : Strand) (k : Nat) (c : Counter) : (st.setCounter k c).task = st.task := rfl
@[simp] theorem Strand.setCounter_trapFrom (st : Strand) (k : Nat) (c : Counter) : (st.setCounter k c).trapFrom = st.trapFrom := rfl
@[simp] theorem Strand.setCounter_frame (st : Strand) (k : Nat) (c : Counter) : (st.setCounter k c).frame = st.frame := rfl
@[simp] theorem Strand.setCounter_next (st : Strand) (k : Nat) (c : Counter) : (st.setCounter k c).next = st.next := rfl

@[simp] theorem Partition.setHq_quads (p : Partition) (q : Nat) (x : HQueue) : (p.setHq q x).quads = p.quads := rfl
@[simp] theorem Partition.setHq_pairs (p : Partition) (q : Nat) (x : HQueue) : (p.setHq q x).pairs = p.pairs := rfl
@[simp] theorem Partition.setHq_shares (p : Partition) (q : Nat) (x : HQueue) : (p.setHq q x).shares = p.shares := rfl
@[simp] theorem Partition.setHq_configured (p : Partition) (q : Nat) (x : HQueue) : (p.setHq q x).configured = p.configured := rfl
@[simp] theorem Partition.setHq_sealed (p : Partition) (q : Nat) (x : HQueue) : (p.setHq q x).sealed = p.sealed := rfl
@[simp] theorem Partition.setHq_preempt (p : Partition) (q : Nat) (x : HQueue) : (p.setHq q x).preempt = p.preempt := rfl
@[simp] theorem Partition.setHq_saved (p : Partition) (q : Nat) (x : HQueue) : (p.setHq q x).saved = p.saved := rfl
@[simp] theorem Partition.setHq_loc (p : Partition) (q : Nat) (x : HQueue) : (p.setHq q x).loc = p.loc := rfl
@[simp] theorem Partition.setHq_cqbase (p : Partition) (q : Nat) (x : HQueue) : (p.setHq q x).cqbase = p.cqbase := rfl
@[simp] theorem Partition.setHq_cqcap (p : Partition) (q : Nat) (x : HQueue) : (p.setHq q x).cqcap = p.cqcap := rfl
@[simp] theorem Partition.setHq_pevt (p : Partition) (q : Nat) (x : HQueue) : (p.setHq q x).pevt = p.pevt := rfl
@[simp] theorem Partition.setHq_queues (p : Partition) (q : Nat) (x : HQueue) : (p.setHq q x).queues = tset p.queues q x := rfl
@[simp] theorem Partition.setHq_keys (p : Partition) (q : Nat) (x : HQueue) : (p.setHq q x).keys = p.keys := rfl
@[simp] theorem Partition.setHq_exports (p : Partition) (q : Nat) (x : HQueue) : (p.setHq q x).exports = p.exports := rfl
@[simp] theorem Partition.setHq_groups (p : Partition) (q : Nat) (x : HQueue) : (p.setHq q x).groups = p.groups := rfl
@[simp] theorem Partition.setHq_pods (p : Partition) (q : Nat) (x : HQueue) : (p.setHq q x).pods = p.pods := rfl
@[simp] theorem Partition.setHq_ovfBase (p : Partition) (q : Nat) (x : HQueue) : (p.setHq q x).ovfBase = p.ovfBase := rfl
@[simp] theorem Partition.setHq_ovfSize (p : Partition) (q : Nat) (x : HQueue) : (p.setHq q x).ovfSize = p.ovfSize := rfl
@[simp] theorem Partition.setHq_ovfOrder (p : Partition) (q : Nat) (x : HQueue) : (p.setHq q x).ovfOrder = p.ovfOrder := rfl
@[simp] theorem Partition.setHq_ovfTickets (p : Partition) (q : Nat) (x : HQueue) : (p.setHq q x).ovfTickets = p.ovfTickets := rfl
@[simp] theorem Partition.setHq_cap (p : Partition) (q : Nat) (x : HQueue) : (p.setHq q x).cap = p.cap := rfl
@[simp] theorem Partition.setHq_clock0 (p : Partition) (q : Nat) (x : HQueue) : (p.setHq q x).clock0 = p.clock0 := rfl
@[simp] theorem Partition.setHq_ahead (p : Partition) (q : Nat) (x : HQueue) : (p.setHq q x).ahead = p.ahead := rfl
@[simp] theorem Partition.setHq_ordinals (p : Partition) (q : Nat) (x : HQueue) : (p.setHq q x).ordinals = p.ordinals := rfl
@[simp] theorem Partition.setHq_kernels (p : Partition) (q : Nat) (x : HQueue) : (p.setHq q x).kernels = p.kernels := rfl
@[simp] theorem Partition.setHq_stop (p : Partition) (q : Nat) (x : HQueue) : (p.setHq q x).stop = p.stop := rfl
@[simp] theorem Partition.setHq_stopst (p : Partition) (q : Nat) (x : HQueue) : (p.setHq q x).stopst = p.stopst := rfl
@[simp] theorem Partition.setHq_bps (p : Partition) (q : Nat) (x : HQueue) : (p.setHq q x).bps = p.bps := rfl
@[simp] theorem Partition.setHq_wps (p : Partition) (q : Nat) (x : HQueue) : (p.setHq q x).wps = p.wps := rfl
@[simp] theorem Partition.setHq_ctlo (p : Partition) (q : Nat) (x : HQueue) : (p.setHq q x).ctlo = p.ctlo := rfl
@[simp] theorem Partition.setHq_cthi (p : Partition) (q : Nat) (x : HQueue) : (p.setHq q x).cthi = p.cthi := rfl
@[simp] theorem Partition.setHq_ctd (p : Partition) (q : Nat) (x : HQueue) : (p.setHq q x).ctd = p.ctd := rfl
@[simp] theorem Partition.setHq_ctdur (p : Partition) (q : Nat) (x : HQueue) : (p.setHq q x).ctdur = p.ctdur := rfl
@[simp] theorem Partition.setHq_ctstat (p : Partition) (q : Nat) (x : HQueue) : (p.setHq q x).ctstat = p.ctstat := rfl
@[simp] theorem Partition.setHq_trial (p : Partition) (q : Nat) (x : HQueue) : (p.setHq q x).trial = p.trial := rfl
@[simp] theorem Partition.setHq_refused (p : Partition) (q : Nat) (x : HQueue) : (p.setHq q x).refused = p.refused := rfl
@[simp] theorem Partition.setHq_master (p : Partition) (q : Nat) (x : HQueue) : (p.setHq q x).master = p.master := rfl
@[simp] theorem Partition.setHq_electing (p : Partition) (q : Nat) (x : HQueue) : (p.setHq q x).electing = p.electing := rfl
@[simp] theorem Partition.setHq_owner (p : Partition) (q : Nat) (x : HQueue) : (p.setHq q x).owner = p.owner := rfl

@[simp] theorem State.blockedAt_dev (s : State) : (s.blockedAt).dev = s.dev := rfl
@[simp] theorem State.blockedAt_core (s : State) : (s.blockedAt).core = s.core := rfl
@[simp] theorem State.blockedAt_strand (s : State) : (s.blockedAt).strand = s.strand := rfl
@[simp] theorem State.blockedAt_path (s : State) : (s.blockedAt).path = { s.path with blocked := some (s.path.blocked.getD s.clock) } := rfl
@[simp] theorem State.blockedAt_focus (s : State) : (s.blockedAt).focus = s.focus := rfl
@[simp] theorem State.blockedAt_clock (s : State) : (s.blockedAt).clock = s.clock := rfl
@[simp] theorem State.blockedAt_uid (s : State) : (s.blockedAt).uid = s.uid := rfl
@[simp] theorem State.blockedAt_draws (s : State) : (s.blockedAt).draws = s.draws := rfl
@[simp] theorem State.blockedAt_turns (s : State) : (s.blockedAt).turns = s.turns := rfl

@[simp] theorem Path.put_pc (p : Path) (n : Name) (r : Rec) : (p.put n r).pc = p.pc := by cases n <;> rfl
@[simp] theorem Path.put_blk (p : Path) (n : Name) (r : Rec) : (p.put n r).blk = p.blk := by cases n <;> rfl
@[simp] theorem Path.put_lanes (p : Path) (n : Name) (r : Rec) : (p.put n r).lanes = p.lanes := by cases n <;> rfl
@[simp] theorem Path.put_masks (p : Path) (n : Name) (r : Rec) : (p.put n r).masks = p.masks := by cases n <;> rfl
@[simp] theorem Path.put_walkers (p : Path) (n : Name) (r : Rec) : (p.put n r).walkers = p.walkers := by cases n <;> rfl
@[simp] theorem Path.put_slot (p : Path) (n : Name) (r : Rec) : (p.put n r).slot = p.slot := by cases n <;> rfl
@[simp] theorem Path.put_frag (p : Path) (n : Name) (r : Rec) : (p.put n r).frag = p.frag := by cases n <;> rfl
@[simp] theorem Path.put_parent (p : Path) (n : Name) (r : Rec) : (p.put n r).parent = p.parent := by cases n <;> rfl
@[simp] theorem Path.put_rejoin (p : Path) (n : Name) (r : Rec) : (p.put n r).rejoin = p.rejoin := by cases n <;> rfl
@[simp] theorem Path.put_arms (p : Path) (n : Name) (r : Rec) : (p.put n r).arms = p.arms := by cases n <;> rfl
@[simp] theorem Path.put_status (p : Path) (n : Name) (r : Rec) : (p.put n r).status = p.status := by cases n <;> rfl
@[simp] theorem Path.put_trap (p : Path) (n : Name) (r : Rec) : (p.put n r).trap = p.trap := by cases n <;> rfl
@[simp] theorem Path.put_handler (p : Path) (n : Name) (r : Rec) : (p.put n r).handler = p.handler := by cases n <;> rfl
@[simp] theorem Path.put_window (p : Path) (n : Name) (r : Rec) : (p.put n r).window = p.window := by cases n <;> rfl
@[simp] theorem Path.put_redo (p : Path) (n : Name) (r : Rec) : (p.put n r).redo = p.redo := by cases n <;> rfl
@[simp] theorem Path.put_last (p : Path) (n : Name) (r : Rec) : (p.put n r).last = p.last := by cases n <;> rfl
@[simp] theorem Path.put_hold (p : Path) (n : Name) (r : Rec) : (p.put n r).hold = p.hold := by cases n <;> rfl
@[simp] theorem Path.put_pass (p : Path) (n : Name) (r : Rec) : (p.put n r).pass = p.pass := by cases n <;> rfl
@[simp] theorem Path.put_starved (p : Path) (n : Name) (r : Rec) : (p.put n r).starved = p.starved := by cases n <;> rfl
@[simp] theorem Path.put_blocked (p : Path) (n : Name) (r : Rec) : (p.put n r).blocked = p.blocked := by cases n <;> rfl
@[simp] theorem Path.put_codeFrom (p : Path) (n : Name) (r : Rec) : (p.put n r).codeFrom = p.codeFrom := by cases n <;> rfl
@[simp] theorem Path.put_codeOk (p : Path) (n : Name) (r : Rec) : (p.put n r).codeOk = p.codeOk := by cases n <;> rfl
@[simp] theorem Path.put_joinCheck (p : Path) (n : Name) (r : Rec) : (p.put n r).joinCheck = p.joinCheck := by cases n <;> rfl
@[simp] theorem Path.put_asked (p : Path) (n : Name) (r : Rec) : (p.put n r).asked = p.asked := by cases n <;> rfl

@[simp] theorem Path.del_pc (p : Path) (n : Name) : (p.del n).pc = p.pc := by cases n <;> rfl
@[simp] theorem Path.del_blk (p : Path) (n : Name) : (p.del n).blk = p.blk := by cases n <;> rfl
@[simp] theorem Path.del_lanes (p : Path) (n : Name) : (p.del n).lanes = p.lanes := by cases n <;> rfl
@[simp] theorem Path.del_masks (p : Path) (n : Name) : (p.del n).masks = p.masks := by cases n <;> rfl
@[simp] theorem Path.del_walkers (p : Path) (n : Name) : (p.del n).walkers = p.walkers := by cases n <;> rfl
@[simp] theorem Path.del_slot (p : Path) (n : Name) : (p.del n).slot = p.slot := by cases n <;> rfl
@[simp] theorem Path.del_frag (p : Path) (n : Name) : (p.del n).frag = p.frag := by cases n <;> rfl
@[simp] theorem Path.del_parent (p : Path) (n : Name) : (p.del n).parent = p.parent := by cases n <;> rfl
@[simp] theorem Path.del_rejoin (p : Path) (n : Name) : (p.del n).rejoin = p.rejoin := by cases n <;> rfl
@[simp] theorem Path.del_arms (p : Path) (n : Name) : (p.del n).arms = p.arms := by cases n <;> rfl
@[simp] theorem Path.del_status (p : Path) (n : Name) : (p.del n).status = p.status := by cases n <;> rfl
@[simp] theorem Path.del_trap (p : Path) (n : Name) : (p.del n).trap = p.trap := by cases n <;> rfl
@[simp] theorem Path.del_handler (p : Path) (n : Name) : (p.del n).handler = p.handler := by cases n <;> rfl
@[simp] theorem Path.del_window (p : Path) (n : Name) : (p.del n).window = p.window := by cases n <;> rfl
@[simp] theorem Path.del_redo (p : Path) (n : Name) : (p.del n).redo = p.redo := by cases n <;> rfl
@[simp] theorem Path.del_last (p : Path) (n : Name) : (p.del n).last = p.last := by cases n <;> rfl
@[simp] theorem Path.del_hold (p : Path) (n : Name) : (p.del n).hold = p.hold := by cases n <;> rfl
@[simp] theorem Path.del_pass (p : Path) (n : Name) : (p.del n).pass = p.pass := by cases n <;> rfl
@[simp] theorem Path.del_starved (p : Path) (n : Name) : (p.del n).starved = p.starved := by cases n <;> rfl
@[simp] theorem Path.del_blocked (p : Path) (n : Name) : (p.del n).blocked = p.blocked := by cases n <;> rfl
@[simp] theorem Path.del_codeFrom (p : Path) (n : Name) : (p.del n).codeFrom = p.codeFrom := by cases n <;> rfl
@[simp] theorem Path.del_codeOk (p : Path) (n : Name) : (p.del n).codeOk = p.codeOk := by cases n <;> rfl
@[simp] theorem Path.del_joinCheck (p : Path) (n : Name) : (p.del n).joinCheck = p.joinCheck := by cases n <;> rfl
@[simp] theorem Path.del_asked (p : Path) (n : Name) : (p.del n).asked = p.asked := by cases n <;> rfl

@[simp] theorem Path.settle_pc (p : Path) (n : Name) (r : Rec) : (p.settle n r).pc = p.pc := by
  unfold Path.settle; split <;> simp
@[simp] theorem Path.settle_blk (p : Path) (n : Name) (r : Rec) : (p.settle n r).blk = p.blk := by
  unfold Path.settle; split <;> simp
@[simp] theorem Path.settle_lanes (p : Path) (n : Name) (r : Rec) : (p.settle n r).lanes = p.lanes := by
  unfold Path.settle; split <;> simp
@[simp] theorem Path.settle_masks (p : Path) (n : Name) (r : Rec) : (p.settle n r).masks = p.masks := by
  unfold Path.settle; split <;> simp
@[simp] theorem Path.settle_walkers (p : Path) (n : Name) (r : Rec) : (p.settle n r).walkers = p.walkers := by
  unfold Path.settle; split <;> simp
@[simp] theorem Path.settle_slot (p : Path) (n : Name) (r : Rec) : (p.settle n r).slot = p.slot := by
  unfold Path.settle; split <;> simp
@[simp] theorem Path.settle_frag (p : Path) (n : Name) (r : Rec) : (p.settle n r).frag = p.frag := by
  unfold Path.settle; split <;> simp
@[simp] theorem Path.settle_parent (p : Path) (n : Name) (r : Rec) : (p.settle n r).parent = p.parent := by
  unfold Path.settle; split <;> simp
@[simp] theorem Path.settle_rejoin (p : Path) (n : Name) (r : Rec) : (p.settle n r).rejoin = p.rejoin := by
  unfold Path.settle; split <;> simp
@[simp] theorem Path.settle_arms (p : Path) (n : Name) (r : Rec) : (p.settle n r).arms = p.arms := by
  unfold Path.settle; split <;> simp
@[simp] theorem Path.settle_status (p : Path) (n : Name) (r : Rec) : (p.settle n r).status = p.status := by
  unfold Path.settle; split <;> simp
@[simp] theorem Path.settle_trap (p : Path) (n : Name) (r : Rec) : (p.settle n r).trap = p.trap := by
  unfold Path.settle; split <;> simp
@[simp] theorem Path.settle_handler (p : Path) (n : Name) (r : Rec) : (p.settle n r).handler = p.handler := by
  unfold Path.settle; split <;> simp
@[simp] theorem Path.settle_window (p : Path) (n : Name) (r : Rec) : (p.settle n r).window = p.window := by
  unfold Path.settle; split <;> simp
@[simp] theorem Path.settle_redo (p : Path) (n : Name) (r : Rec) : (p.settle n r).redo = p.redo := by
  unfold Path.settle; split <;> simp
@[simp] theorem Path.settle_last (p : Path) (n : Name) (r : Rec) : (p.settle n r).last = p.last := by
  unfold Path.settle; split <;> simp
@[simp] theorem Path.settle_hold (p : Path) (n : Name) (r : Rec) : (p.settle n r).hold = p.hold := by
  unfold Path.settle; split <;> simp
@[simp] theorem Path.settle_pass (p : Path) (n : Name) (r : Rec) : (p.settle n r).pass = p.pass := by
  unfold Path.settle; split <;> simp
@[simp] theorem Path.settle_starved (p : Path) (n : Name) (r : Rec) : (p.settle n r).starved = p.starved := by
  unfold Path.settle; split <;> simp
@[simp] theorem Path.settle_blocked (p : Path) (n : Name) (r : Rec) : (p.settle n r).blocked = p.blocked := by
  unfold Path.settle; split <;> simp
@[simp] theorem Path.settle_codeFrom (p : Path) (n : Name) (r : Rec) : (p.settle n r).codeFrom = p.codeFrom := by
  unfold Path.settle; split <;> simp
@[simp] theorem Path.settle_codeOk (p : Path) (n : Name) (r : Rec) : (p.settle n r).codeOk = p.codeOk := by
  unfold Path.settle; split <;> simp
@[simp] theorem Path.settle_joinCheck (p : Path) (n : Name) (r : Rec) : (p.settle n r).joinCheck = p.joinCheck := by
  unfold Path.settle; split <;> simp
@[simp] theorem Path.settle_asked (p : Path) (n : Name) (r : Rec) : (p.settle n r).asked = p.asked := by
  unfold Path.settle; split <;> simp

@[simp] theorem Path.takeReads_pc (p : Path) (ns : List Name) : (p.takeReads ns).pc = p.pc := by
  unfold Path.takeReads
  induction ns generalizing p with
  | nil => rfl
  | cons n ns ih => simp only [List.foldl_cons, ih]; split <;> simp
@[simp] theorem Path.takeReads_blk (p : Path) (ns : List Name) : (p.takeReads ns).blk = p.blk := by
  unfold Path.takeReads
  induction ns generalizing p with
  | nil => rfl
  | cons n ns ih => simp only [List.foldl_cons, ih]; split <;> simp
@[simp] theorem Path.takeReads_lanes (p : Path) (ns : List Name) : (p.takeReads ns).lanes = p.lanes := by
  unfold Path.takeReads
  induction ns generalizing p with
  | nil => rfl
  | cons n ns ih => simp only [List.foldl_cons, ih]; split <;> simp
@[simp] theorem Path.takeReads_masks (p : Path) (ns : List Name) : (p.takeReads ns).masks = p.masks := by
  unfold Path.takeReads
  induction ns generalizing p with
  | nil => rfl
  | cons n ns ih => simp only [List.foldl_cons, ih]; split <;> simp
@[simp] theorem Path.takeReads_walkers (p : Path) (ns : List Name) : (p.takeReads ns).walkers = p.walkers := by
  unfold Path.takeReads
  induction ns generalizing p with
  | nil => rfl
  | cons n ns ih => simp only [List.foldl_cons, ih]; split <;> simp
@[simp] theorem Path.takeReads_slot (p : Path) (ns : List Name) : (p.takeReads ns).slot = p.slot := by
  unfold Path.takeReads
  induction ns generalizing p with
  | nil => rfl
  | cons n ns ih => simp only [List.foldl_cons, ih]; split <;> simp
@[simp] theorem Path.takeReads_frag (p : Path) (ns : List Name) : (p.takeReads ns).frag = p.frag := by
  unfold Path.takeReads
  induction ns generalizing p with
  | nil => rfl
  | cons n ns ih => simp only [List.foldl_cons, ih]; split <;> simp
@[simp] theorem Path.takeReads_parent (p : Path) (ns : List Name) : (p.takeReads ns).parent = p.parent := by
  unfold Path.takeReads
  induction ns generalizing p with
  | nil => rfl
  | cons n ns ih => simp only [List.foldl_cons, ih]; split <;> simp
@[simp] theorem Path.takeReads_rejoin (p : Path) (ns : List Name) : (p.takeReads ns).rejoin = p.rejoin := by
  unfold Path.takeReads
  induction ns generalizing p with
  | nil => rfl
  | cons n ns ih => simp only [List.foldl_cons, ih]; split <;> simp
@[simp] theorem Path.takeReads_arms (p : Path) (ns : List Name) : (p.takeReads ns).arms = p.arms := by
  unfold Path.takeReads
  induction ns generalizing p with
  | nil => rfl
  | cons n ns ih => simp only [List.foldl_cons, ih]; split <;> simp
@[simp] theorem Path.takeReads_status (p : Path) (ns : List Name) : (p.takeReads ns).status = p.status := by
  unfold Path.takeReads
  induction ns generalizing p with
  | nil => rfl
  | cons n ns ih => simp only [List.foldl_cons, ih]; split <;> simp
@[simp] theorem Path.takeReads_trap (p : Path) (ns : List Name) : (p.takeReads ns).trap = p.trap := by
  unfold Path.takeReads
  induction ns generalizing p with
  | nil => rfl
  | cons n ns ih => simp only [List.foldl_cons, ih]; split <;> simp
@[simp] theorem Path.takeReads_handler (p : Path) (ns : List Name) : (p.takeReads ns).handler = p.handler := by
  unfold Path.takeReads
  induction ns generalizing p with
  | nil => rfl
  | cons n ns ih => simp only [List.foldl_cons, ih]; split <;> simp
@[simp] theorem Path.takeReads_window (p : Path) (ns : List Name) : (p.takeReads ns).window = p.window := by
  unfold Path.takeReads
  induction ns generalizing p with
  | nil => rfl
  | cons n ns ih => simp only [List.foldl_cons, ih]; split <;> simp
@[simp] theorem Path.takeReads_redo (p : Path) (ns : List Name) : (p.takeReads ns).redo = p.redo := by
  unfold Path.takeReads
  induction ns generalizing p with
  | nil => rfl
  | cons n ns ih => simp only [List.foldl_cons, ih]; split <;> simp
@[simp] theorem Path.takeReads_last (p : Path) (ns : List Name) : (p.takeReads ns).last = p.last := by
  unfold Path.takeReads
  induction ns generalizing p with
  | nil => rfl
  | cons n ns ih => simp only [List.foldl_cons, ih]; split <;> simp
@[simp] theorem Path.takeReads_hold (p : Path) (ns : List Name) : (p.takeReads ns).hold = p.hold := by
  unfold Path.takeReads
  induction ns generalizing p with
  | nil => rfl
  | cons n ns ih => simp only [List.foldl_cons, ih]; split <;> simp
@[simp] theorem Path.takeReads_pass (p : Path) (ns : List Name) : (p.takeReads ns).pass = p.pass := by
  unfold Path.takeReads
  induction ns generalizing p with
  | nil => rfl
  | cons n ns ih => simp only [List.foldl_cons, ih]; split <;> simp
@[simp] theorem Path.takeReads_starved (p : Path) (ns : List Name) : (p.takeReads ns).starved = p.starved := by
  unfold Path.takeReads
  induction ns generalizing p with
  | nil => rfl
  | cons n ns ih => simp only [List.foldl_cons, ih]; split <;> simp
@[simp] theorem Path.takeReads_blocked (p : Path) (ns : List Name) : (p.takeReads ns).blocked = p.blocked := by
  unfold Path.takeReads
  induction ns generalizing p with
  | nil => rfl
  | cons n ns ih => simp only [List.foldl_cons, ih]; split <;> simp
@[simp] theorem Path.takeReads_codeFrom (p : Path) (ns : List Name) : (p.takeReads ns).codeFrom = p.codeFrom := by
  unfold Path.takeReads
  induction ns generalizing p with
  | nil => rfl
  | cons n ns ih => simp only [List.foldl_cons, ih]; split <;> simp
@[simp] theorem Path.takeReads_codeOk (p : Path) (ns : List Name) : (p.takeReads ns).codeOk = p.codeOk := by
  unfold Path.takeReads
  induction ns generalizing p with
  | nil => rfl
  | cons n ns ih => simp only [List.foldl_cons, ih]; split <;> simp
@[simp] theorem Path.takeReads_joinCheck (p : Path) (ns : List Name) : (p.takeReads ns).joinCheck = p.joinCheck := by
  unfold Path.takeReads
  induction ns generalizing p with
  | nil => rfl
  | cons n ns ih => simp only [List.foldl_cons, ih]; split <;> simp
@[simp] theorem Path.takeReads_asked (p : Path) (ns : List Name) : (p.takeReads ns).asked = p.asked := by
  unfold Path.takeReads
  induction ns generalizing p with
  | nil => rfl
  | cons n ns ih => simp only [List.foldl_cons, ih]; split <;> simp

end Sys2Proof.Machine
end

