-- ==== Sys2Proof/Laws/Flow.lean ====
section
/-! SUPPORT. What raising a trap, moving on and entering a block can do: each leaves everything but the path, and where an
instruction completes the issue state of the core, as it was. -/
namespace Sys2Proof.Machine

/-! ### Raising -/

/-- A fault of the whole path: only the path changes, and it keeps its names (R70, R340). -/
theorem raise_eq {α : Type} (c : Nat) (s : State) : (raise c s : Ex α) = .error (if s.path.windowOpen then s else
    { s with path := s.path.trapped (s.path.trapHere c) }) := by
  unfold raise; split <;> simp_all

theorem out_raise (c : Nat) (s : State) : Ex.out (raise c s) = .next (if s.path.windowOpen then s else
    { s with path := s.path.trapped (s.path.trapHere c) }) := by
  rw [raise_eq]; rfl

@[simp] theorem out_ok (s : State) : Ex.out (.ok s) = .next s := rfl
@[simp] theorem out_error (s : State) : Ex.out (.error s) = .next s := rfl

/-- A meaning written with `Ex` always answers a next state. -/
theorem out_next (x : Ex State) : ∃ t, x.out = .next t := by cases x <;> exact ⟨_, rfl⟩

/-! ### Moving on -/

theorem Path.SameNames.refl (p : Path) : p.SameNames p := ⟨rfl, rfl, rfl, rfl, rfl, rfl, rfl⟩

theorem Path.SameNames.trans {p q r : Path} (h : p.SameNames q) (k : q.SameNames r) : p.SameNames r :=
  ⟨k.v.trans h.v, k.sc.trans h.sc, k.masks.trans h.masks, k.walkers.trans h.walkers, k.lanes.trans h.lanes, k.frag.trans h.frag,
    k.handler.trans h.handler⟩

theorem Path.SameNames.get {p q : Path} (h : p.SameNames q) (n : Name) : q.get n = p.get n := by
  cases n <;> simp only [Path.get, h.v, h.sc]

theorem Path.SameNames.mask {p q : Path} (h : p.SameNames q) (m : Fin 16) : q.mask m = p.mask m := by
  simp only [Path.mask, h.masks, h.lanes]

theorem undo_nothing (p : Path) : p.undo .nothing = p := rfl

theorem noHeader_same (p : Path) (o : Word) : p.SameNames (p.noHeader o .nothing) := ⟨rfl, rfl, rfl, rfl, rfl, rfl, rfl⟩

theorem trapped_same (p q : Path) (t : Trap) (h : p.SameNames q) : p.SameNames (q.trapped t) :=
  ⟨h.v, h.sc, h.masks, h.walkers, h.lanes, h.frag, h.handler⟩

theorem enter_same (p : Path) (b : Block) (fall : Bool) (a : Word) : p.SameNames (p.enter b fall a .nothing) := by
  unfold Path.enter
  split
  · split
    · exact trapped_same _ _ _ (by constructor <;> rfl)
    · exact noHeader_same _ _
  · split
    · exact trapped_same _ _ _ (by constructor <;> rfl)
    · constructor <;> rfl

/-- Where a path stops at a header, it keeps its names. -/
theorem halt_same (s : State) (a : Word) (fall : Bool) (q : Path) (h : s.halt a fall = some q) : s.path.SameNames q := by
  unfold State.halt at h
  dsimp only at h
  split at h
  · cases h; constructor <;> rfl
  · split at h
    · cases h; constructor <;> rfl
    · split at h
      · cases h; constructor <;> rfl
      · cases h

theorem comeTo_eq (s : State) (a : Word) (b : Block) (fall : Bool) (o : Word) (u : Undo) :
    s.comeTo a b fall o u = { s with path := (s.comeTo a b fall o u).path } := by
  unfold State.comeTo
  split <;> rfl

theorem comeTo_same (s : State) (a : Word) (b : Block) (fall : Bool) (o : Word) :
    s.path.SameNames (s.comeTo a b fall o .nothing).path := by
  unfold State.comeTo
  split
  · next h => exact halt_same s a fall _ h
  · dsimp only
    split
    · constructor <;> rfl
    · exact enter_same _ _ _ _

/-- Entering a block changes only the path. -/
theorem goTo_eq (s : State) (a : Word) (fall : Bool) (o : Word) (u : Undo) :
    s.goTo a fall o u = { s with path := (s.goTo a fall o u).path } := by
  unfold State.goTo
  dsimp only
  split
  · rfl
  · split
    · split
      · rfl
      · split
        · rfl
        · rw [comeTo_eq]
    · split <;> rfl

theorem goTo_same (s : State) (a : Word) (fall : Bool) (o : Word) : s.path.SameNames (s.goTo a fall o .nothing).path := by
  unfold State.goTo
  split
  · exact noHeader_same _ _
  · split
    · split
      · exact noHeader_same _ _
      · split
        · exact trapped_same _ _ _ (by constructor <;> rfl)
        · have hc : s.path.SameNames { s.path with joinCheck := false } := by constructor <;> rfl
          exact hc.trans (comeTo_same { s with path := { s.path with joinCheck := false } } a _ fall _)
    · split
      · next h =>
          split at h
          · exact halt_same s a fall _ h
          · cases h
      · constructor <;> rfl

theorem skipDone_same (n : Nat) (p : Path) : p.SameNames (Path.skipDone n p) := by
  induction n generalizing p with
  | zero => exact .refl p
  | succ n ih =>
    unfold Path.skipDone
    split
    · exact .refl p
    · split
      · dsimp only
        exact Path.SameNames.trans (by constructor <;> rfl) (ih _)
      · exact .refl p

theorem skipDone_none (n : Nat) (p : Path) (h : p.window = none) : Path.skipDone n p = p := by
  cases n with
  | zero => rfl
  | succ n => unfold Path.skipDone; rw [h]

theorem advance_eq (s : State) : s.advance = { s with path := s.advance.path } := by
  unfold State.advance
  extract_lets p t
  split
  · rw [goTo_eq]
  · rfl

theorem moved_same (p : Path) : p.SameNames (Path.skipDone 16 { p with pc := p.nextPc }) :=
  Path.SameNames.trans (by constructor <;> rfl) (skipDone_same 16 _)

theorem advance_same (s : State) : s.path.SameNames s.advance.path := by
  unfold State.advance
  dsimp only
  split
  · exact (moved_same s.path).trans (goTo_same { s with path := Path.skipDone 16 { s.path with pc := s.path.nextPc } } _ _ _)
  · exact moved_same s.path

/-- Within a block and outside a window the path goes on at the next word (R31, R36). -/
theorem advance_pc (s : State) (hw : s.path.window = none) (he : s.path.atEnd = false) :
    s.advance = { s with path := { s.path with pc := s.path.nextPc } } := by
  have e : s.path.nextPc ≠ s.path.blk.stop := by simpa [Path.atEnd] using he
  have hp : Path.skipDone 16 { s.path with pc := s.path.nextPc } = { s.path with pc := s.path.nextPc } := skipDone_none 16 _ hw
  unfold State.advance
  rw [hp]
  exact if_neg (by simp [e])

/-- At the end of its block it enters the header that follows (R31). -/
theorem advance_end (s : State) (hw : s.path.window = none) (he : s.path.atEnd = true) :
    s.advance = ({ s with path := { s.path with pc := s.path.nextPc } }).goTo s.path.nextPc true s.path.nextPc .nothing := by
  have e : s.path.nextPc = s.path.blk.stop := by simpa [Path.atEnd] using he
  have hp : Path.skipDone 16 { s.path with pc := s.path.nextPc } = { s.path with pc := s.path.nextPc } := skipDone_none 16 _ hw
  unfold State.advance
  rw [hp]
  exact if_pos (by simp [e, Path.windowOpen, hw])

theorem issued_same (s : State) : s.path.SameNames s.issued.path := ⟨rfl, rfl, rfl, rfl, rfl, rfl, rfl⟩

theorem windowStep_same (p : Path) : p.SameNames p.windowStep := by
  unfold Path.windowStep
  split
  · exact .refl p
  · split
    · exact ⟨rfl, rfl, rfl, rfl, rfl, rfl, rfl⟩
    · exact .refl p

/-- What a completed instruction leaves alone: names, masks, walkers and lanes of the path. -/
theorem done_same (s : State) : s.path.SameNames s.done.path := by
  unfold State.done
  extract_lets t
  have h1 : s.path.SameNames t.path := issued_same s
  exact (h1.trans (windowStep_same t.path)).trans (advance_same { t with path := t.path.windowStep })

@[simp] theorem issued_dev (s : State) : s.issued.dev = s.dev := rfl
@[simp] theorem issued_strand (s : State) : s.issued.strand = s.strand := rfl
@[simp] theorem issued_focus (s : State) : s.issued.focus = s.focus := rfl
@[simp] theorem issued_clock (s : State) : s.issued.clock = s.clock := rfl
@[simp] theorem issued_draws (s : State) : s.issued.draws = s.draws := rfl
@[simp] theorem issued_turns (s : State) : s.issued.turns = s.turns := rfl

theorem done_fields (s : State) : s.done.dev = s.dev ∧ s.done.strand = s.strand ∧ s.done.focus = s.focus ∧ s.done.clock = s.clock ∧
    s.done.draws = s.draws ∧ s.done.turns = s.turns ∧ s.done.core = s.issued.core := by
  unfold State.done
  extract_lets t
  rw [advance_eq]
  exact ⟨rfl, rfl, rfl, rfl, rfl, rfl, rfl⟩

@[simp] theorem done_dev (s : State) : s.done.dev = s.dev := (done_fields s).1
@[simp] theorem done_strand (s : State) : s.done.strand = s.strand := (done_fields s).2.1
@[simp] theorem done_focus (s : State) : s.done.focus = s.focus := (done_fields s).2.2.1
@[simp] theorem done_clock (s : State) : s.done.clock = s.clock := (done_fields s).2.2.2.1
@[simp] theorem done_draws (s : State) : s.done.draws = s.draws := (done_fields s).2.2.2.2.1
@[simp] theorem done_turns (s : State) : s.done.turns = s.turns := (done_fields s).2.2.2.2.2.1
theorem done_core (s : State) : s.done.core = s.issued.core := (done_fields s).2.2.2.2.2.2

/-- Within a block and outside a window, a completed instruction moves its path to the next word. -/
theorem done_pc (s : State) (hw : s.path.window = none) (he : s.path.atEnd = false) :
    s.done.path.pc = s.path.nextPc ∧ s.done.path.status = s.path.status ∧ s.done.path.blk = s.path.blk := by
  unfold State.done
  extract_lets t
  have hp : t.path.windowStep = t.path := by unfold Path.windowStep; rw [show t.path.window = none from hw]
  have ht : ({ t with path := t.path } : State) = t := rfl
  rw [hp, ht, advance_pc t hw (by exact he)]
  exact ⟨rfl, rfl, rfl⟩

theorem done_movedOn (s : State) : s.MovedOn s.done := fun hw he => done_pc s hw he

theorem mark_cohort (t : Tbl Cohort) (k : Nat) (e : Cohort) (c : Bool) :
    tgetD (if c then tset t k { tgetD t k e with discardable := false } else t) k e =
      { tgetD t k e with
        discardable := (tgetD (if c then tset t k { tgetD t k e with discardable := false } else t) k e).discardable } := by
  cases c
  · rfl
  · simp only [if_true, tgetD, tget_tset_same, Option.getD_some]

/-- A completed instruction is quiet outside its path. -/
theorem done_quiet (s : State) : s.Quiet s.done := by
  have hc := done_core s
  have hst := done_strand s
  constructor
  all_goals first
    | simp only [done_dev, done_strand, done_focus, done_clock, done_draws]; done
    | (rw [hc]; rfl)
    | skip
  unfold State.cohort
  rw [hc, hst]
  exact mark_cohort s.core.cohorts s.strand.cohort _ _

end Sys2Proof.Machine
end

