-- ==== Sys2Proof/Laws/Operands.lean ====
section
/-! SUPPORT. What reading sources and writing destinations can do, said once for every register instruction. -/
namespace Sys2Proof.Machine

/-! ### Names -/

theorem Path.get_put_same (p : Path) (n : Name) (r : Rec) : (p.put n r).get n = some r := by
  cases n <;> simp [Path.put, Path.get]

theorem Path.get_put_other (p : Path) {n m : Name} (r : Rec) (h : m ≠ n) : (p.put n r).get m = p.get m := by
  cases n with
  | vec a => cases m with
    | vec b => exact tget_tset_other _ _ (fun e => h (by rw [Fin.ext e]))
    | scl b => rfl
  | scl a => cases m with
    | vec b => rfl
    | scl b => exact tget_tset_other _ _ (fun e => h (by rw [Fin.ext e]))

theorem Path.get_del_same (p : Path) (n : Name) : (p.del n).get n = none := by
  cases n <;> simp [Path.del, Path.get]

theorem Path.get_del_other (p : Path) {n m : Name} (h : m ≠ n) : (p.del n).get m = p.get m := by
  cases n with
  | vec a => cases m with
    | vec b => exact tget_tdel_other _ (fun e => h (by rw [Fin.ext e]))
    | scl b => rfl
  | scl a => cases m with
    | vec b => rfl
    | scl b => exact tget_tdel_other _ (fun e => h (by rw [Fin.ext e]))

theorem Path.get_settle_same (p : Path) (n : Name) (r : Rec) : (p.settle n r).get n = if r.live then some r else none := by
  unfold Path.settle; split <;> simp_all [Path.get_put_same, Path.get_del_same]

theorem Path.get_settle_other (p : Path) {n m : Name} (r : Rec) (h : m ≠ n) : (p.settle n r).get m = p.get m := by
  unfold Path.settle; split <;> simp_all [Path.get_put_other, Path.get_del_other]

/-- A name that is not read keeps its record. -/
theorem Path.get_takeReads_other (p : Path) (ns : List Name) (m : Name) (h : m ∉ ns) : (p.takeReads ns).get m = p.get m := by
  unfold Path.takeReads
  induction ns generalizing p with
  | nil => rfl
  | cons n ns ih =>
    have hm : m ≠ n := fun e => h (by simp [e])
    rw [List.foldl_cons, ih _ (fun e => h (by simp [e]))]
    split
    · exact Path.get_settle_other p _ hm
    · rfl

/-- Reading steps walkers, and what an open window would give back of them; it changes no other field of the path. -/
theorem readVals_path (s : State) (srcs : List (Src × Ty)) (p : Path) :
    (readVals s srcs p).2 = { p with walkers := (readVals s srcs p).2.walkers, window := (readVals s srcs p).2.window } := by
  induction srcs generalizing p with
  | nil => rfl
  | cons e r ih =>
    obtain ⟨src, t⟩ := e
    cases src with
    | vec n => simp only [readVals]; exact ih p
    | scl n => simp only [readVals]; exact ih p
    | special n => simp only [readVals]; exact ih p
    | const c => simp only [readVals]; exact ih p
    | walker w =>
      simp only [readVals]
      split
      · dsimp only; rw [ih]; rfl
      · exact ih p

/-- Outside a window reading opens none. -/
theorem readVals_window (s : State) (srcs : List (Src × Ty)) (p : Path) (h : p.window = none) : (readVals s srcs p).2.window = none := by
  induction srcs generalizing p with
  | nil => exact h
  | cons e r ih =>
    obtain ⟨src, t⟩ := e
    cases src with
    | walker w =>
      simp only [readVals]
      split
      · exact ih _ (by simp [Path.stepWalker, Path.onWalker, h])
      · exact ih p h
    | vec n | scl n | special n | const c => simp only [readVals]; exact ih p h

/-! ### Reading sources -/

theorem readSrcs_ok (s : State) (srcs : List (Src × Ty)) (en : LaneSet) (h : s.CanRead srcs en) :
    readSrcs srcs [] en s = .ok (s.vals srcs, [], s.afterReads srcs) := by
  obtain ⟨h1, h2, h3, h4⟩ := h
  unfold readNames at h1 h3 h4
  unfold readSrcs State.vals State.afterReads readNames
  simp [h1, h2, h3, h4]

/-- EXNAME: a counted source has no record, or too few reads left, or a walker is not set (R24, R44). -/
theorem readSrcs_exname (s : State) (srcs : List (Src × Ty)) (en : LaneSet)
    (h : (s.path.hasReads (readNames srcs) && s.path.walkersSet (srcWalkers srcs)) = false) :
    readSrcs srcs [] en s = raise cExname s := by
  unfold readNames at h
  unfold readSrcs
  rw [List.append_nil, if_pos]
  cases h1 : s.path.hasReads (List.filterMap (fun e => srcName e.fst) srcs) <;>
    cases h2 : s.path.walkersSet (srcWalkers srcs) <;> simp_all

/-- A stall while data is missing (R21). -/
theorem readSrcs_stall (s : State) (srcs : List (Src × Ty)) (en : LaneSet) (h1 : s.path.hasReads (readNames srcs) = true)
    (h2 : s.path.walkersSet (srcWalkers srcs) = true) (h3 : s.path.present (readNames srcs) = false) :
    readSrcs srcs [] en s = .error s := by
  unfold readNames at h1 h3
  unfold readSrcs
  simp [h1, h2, h3, stall]

theorem afterReads_get_other (s : State) (srcs : List (Src × Ty)) (m : Name) (h : m ∉ readNames srcs) :
    (s.afterReads srcs).path.get m = s.path.get m := by
  show ((readVals s srcs s.path).2.takeReads (readNames srcs)).get m = s.path.get m
  rw [Path.get_takeReads_other _ _ _ h, readVals_path]
  cases m <;> rfl

@[simp] theorem afterReads_nil (s : State) : s.afterReads [] = s := rfl
@[simp] theorem vals_nil (s : State) : s.vals [] = [] := rfl

theorem afterReads_dev (s : State) (srcs : List (Src × Ty)) : (s.afterReads srcs).dev = s.dev := rfl
theorem afterReads_core (s : State) (srcs : List (Src × Ty)) : (s.afterReads srcs).core = s.core := rfl
theorem afterReads_strand (s : State) (srcs : List (Src × Ty)) : (s.afterReads srcs).strand = s.strand := rfl
theorem afterReads_masks (s : State) (srcs : List (Src × Ty)) : (s.afterReads srcs).path.masks = s.path.masks := by
  show ((readVals s srcs s.path).2.takeReads (readNames srcs)).masks = s.path.masks
  rw [Path.takeReads_masks, readVals_path]
theorem afterReads_lanes (s : State) (srcs : List (Src × Ty)) : (s.afterReads srcs).path.lanes = s.path.lanes := by
  show ((readVals s srcs s.path).2.takeReads (readNames srcs)).lanes = s.path.lanes
  rw [Path.takeReads_lanes, readVals_path]
theorem afterReads_pc (s : State) (srcs : List (Src × Ty)) : (s.afterReads srcs).path.pc = s.path.pc := by
  show ((readVals s srcs s.path).2.takeReads (readNames srcs)).pc = s.path.pc
  rw [Path.takeReads_pc, readVals_path]
theorem afterReads_blk (s : State) (srcs : List (Src × Ty)) : (s.afterReads srcs).path.blk = s.path.blk := by
  show ((readVals s srcs s.path).2.takeReads (readNames srcs)).blk = s.path.blk
  rw [Path.takeReads_blk, readVals_path]
theorem afterReads_window (s : State) (srcs : List (Src × Ty)) (h : s.path.window = none) : (s.afterReads srcs).path.window = none := by
  show ((readVals s srcs s.path).2.takeReads (readNames srcs)).window = none
  rw [Path.takeReads_window, readVals_window s srcs s.path h]

/-! ### Writing destinations -/

theorem checkDest_ok (d : Dest) (wide : Bool) (s0 s : State) (h : s.CanWrite d wide) : checkDest d wide s0 s = .ok () := by
  cases d with
  | sink => rfl
  | vec n c => simp only [State.CanWrite] at h; simp [checkDest, h]
  | scl n c => simp only [State.CanWrite] at h; simp [checkDest, h]

/-- NAMEBUSY where the destination is live (R25). -/
theorem checkDest_busy (d : Dest) (wide : Bool) (s0 s : State) (n : Name) (c : BitVec 4) (hd : destName d = some (n, c))
    (h : (s.path.get n).any Rec.live = true) : checkDest d wide s0 s = raise cNamebusy s0 := by
  cases d with
  | sink => simp [destName] at hd
  | vec m k => simp only [destName, Option.some.injEq, Prod.mk.injEq] at hd; obtain ⟨rfl, -⟩ := hd; simp [checkDest, h]
  | scl m k => simp only [destName, Option.some.injEq, Prod.mk.injEq] at hd; obtain ⟨rfl, -⟩ := hd; simp [checkDest, h]

theorem writeDest_get_same (d : Dest) (wide : Bool) (en : LaneSet) (f : Nat → Word) (s : State) (n : Name) (c : BitVec 4)
    (hd : destName d = some (n, c)) : (writeDest d wide en f s).path.get n =
      some (newRec s wide c (destVals d wide s.strand.width en f) s.path.pc) := by
  cases d with
  | sink => simp [destName] at hd
  | vec m k =>
    simp only [destName, Option.some.injEq, Prod.mk.injEq] at hd; obtain ⟨rfl, rfl⟩ := hd
    simp only [writeDest, Path.get_put_same]; rfl
  | scl m k =>
    simp only [destName, Option.some.injEq, Prod.mk.injEq] at hd; obtain ⟨rfl, rfl⟩ := hd
    simp only [writeDest, Path.get_put_same]; rfl

theorem writeDest_get_other (d : Dest) (wide : Bool) (en : LaneSet) (f : Nat → Word) (s : State) (m : Name)
    (h : ∀ c, destName d ≠ some (m, c)) : (writeDest d wide en f s).path.get m = s.path.get m := by
  cases d with
  | sink => rfl
  | vec n c => exact Path.get_put_other _ _ (fun e => h c (by rw [e]; rfl))
  | scl n c => exact Path.get_put_other _ _ (fun e => h c (by rw [e]; rfl))

theorem writeDest_fields (d : Dest) (wide : Bool) (en : LaneSet) (f : Nat → Word) (s : State) :
    (writeDest d wide en f s).dev = s.dev ∧ (writeDest d wide en f s).core = s.core ∧ (writeDest d wide en f s).strand = s.strand ∧
    (writeDest d wide en f s).path.masks = s.path.masks ∧ (writeDest d wide en f s).path.walkers = s.path.walkers ∧
    (writeDest d wide en f s).path.lanes = s.path.lanes ∧ (writeDest d wide en f s).path.pc = s.path.pc ∧
    (writeDest d wide en f s).path.blk = s.path.blk ∧ (writeDest d wide en f s).path.window = s.path.window ∧
    (writeDest d wide en f s).draws = s.draws := by
  cases d <;> exact ⟨rfl, rfl, rfl, rfl, rfl, rfl, rfl, rfl, rfl, rfl⟩

/-! ### The shapes of register instructions -/

theorem without_nil (en : LaneSet) : without en [] = en := by
  show en &&& ~~~(0 : LaneSet) = en
  apply BitVec.eq_of_getLsbD_eq
  intro i hi
  rw [BitVec.getLsbD_and, BitVec.getLsbD_not]
  simp [hi]

theorem splitLanes_nil (s0 s1 : State) (pc : Word) (done : BitVec 32) (demand : List (Nat × Nat)) (points : List Nat) :
    splitLanes s0 s1 pc done [] demand points = .ok s1 := rfl

/-- A register instruction completes: its reads are taken, its destination written, and the path goes on. -/
theorem regOpL_ok (d : Dest) (m : Fin 16) (wide : Bool) (srcs : List (Src × Ty)) (f : Nat → List Word → Word) (s : State)
    (hr : s.CanRead srcs (s.enabled d m)) (hw : (s.afterReads srcs).CanWrite d wide) :
    regOpL d m wide srcs f s =
      .ok (writeDest d wide (s.enabled d m) (fun l => f l ((s.vals srcs).map (·.at l))) (s.afterReads srcs)).done := by
  unfold regOpL
  simp only [readSrcs_ok s srcs _ hr, checkDest_ok d wide s _ hw, bind, Except.bind, without_nil, splitLanes_nil]

/-- A comparison completes: its reads are taken, its mask register written, and the path goes on. -/
theorem maskOp_ok (md m : Fin 16) (srcs : List (Src × Ty)) (f : List Word → Bool) (s : State) (hr : s.CanRead srcs (s.path.mask m)) :
    maskOp md m srcs f s = .ok (State.done
      { s.afterReads srcs with path := (s.afterReads srcs).path.setMask md (s.holds m srcs f) }) := by
  unfold maskOp State.holds
  simp only [readSrcs_ok s srcs _ hr, bind, Except.bind, without_nil, splitLanes_nil]

theorem scalarOp_ok (srcs : List (Src × Ty)) (act : List Word → State → Ex State) (s t : State) (hr : s.CanRead srcs s.path.lanes)
    (ha : act ((s.vals srcs).map (·.at 0)) (s.afterReads srcs) = .ok t) : scalarOp srcs act s = .ok t := by
  unfold scalarOp
  simp only [readSrcs_ok s srcs _ hr, bind, Except.bind, splitLanes_nil, ha]

theorem setScalar_ok (d : Dest) (wide : Bool) (x : Word) (s0 s : State) (h : s.CanWrite d wide) :
    setScalar d wide x s0 s = .ok (writeDest d wide s.path.lanes (fun _ => x) s) := by
  unfold setScalar
  simp only [checkDest_ok d wide s0 s h, bind, Except.bind]

/-! ### Mask bits -/

theorem laneBit_getLsbD (l i : Nat) : (laneBit l).getLsbD i = (decide (i = l) && decide (l < 1024)) := by
  unfold laneBit
  rw [BitVec.getLsbD_ofNat, Nat.testBit_two_pow]
  by_cases h : i = l
  · subst h; simp
  · simp [h, Ne.symm h]

theorem ofLanes_aux (ls : List Nat) (m : LaneSet) (i : Nat) :
    (ls.foldl (fun m l => m ||| laneBit l) m).getLsbD i = (m.getLsbD i || (decide (i < 1024) && decide (i ∈ ls))) := by
  induction ls generalizing m with
  | nil => simp
  | cons l r ih =>
    rw [List.foldl_cons, ih, BitVec.getLsbD_or, laneBit_getLsbD]
    by_cases h : i = l
    · subst h; by_cases h2 : i < 1024 <;> simp [h2]
    · simp [h]

/-- A lane set made of lanes holds exactly those lanes. -/
theorem ofLanes_getLsbD (ls : List Nat) (i : Nat) : (ofLanes ls).getLsbD i = (decide (i < 1024) && decide (i ∈ ls)) := by
  simp [ofLanes, ofLanes_aux]

end Sys2Proof.Machine
end

