-- ==== Sys2Proof/Laws/PerInstr.lean ====
section
/-! SUPPORT. How many words each instruction takes (R45): one, two in format L, and none for an event. -/
namespace Sys2Proof.Laws

/-- The instructions of format L (R45, R56). -/
def WordCount.isLong : Instr → Bool
  | .movl .. | .wset .. | .wrd .. | .wend .. | .sxAdd .. | .sxMul .. | .sxFma .. | .sxMax ..
  | .sxMin .. | .sxCvt .. | .sxExp2 .. | .sxSum .. | .cpy .. | .cpyMc .. | .cpyst .. | .cpyfill ..
  | .mma .. | .mcl .. | .mclr .. | .mrd .. | .epi .. | .epicfg .. | .coll .. | .collwait .. => true
  | _ => false

/-- An event has no word, an instruction of format L two, and any other one. -/
def WordCount.Statement (i : Instr) : Prop := (encode i).length = if i.isEvent then 0 else if WordCount.isLong i then 2 else 1

theorem WordCount.add (o) : WordCount.Statement (.add o) := rfl
theorem WordCount.sub (o) : WordCount.Statement (.sub o) := rfl
theorem WordCount.mul (o) : WordCount.Statement (.mul o) := rfl
theorem WordCount.mulhi (o) : WordCount.Statement (.mulhi o) := rfl
theorem WordCount.mad (o) : WordCount.Statement (.mad o) := rfl
theorem WordCount.imin (o) : WordCount.Statement (.imin o) := rfl
theorem WordCount.imax (o) : WordCount.Statement (.imax o) := rfl
theorem WordCount.iabs (o) : WordCount.Statement (.iabs o) := rfl
theorem WordCount.ineg (o) : WordCount.Statement (.ineg o) := rfl
theorem WordCount.iand (o) : WordCount.Statement (.iand o) := rfl
theorem WordCount.ior (o) : WordCount.Statement (.ior o) := rfl
theorem WordCount.ixor (o) : WordCount.Statement (.ixor o) := rfl
theorem WordCount.iandn (o) : WordCount.Statement (.iandn o) := rfl
theorem WordCount.inot (o) : WordCount.Statement (.inot o) := rfl
theorem WordCount.shl (o) : WordCount.Statement (.shl o) := rfl
theorem WordCount.shr (o) : WordCount.Statement (.shr o) := rfl
theorem WordCount.sar (o) : WordCount.Statement (.sar o) := rfl
theorem WordCount.rotl (o) : WordCount.Statement (.rotl o) := rfl
theorem WordCount.popc (o) : WordCount.Statement (.popc o) := rfl
theorem WordCount.clz (o) : WordCount.Statement (.clz o) := rfl
theorem WordCount.ctz (o) : WordCount.Statement (.ctz o) := rfl
theorem WordCount.brev (o) : WordCount.Statement (.brev o) := rfl
theorem WordCount.bfx (o) : WordCount.Statement (.bfx o) := rfl
theorem WordCount.bfi (o) : WordCount.Statement (.bfi o) := rfl
theorem WordCount.sel (o) : WordCount.Statement (.sel o) := rfl
theorem WordCount.divq (o) : WordCount.Statement (.divq o) := rfl
theorem WordCount.remq (o) : WordCount.Statement (.remq o) := rfl
theorem WordCount.addsat (o) : WordCount.Statement (.addsat o) := rfl
theorem WordCount.subsat (o) : WordCount.Statement (.subsat o) := rfl
theorem WordCount.addi (o) : WordCount.Statement (.addi o) := rfl
theorem WordCount.muli (o) : WordCount.Statement (.muli o) := rfl
theorem WordCount.andi (o) : WordCount.Statement (.andi o) := rfl
theorem WordCount.ori (o) : WordCount.Statement (.ori o) := rfl
theorem WordCount.xori (o) : WordCount.Statement (.xori o) := rfl
theorem WordCount.shli (o) : WordCount.Statement (.shli o) := rfl
theorem WordCount.shri (o) : WordCount.Statement (.shri o) := rfl
theorem WordCount.sari (o) : WordCount.Statement (.sari o) := rfl
theorem WordCount.mini (o) : WordCount.Statement (.mini o) := rfl
theorem WordCount.maxi (o) : WordCount.Statement (.maxi o) := rfl
theorem WordCount.cmpEq (o) : WordCount.Statement (.cmpEq o) := rfl
theorem WordCount.cmpNe (o) : WordCount.Statement (.cmpNe o) := rfl
theorem WordCount.cmpLt (o) : WordCount.Statement (.cmpLt o) := rfl
theorem WordCount.cmpLe (o) : WordCount.Statement (.cmpLe o) := rfl
theorem WordCount.cmpGt (o) : WordCount.Statement (.cmpGt o) := rfl
theorem WordCount.cmpGe (o) : WordCount.Statement (.cmpGe o) := rfl
theorem WordCount.cmpiEq (o) : WordCount.Statement (.cmpiEq o) := rfl
theorem WordCount.cmpiNe (o) : WordCount.Statement (.cmpiNe o) := rfl
theorem WordCount.cmpiLt (o) : WordCount.Statement (.cmpiLt o) := rfl
theorem WordCount.cmpiLe (o) : WordCount.Statement (.cmpiLe o) := rfl
theorem WordCount.cmpiGt (o) : WordCount.Statement (.cmpiGt o) := rfl
theorem WordCount.cmpiGe (o) : WordCount.Statement (.cmpiGe o) := rfl
theorem WordCount.mov (o) : WordCount.Statement (.mov o) := rfl
theorem WordCount.movi (o) : WordCount.Statement (.movi o) := rfl
theorem WordCount.drop (x) (cnt) : WordCount.Statement (.drop x cnt) := rfl
theorem WordCount.hold (x) (cnt) : WordCount.Statement (.hold x cnt) := rfl
theorem WordCount.mmov (mask) (md) (a) : WordCount.Statement (.mmov mask md a) := by cases a <;> rfl
theorem WordCount.msel (o) : WordCount.Statement (.msel o) := rfl
theorem WordCount.lea (o) : WordCount.Statement (.lea o) := rfl
theorem WordCount.leax (o) : WordCount.Statement (.leax o) := rfl
theorem WordCount.movl (o) : WordCount.Statement (.movl o) := rfl
theorem WordCount.br (off) : WordCount.Statement (.br off) := rfl
theorem WordCount.brd (mc) (neg) (off) : WordCount.Statement (.brd mc neg off) := rfl
theorem WordCount.brnz (x) (off) : WordCount.Statement (.brnz x off) := rfl
theorem WordCount.brz (x) (off) : WordCount.Statement (.brz x off) := rfl
theorem WordCount.call (d) (off) : WordCount.Statement (.call d off) := rfl
theorem WordCount.callx (d) (t) : WordCount.Statement (.callx d t) := rfl
theorem WordCount.ret (x) : WordCount.Statement (.ret x) := rfl
theorem WordCount.exit : WordCount.Statement (.exit) := rfl
theorem WordCount.brw (w) (e) (onSet) (off) : WordCount.Statement (.brw w e onSet off) := rfl
theorem WordCount.wset (o) : WordCount.Statement (.wset o) := rfl
theorem WordCount.wrd (d) (w) (sel) : WordCount.Statement (.wrd d w sel) := rfl
theorem WordCount.wend (w) : WordCount.Statement (.wend w) := rfl
theorem WordCount.fadd (o) : WordCount.Statement (.fadd o) := rfl
theorem WordCount.fsub (o) : WordCount.Statement (.fsub o) := rfl
theorem WordCount.fmul (o) : WordCount.Statement (.fmul o) := rfl
theorem WordCount.fma (o) : WordCount.Statement (.fma o) := rfl
theorem WordCount.fmin (o) : WordCount.Statement (.fmin o) := rfl
theorem WordCount.fmax (o) : WordCount.Statement (.fmax o) := rfl
theorem WordCount.fabs (o) : WordCount.Statement (.fabs o) := rfl
theorem WordCount.fneg (o) : WordCount.Statement (.fneg o) := rfl
theorem WordCount.fcopysign (o) : WordCount.Statement (.fcopysign o) := rfl
theorem WordCount.fclamp (o) : WordCount.Statement (.fclamp o) := rfl
theorem WordCount.fmax3 (o) : WordCount.Statement (.fmax3 o) := rfl
theorem WordCount.fmin3 (o) : WordCount.Statement (.fmin3 o) := rfl
theorem WordCount.fdiv (o) : WordCount.Statement (.fdiv o) := rfl
theorem WordCount.frcp (o) : WordCount.Statement (.frcp o) := rfl
theorem WordCount.frsq (o) : WordCount.Statement (.frsq o) := rfl
theorem WordCount.fsqrt (o) : WordCount.Statement (.fsqrt o) := rfl
theorem WordCount.fexp2 (o) : WordCount.Statement (.fexp2 o) := rfl
theorem WordCount.flog2 (o) : WordCount.Statement (.flog2 o) := rfl
theorem WordCount.fsin (o) : WordCount.Statement (.fsin o) := rfl
theorem WordCount.fcos (o) : WordCount.Statement (.fcos o) := rfl
theorem WordCount.ftanh (o) : WordCount.Statement (.ftanh o) := rfl
theorem WordCount.cvt (o) : WordCount.Statement (.cvt o) := rfl
theorem WordCount.cvtsc (o) : WordCount.Statement (.cvtsc o) := rfl
theorem WordCount.cvtpk (o) : WordCount.Statement (.cvtpk o) := rfl
theorem WordCount.fcmp (o) : WordCount.Statement (.fcmp o) := rfl
theorem WordCount.fclass (o) : WordCount.Statement (.fclass o) := rfl
theorem WordCount.fisnan (o) : WordCount.Statement (.fisnan o) := rfl
theorem WordCount.dot2 (o) : WordCount.Statement (.dot2 o) := rfl
theorem WordCount.dot4 (o) : WordCount.Statement (.dot4 o) := rfl
theorem WordCount.dot8 (o) : WordCount.Statement (.dot8 o) := rfl
theorem WordCount.sxAdd (o) : WordCount.Statement (.sxAdd o) := rfl
theorem WordCount.sxMul (o) : WordCount.Statement (.sxMul o) := rfl
theorem WordCount.sxFma (o) : WordCount.Statement (.sxFma o) := rfl
theorem WordCount.sxMax (o) : WordCount.Statement (.sxMax o) := rfl
theorem WordCount.sxMin (o) : WordCount.Statement (.sxMin o) := rfl
theorem WordCount.sxCvt (o) : WordCount.Statement (.sxCvt o) := rfl
theorem WordCount.sxExp2 (o) : WordCount.Statement (.sxExp2 o) := rfl
theorem WordCount.sxSum (o) : WordCount.Statement (.sxSum o) := rfl
theorem WordCount.shflIdx (o) : WordCount.Statement (.shflIdx o) := rfl
theorem WordCount.shflUp (o) : WordCount.Statement (.shflUp o) := rfl
theorem WordCount.shflDn (o) : WordCount.Statement (.shflDn o) := rfl
theorem WordCount.shflXor (o) : WordCount.Statement (.shflXor o) := rfl
theorem WordCount.bcast (o) : WordCount.Statement (.bcast o) := rfl
theorem WordCount.matchLanes (o) : WordCount.Statement (.matchLanes o) := rfl
theorem WordCount.ballot (d) (ms) (b) : WordCount.Statement (.ballot d ms b) := by cases b <;> rfl
theorem WordCount.any (d) (ms) : WordCount.Statement (.any d ms) := rfl
theorem WordCount.all (d) (ms) : WordCount.Statement (.all d ms) := rfl
theorem WordCount.scan (o) : WordCount.Statement (.scan o) := rfl
theorem WordCount.reduce (o) : WordCount.Statement (.reduce o) := rfl
theorem WordCount.mrank (o) : WordCount.Statement (.mrank o) := rfl
theorem WordCount.mand (mask) (md) (ma) (mb) : WordCount.Statement (.mand mask md ma mb) := rfl
theorem WordCount.mor (mask) (md) (ma) (mb) : WordCount.Statement (.mor mask md ma mb) := rfl
theorem WordCount.mxor (mask) (md) (ma) (mb) : WordCount.Statement (.mxor mask md ma mb) := rfl
theorem WordCount.mnot (mask) (md) (ma) : WordCount.Statement (.mnot mask md ma) := rfl
theorem WordCount.mpop (d) (ma) : WordCount.Statement (.mpop d ma) := rfl
theorem WordCount.mfirst (d) (ma) : WordCount.Statement (.mfirst d ma) := rfl
theorem WordCount.mlast (d) (ma) : WordCount.Statement (.mlast d ma) := rfl
theorem WordCount.cattach (quad) (tags) : WordCount.Statement (.cattach quad tags) := rfl
theorem WordCount.cdetach (quad) (tags) : WordCount.Statement (.cdetach quad tags) := rfl
theorem WordCount.cgrow (d) (n) : WordCount.Statement (.cgrow d n) := rfl
theorem WordCount.rolesw (role) (q) : WordCount.Statement (.rolesw role q) := by cases q <;> rfl
theorem WordCount.cwidth (n) : WordCount.Statement (.cwidth n) := rfl
theorem WordCount.cprio (p) : WordCount.Statement (.cprio p) := rfl
theorem WordCount.qsend (yield) (q) (a) : WordCount.Statement (.qsend yield q a) := rfl
theorem WordCount.qrecv (yield) (d) (q) : WordCount.Statement (.qrecv yield d q) := rfl
theorem WordCount.tspawn (mask) (q) (e) (a) : WordCount.Statement (.tspawn mask q e a) := by cases a <;> rfl
theorem WordCount.qstat (cap) (d) (q) : WordCount.Statement (.qstat cap d q) := rfl
theorem WordCount.ldG (o) : WordCount.Statement (.ldG o) := rfl
theorem WordCount.ldR (o) : WordCount.Statement (.ldR o) := rfl
theorem WordCount.ldH (o) : WordCount.Statement (.ldH o) := rfl
theorem WordCount.ldC (o) : WordCount.Statement (.ldC o) := rfl
theorem WordCount.stG (o) : WordCount.Statement (.stG o) := rfl
theorem WordCount.stR (o) : WordCount.Statement (.stR o) := rfl
theorem WordCount.stH (o) : WordCount.Statement (.stH o) := rfl
theorem WordCount.ldA (o) : WordCount.Statement (.ldA o) := rfl
theorem WordCount.stA (o) : WordCount.Statement (.stA o) := rfl
theorem WordCount.ldxA (o) : WordCount.Statement (.ldxA o) := rfl
theorem WordCount.stxA (o) : WordCount.Statement (.stxA o) := rfl
theorem WordCount.ldW (o) : WordCount.Statement (.ldW o) := rfl
theorem WordCount.crpop (o) : WordCount.Statement (.crpop o) := rfl
theorem WordCount.crpeek (o) : WordCount.Statement (.crpeek o) := rfl
theorem WordCount.atomAdd (o) : WordCount.Statement (.atomAdd o) := rfl
theorem WordCount.atomMin (o) : WordCount.Statement (.atomMin o) := rfl
theorem WordCount.atomMax (o) : WordCount.Statement (.atomMax o) := rfl
theorem WordCount.atomAnd (o) : WordCount.Statement (.atomAnd o) := rfl
theorem WordCount.atomOr (o) : WordCount.Statement (.atomOr o) := rfl
theorem WordCount.atomXor (o) : WordCount.Statement (.atomXor o) := rfl
theorem WordCount.atomExch (o) : WordCount.Statement (.atomExch o) := rfl
theorem WordCount.atomCas (o) : WordCount.Statement (.atomCas o) := rfl
theorem WordCount.atomInc (o) : WordCount.Statement (.atomInc o) := rfl
theorem WordCount.redAdd (o) : WordCount.Statement (.redAdd o) := rfl
theorem WordCount.redMin (o) : WordCount.Statement (.redMin o) := rfl
theorem WordCount.redMax (o) : WordCount.Statement (.redMax o) := rfl
theorem WordCount.rflush (la) (k) : WordCount.Statement (.rflush la k) := rfl
theorem WordCount.pfG (o) : WordCount.Statement (.pfG o) := rfl
theorem WordCount.pfCode (la) (base) : WordCount.Statement (.pfCode la base) := rfl
theorem WordCount.fence (sc) : WordCount.Statement (.fence sc) := rfl
theorem WordCount.wait (k) (t) : WordCount.Statement (.wait k t) := rfl
theorem WordCount.waitall : WordCount.Statement (.waitall) := rfl
theorem WordCount.seal (k) : WordCount.Statement (.seal k) := rfl
theorem WordCount.ifence : WordCount.Statement (.ifence) := rfl
theorem WordCount.bar (o) : WordCount.Statement (.bar o) := rfl
theorem WordCount.barv (o) : WordCount.Statement (.barv o) := rfl
theorem WordCount.bararr (o) : WordCount.Statement (.bararr o) := rfl
theorem WordCount.bardrop (level) (tag) : WordCount.Statement (.bardrop level tag) := rfl
theorem WordCount.abinit (a) (n) (b) : WordCount.Statement (.abinit a n b) := rfl
theorem WordCount.abarrive (o) : WordCount.Statement (.abarrive o) := by cases o <;> rfl
theorem WordCount.abexpect (a) (b) : WordCount.Statement (.abexpect a b) := rfl
theorem WordCount.abwait (a) (p) : WordCount.Statement (.abwait a p) := rfl
theorem WordCount.cpy (o) : WordCount.Statement (.cpy o) := rfl
theorem WordCount.cpyMc (o) : WordCount.Statement (.cpyMc o) := rfl
theorem WordCount.cpyst (o) : WordCount.Statement (.cpyst o) := rfl
theorem WordCount.cpyfill (o) : WordCount.Statement (.cpyfill o) := rfl
theorem WordCount.mma (o) : WordCount.Statement (.mma o) := rfl
theorem WordCount.mcl (o) : WordCount.Statement (.mcl o) := rfl
theorem WordCount.mclr (o) : WordCount.Statement (.mclr o) := rfl
theorem WordCount.mrd (o) : WordCount.Statement (.mrd o) := rfl
theorem WordCount.epi (la) (mask) (k) : WordCount.Statement (.epi la mask k) := rfl
theorem WordCount.epicfg (o) : WordCount.Statement (.epicfg o) := rfl
theorem WordCount.coll (o) : WordCount.Statement (.coll o) := rfl
theorem WordCount.collwait (la) (mask) (k) (g) : WordCount.Statement (.collwait la mask k g) := rfl
theorem WordCount.trap (n) : WordCount.Statement (.trap n) := rfl
theorem WordCount.tret (skip) : WordCount.Statement (.tret skip) := rfl
theorem WordCount.brk (n) : WordCount.Statement (.brk n) := rfl
theorem WordCount.rdsr (mask) (d) (r) : WordCount.Statement (.rdsr mask d r) := rfl
theorem WordCount.wrsr (r) (a) : WordCount.Statement (.wrsr r a) := rfl
theorem WordCount.feat (d) (n) : WordCount.Statement (.feat d n) := rfl
theorem WordCount.nop : WordCount.Statement (.nop) := rfl
theorem WordCount.sleep (a) : WordCount.Statement (.sleep a) := rfl
theorem WordCount.prog (n) : WordCount.Statement (.prog n) := rfl
theorem WordCount.tstamp (d) : WordCount.Statement (.tstamp d) := rfl
theorem WordCount.functionResultWrite (p) : WordCount.Statement (.functionResultWrite p) := rfl
theorem WordCount.atomicPerformed (core) (slot) (flight) (e) : WordCount.Statement (.atomicPerformed core slot flight e) := rfl
theorem WordCount.barrierRelease (p) : WordCount.Statement (.barrierRelease p) := rfl
theorem WordCount.abwaitRelease (p) : WordCount.Statement (.abwaitRelease p) := rfl
theorem WordCount.sleepExpiry (p) : WordCount.Statement (.sleepExpiry p) := rfl
theorem WordCount.loadDataArrival (core) (slot) (flight) (e) : WordCount.Statement (.loadDataArrival core slot flight e) := rfl
theorem WordCount.storePerformed (core) (slot) (flight) (e) : WordCount.Statement (.storePerformed core slot flight e) := rfl
theorem WordCount.translationPassed (p) : WordCount.Statement (.translationPassed p) := rfl
theorem WordCount.remoteAccess (part) (dev) (addr) (r) : WordCount.Statement (.remoteAccess part dev addr r) := rfl
theorem WordCount.pageResponse (p) (page) (ok) : WordCount.Statement (.pageResponse p page ok) := rfl
theorem WordCount.joinComplete (core) (slot) (split) : WordCount.Statement (.joinComplete core slot split) := rfl
theorem WordCount.rejoin (p) : WordCount.Statement (.rejoin p) := rfl
theorem WordCount.trapEntry (core) (slot) : WordCount.Statement (.trapEntry core slot) := rfl
theorem WordCount.spill (core) : WordCount.Statement (.spill core) := rfl
theorem WordCount.spillRestore (core) : WordCount.Statement (.spillRestore core) := rfl
theorem WordCount.roleSwitch (p) : WordCount.Statement (.roleSwitch p) := rfl
theorem WordCount.taskStrandForm (core) (ring) : WordCount.Statement (.taskStrandForm core ring) := rfl
theorem WordCount.cgrowAnswer (p) : WordCount.Statement (.cgrowAnswer p) := rfl
theorem WordCount.blockFetch (core) (asid) (f) : WordCount.Statement (.blockFetch core asid f) := rfl
theorem WordCount.insertedDelayExpiry (p) : WordCount.Statement (.insertedDelayExpiry p) := rfl
theorem WordCount.copyStart (core) (chan) : WordCount.Statement (.copyStart core chan) := rfl
theorem WordCount.copyRowDelivery (core) (chan) (writeErrors) (e) : WordCount.Statement (.copyRowDelivery core chan writeErrors e) := rfl
theorem WordCount.copyComplete (core) (chan) : WordCount.Statement (.copyComplete core chan) := rfl
theorem WordCount.latchFill (quad) : WordCount.Statement (.latchFill quad) := rfl
theorem WordCount.passStart (quad) : WordCount.Statement (.passStart quad) := rfl
theorem WordCount.passEnd (quad) : WordCount.Statement (.passEnd quad) := rfl
theorem WordCount.tileClosed (core) : WordCount.Statement (.tileClosed core) := rfl
theorem WordCount.epilogueStart (core) : WordCount.Statement (.epilogueStart core) := rfl
theorem WordCount.epilogueComplete (core) : WordCount.Statement (.epilogueComplete core) := rfl
theorem WordCount.collectiveComplete (part) (group) (failure) (sources) : WordCount.Statement (.collectiveComplete part group failure sources) := rfl
theorem WordCount.quarantineRelease : WordCount.Statement (.quarantineRelease) := rfl
theorem WordCount.doorbell (port) (part) (queue) (tail) : WordCount.Statement (.doorbell port part queue tail) := rfl
theorem WordCount.launch (part) (queue) : WordCount.Statement (.launch part queue) := rfl
theorem WordCount.chunkGrant (part) (die) (lid) : WordCount.Statement (.chunkGrant part die lid) := rfl
theorem WordCount.cohortPlacement (part) (die) (lid) : WordCount.Statement (.cohortPlacement part die lid) := rfl
theorem WordCount.launchCompletion (part) (lid) : WordCount.Statement (.launchCompletion part lid) := rfl
theorem WordCount.configure (part) : WordCount.Statement (.configure part) := rfl
theorem WordCount.sealPartition (part) : WordCount.Statement (.sealPartition part) := rfl
theorem WordCount.releasePartition (part) : WordCount.Statement (.releasePartition part) := rfl
theorem WordCount.preempt (part) : WordCount.Statement (.preempt part) := rfl
theorem WordCount.drainEnd (part) : WordCount.Statement (.drainEnd part) := rfl
theorem WordCount.restore (part) : WordCount.Statement (.restore part) := rfl
theorem WordCount.asidCreate (part) : WordCount.Statement (.asidCreate part) := rfl
theorem WordCount.asidDestroy (part) : WordCount.Statement (.asidDestroy part) := rfl
theorem WordCount.writeRangeEntry (part) : WordCount.Statement (.writeRangeEntry part) := rfl
theorem WordCount.pagesWrite (part) : WordCount.Statement (.pagesWrite part) := rfl
theorem WordCount.pagesInvalidate (part) : WordCount.Statement (.pagesInvalidate part) := rfl
theorem WordCount.writeTensorRecord (part) : WordCount.Statement (.writeTensorRecord part) := rfl
theorem WordCount.writeGroupEntry (part) : WordCount.Statement (.writeGroupEntry part) := rfl
theorem WordCount.writeExportEntry (part) : WordCount.Statement (.writeExportEntry part) := rfl
theorem WordCount.bindBridgeSender (part) : WordCount.Statement (.bindBridgeSender part) := rfl
theorem WordCount.bindBridgeReceiver (part) : WordCount.Statement (.bindBridgeReceiver part) := rfl
theorem WordCount.unbindBridge (part) : WordCount.Statement (.unbindBridge part) := rfl
theorem WordCount.setQueue (part) : WordCount.Statement (.setQueue part) := rfl
theorem WordCount.setOverflowArea (part) : WordCount.Statement (.setOverflowArea part) := rfl
theorem WordCount.bindPodGroup (part) : WordCount.Statement (.bindPodGroup part) := rfl
theorem WordCount.unbindPodGroup (part) : WordCount.Statement (.unbindPodGroup part) := rfl
theorem WordCount.loadCodeObject (part) : WordCount.Statement (.loadCodeObject part) := rfl
theorem WordCount.enrolKey (part) : WordCount.Statement (.enrolKey part) := rfl
theorem WordCount.withdrawKey (part) : WordCount.Statement (.withdrawKey part) := rfl
theorem WordCount.setPowerCap (part) : WordCount.Statement (.setPowerCap part) := rfl
theorem WordCount.cancelLaunch (part) : WordCount.Statement (.cancelLaunch part) := rfl
theorem WordCount.semaphoreAcquire (port) (sem) (tag) : WordCount.Statement (.semaphoreAcquire port sem tag) := rfl
theorem WordCount.semaphoreFree (port) (sem) : WordCount.Statement (.semaphoreFree port sem) := rfl
theorem WordCount.controlBlockWrite (port) (part) (off) (v) : WordCount.Statement (.controlBlockWrite port part off v) := rfl
theorem WordCount.traceControlWrite (port) (core) (v) : WordCount.Statement (.traceControlWrite port core v) := rfl
theorem WordCount.registerWrite (port) (off) (v) : WordCount.Statement (.registerWrite port off v) := rfl
theorem WordCount.causalTrialGo (port) (part) (v) : WordCount.Statement (.causalTrialGo port part v) := rfl
theorem WordCount.causalTrialEnd (part) : WordCount.Statement (.causalTrialEnd part) := rfl
theorem WordCount.stopWrite (port) (part) (v) : WordCount.Statement (.stopWrite port part v) := rfl
theorem WordCount.resumeWrite (port) (part) (v) : WordCount.Statement (.resumeWrite port part v) := rfl
theorem WordCount.breakpointHit (p) : WordCount.Statement (.breakpointHit p) := rfl
theorem WordCount.sample (core) : WordCount.Statement (.sample core) := rfl
theorem WordCount.powerOnReset : WordCount.Statement (.powerOnReset) := rfl
theorem WordCount.linkDown (port) : WordCount.Statement (.linkDown port) := rfl
theorem WordCount.semaphoreLinkFree (port) : WordCount.Statement (.semaphoreLinkFree port) := rfl
theorem WordCount.dieFence (die) (l2Fault) : WordCount.Statement (.dieFence die l2Fault) := rfl
theorem WordCount.masterElection (part) : WordCount.Statement (.masterElection part) := rfl
theorem WordCount.stackSelfRefresh (stack) : WordCount.Statement (.stackSelfRefresh stack) := rfl
theorem WordCount.stackResume (stack) : WordCount.Statement (.stackResume stack) := rfl
theorem WordCount.stackFence (stack) : WordCount.Statement (.stackFence stack) := rfl
theorem WordCount.firmwareHandover (h) : WordCount.Statement (.firmwareHandover h) := rfl
theorem WordCount.shanovLinkFailure (dev) (lost) : WordCount.Statement (.shanovLinkFailure dev lost) := rfl
theorem WordCount.podGroupLive (part) (slot) : WordCount.Statement (.podGroupLive part slot) := rfl
theorem WordCount.hbmChannelSparing (stack) : WordCount.Statement (.hbmChannelSparing stack) := rfl
theorem WordCount.refreshPostponementLimit (core) (chan) : WordCount.Statement (.refreshPostponementLimit core chan) := rfl

end Sys2Proof.Laws
end

