-- ==== Sys2Proof/Tests/Slice0.lean ====
section
/-! SUPPORT. Tests: words of the manual and what they decode to, ill-formed terms that each check refuses, single steps with results
worked out by hand from the manual, and for every statement of the certificates a state and operands that meet its hypotheses, clause
by clause. -/
namespace Sys2Proof.Tests
set_option maxRecDepth 100000
set_option Elab.async false
open Sys2Proof Sys2Proof.Machine

/-! ### States -/


/-- A counted record of three reads. -/
def vrec (n : Nat) (vs : List Nat) : Rec := ⟨n, false, some 3, vs.map (BitVec.ofNat 64), [], 0, [], [], 0⟩
def srec (n x : Nat) : Rec := ⟨n, true, some 3, [BitVec.ofNat 64 x], [], 0, [], [], 0⟩

/-- A block of two words after its header at 0. -/
def blk2 : Block := ⟨0, BitVec.ofNat 64 (0x3F * 2 ^ 58 + 2 * 2 ^ 48), [0, 0]⟩

/-- A path of two lanes at the first word of its block: v1 and v2 hold 7, 1 and 3, 2; s1 holds 64, s2 holds 2, s3 a held 9, s4 1,024; m1 is lane 1. -/
def tpath : Path := { Path.empty with
  pc := 8, blk := blk2, lanes := 3, slot := some 0, masks := [(1, 2)]
  v := [(1, vrec 1 (7 :: 1 :: List.replicate 30 0)), (2, vrec 2 (3 :: 2 :: List.replicate 30 0))]
  sc := [(1, srec 3 64), (2, srec 4 2), (3, { srec 5 9 with count := none }), (4, srec 6 1024)] }

def tstrand : Strand := { Strand.empty with launch := 1, paths := [(0, tpath)], started := true }

/-- Its cohort has an A-buffer of 1,024 bytes. -/
def tcohort : Cohort := { Cohort.empty with launch := 1, asize := 1024, wsize := 1024, slots := 2, a := ⟨[(64, 5)]⟩ }

def tcore : Core := { Core.reset with strands := [(0, tstrand)], cohorts := [(0, tcohort)] }

/-- The path in focus at slot 0 of core 0. -/
def ts : State := { State.reset with
  core := tcore, strand := tstrand, path := tpath, focus := some (0, 0, 0), clock := 100, uid := 9 }

def at' (s : State) (p : Path) : State := { s with path := p }

/-- The same path at the last word of its block, whose reconvergence header lies at 64. -/
def tend : State := at' ts { tpath with blk := ⟨0, BitVec.ofNat 64 (0x3F * 2 ^ 58 + 2 ^ 48 + 8 * 2 ^ 32), [0]⟩ }

/-- A walker at its last address of a dimension of two. -/
def twalk : Walker := ⟨64, 2, 3, 1, 8, 16, 0, 1, 0, 0, false, false, false⟩

/-- In the handler of a fault at the first word of a block. -/
def ttrap : Trap := ⟨0x05, 8, 0, [(0, 64)], 0, 0, 1, 0, blk2, none, false⟩
/-- A package whose address space 0 maps addresses below 65,536 to the same addresses of the stacks, for reads and writes. -/
def tdev : Device := { Device.reset with
  mem := ⟨[(64, 42), (0x200A, 1), (0x2018, 7)]⟩, asids := [(0, ⟨0, 0x4000, 0x2000, 0x6000, 8⟩)]
  parts := [(0, { Partition.reset with configured := true, pairs := 255, quads := 1 })]
  launches := [(1, { Launch.empty with pmax := 3 })], nextLaunch := 2 }
def tm : State := { ts with dev := tdev }

/-- A scalar access of 32 bits at an address, and one in flight, issued at clock 90 by the path with its destination s5. -/
def tacc (va : Nat) : LaneAcc := laneAcc .i32 .add 0 (BitVec.ofNat 64 va) 5 0
def tfl (k : AKind) (a : LaneAcc) (passed : Bool) : Flight := ⟨k, [0], 8, 90, 1, some 0, 7, .i32, some (.scl 5), 3, [a], passed, 0, 0⟩
def twin : Window := ⟨8, 0, 0, 0, false, [], [.scl 5], [(.scl 5, none)], [], 7⟩
def rwait : Rec := ⟨8, false, some 1, [0], [(7, 3)], 0, [], [], 8⟩
def flying (f : Flight) : State := { tm with
  strand := { tstrand with flights := [(7, f)], counters := [(0, ⟨[CUnit.one 7 8], 0, false⟩)] }
  path := { tpath with sc := tpath.sc ++ [(5, rwait)], window := some twin } }
/-- The place of an access once it is translated. -/
def tat (a : LaneAcc) : LaneAcc := { a with pa := a.va.toNat }
/-- What the lanes of a load find in memory, where nothing nearer holds it. -/
def tfound (s : State) (accs : List LaneAcc) (l : Nat) : Word :=
  match accs.find? (·.lane == l) with
  | some a => widen a.ty (BitVec.ofNat 64 (s.dev.mem.nat a.pa a.ty.size))
  | none => 0
/-- A load of two lanes through the caches, whose vector destination v5 waits for both. -/
def tfl2 : Flight := { tfl (.load [0, 1] true) (tat (tacc 64)) true with
  d := some (.vec 5), accs := [tat (tacc 64), { tat (tacc 68) with lane := 1 }] }
def flying2 : State := { flying tfl2 with
  path := { (flying tfl2).path with v := tpath.v ++ [(5, { rwait with vals := List.replicate 32 0 })] } }
/-- Queues: 3 holds one element of sixteen, 4 is full, 5 is empty, 6 and 7 are the two ends of bridges, 8 is a task queue. -/
def tqueue (kind base cap occ head tail : Nat) : Queue :=
  ⟨0, kind, base, cap, occ, head, tail, cap, 0, false, 0, false, 0x1000, 0, 0, 0, 0, 0, (0, 0), (0, 0)⟩
def tq : State := { tm with
  dev := { tdev with bridges := [(0, ⟨some (0, 1), some (1, 0), 2, [9], (0, 0), (0, 0)⟩), (1, ⟨some (1, 0), some (0, 1), 2, [8], (0, 0), (0, 0)⟩)] }
  core := { tcore with
    cohorts := [(0, { tcohort with queues := true, a := ⟨[(64, 5), (316, 77)]⟩, tiles := [(0, ⟨false, [1, 2, 3], true, 0⟩)] })]
    queues := [(3, tqueue 0 256 16 1 15 0), (4, tqueue 0 320 2 2 0 0), (5, tqueue 0 320 2 0 0 0), (6, tqueue 1 0 2 0 0 0),
      (7, tqueue 1 1 2 0 0 0), (8, tqueue 2 0 8 0 0 0)] } }
theorem taskRing_tq (p : Path) : ((at' tq p).taskRing (tqueue 2 0 8 0 0 0)).head = 0 ∧
    ((at' tq p).taskRing (tqueue 2 0 8 0 0 0)).tail = 0 ∧ ((at' tq p).taskRing (tqueue 2 0 8 0 0 0)).err = false := by
  unfold State.taskRing
  cases (tqueue 2 0 8 0 0 0).here <;> exact ⟨rfl, rfl, rfl⟩

/-- The same launch with two roles, and a queue table; the strand's other roles enter at 128. -/
def trole (q r : Option Nat) : Role := ⟨some 128, q, r, [], 1⟩

/-- Its strand attached to core and quad tag 2, which expects its 32 lanes. -/
def ttag : Tag := ⟨some 32, false, [], [], 4, false⟩
def tb : State := { tm with
  strand := { tstrand with tagsCore := 4, tagsQuad := 4 }
  core := { tcore with cohorts := [(0, { tcohort with tags := [(2, ttag)] })] } }

/-- The path waits, and is where it was when it is loaded again. -/
def waiting (st : Status) : State := at' tm { tpath with status := st }
/-- Its cohort with an arrival barrier at 128, of generation 3, whose phase bit went to 1 at clock 90. -/
def tab (st : Status) : State := { waiting st with core := { tcore with
  cohorts := [(0, { tcohort with a := ⟨[(136, 2), (140, 1), (141, 3)]⟩, nextTile := 0 })] } }
def tpathTrapped : Path := { tpath with status := .trapped, trap := some ttrap }
def tabErr : State := { tm with core := { tcore with cohorts := [(0, { tcohort with a := ⟨[(128 + 12, 2)]⟩ })] } }

/-- What an outcome holds, when it is no error. -/
def okOr {ε α : Type} (e : Except ε α) (x : α) : α := match e with | .ok y => y | .error _ => x
def isOk {ε α : Type} (e : Except ε α) : Bool := match e with | .ok _ => true | .error _ => false
theorem okOr_eq {ε α : Type} {e : Except ε α} {x : α} (h : isOk e = true) : e = .ok (okOr e x) := by
  cases e with
  | ok y => rfl
  | error y => cases h

/-- A strand of 128 lanes with all of them on its path, a cohort with both windows, a ring, two accumulators and an epilogue
configuration, tensor 0 of the address space (128 bytes at 0x8000), and group 1 of two members. -/
def tcfg : EpiCfg := ⟨.bf16, .none, 0, 512, 1024, 0⟩
def tecohort : Cohort := { tcohort with asize := 131072, wsize := 65536, accs := 2, epicfg := some tcfg }
def tgroup : Group := ⟨true, 2, 0, [0, 0x10000], [], 0⟩
def te : State := { tm with
  dev := { tdev with
    mem := ⟨[(64, 42), (0x200A, 1), (0x2018, 7), (0x6001, 0x80), (0x6008, 0x40), (0x6009, 2), (0x6028, 128)]⟩
    parts := [(0, { Partition.reset with configured := true, pairs := 255, quads := 1, groups := [(1, tgroup)] })] }
  strand := { tstrand with width := 128 }
  path := { tpath with lanes := allLanes 128, v := [] }
  core := { tcore with cohorts := [(0, tecohort)] } }
def ttensor : Tensor := (te.tensorOf 0).getD .empty
def tdesc (kind : Nat) (cr : Bool) : CopyDesc := ⟨kind, 2, cr, 0, 128, none, none, 0, 0, 0⟩
/-- A copy of two rows in channel 0, at a row. -/
def tcopy (kind row : Nat) (started : Bool) : Copy :=
  ⟨0, 1, [⟨0, 0, 0, 7, none, 0, tdesc kind false, 1, 7⟩], ttensor, 0, 0, 1, [], none, started, row, [], 0, 0, 0, none, false⟩
def tc (kind row : Nat) (started : Bool) : State := { te with core := { te.core with chan0 := ⟨[tcopy kind row started], 0⟩ } }
/-- A collective at the head of its group. -/
def tcoll (wait : Bool) : Coll := ⟨2, 0, [0, 0x10000], 0, 0, 0, 7, wait, .allgat, .n32, 0x9000, 0x8000, 4, 0, 0, 1, 1⟩
def tg (wait : Bool) : State := { te with dev := { te.dev with
  parts := [(0, { Partition.reset with configured := true, pairs := 255, quads := 1, groups := [(1, { tgroup with queue := [tcoll wait] })] })] } }
/-- A collective of two members, of which this device is the first. -/
def tother : Nat := (Config.pkgNumber.toNat + 1) % 2 ^ 14
def tcollP : Coll := { tcoll false with members := [Config.pkgNumber.toNat, tother] }
def tgroupP : Group := { tgroup with members := [Config.pkgNumber.toNat, tother], queue := [tcollP] }
def tgP : State := { te with dev := { te.dev with
  parts := [(0, { Partition.reset with configured := true, pairs := 255, quads := 1, groups := [(1, tgroupP)] })] } }
theorem local_tcollP : ∀ k < tcollP.m, tcollP.isLocal k = true ↔ k = tcollP.rank := by
  intro k hk
  have hp := Config.pkgNumber.isLt
  have h : k = 0 ∨ k = 1 := by change k < 2 at hk; omega
  rcases h with rfl | rfl
  · simp only [Coll.isLocal, tcollP, tcoll, List.getD_cons_zero, decide_eq_true_eq, iff_true]; omega
  · simp only [Coll.isLocal, tcollP, tcoll, tother, List.getD_cons_succ, List.getD_cons_zero, decide_eq_true_eq]; omega
/-- The matrix engine of quad 0 with one entry. -/
def tmma (idx : Option AField) : MmaOp := ⟨0, 0, .f32, .f32, 0, 0, 0, .const 0, .const 0, idx, 0, none, none⟩
def tentry (kind : MKind) (started : Option Nat) : Entry := ⟨0, 0, 0, 0, 7, 0, false, kind, 0, 0, started, 0, 1, 0⟩
def tmk (idx : Option AField) : MKind := .mma (tmma idx) 0 0 (idx.map fun _ => 0) [] [] [] []
def tquad (e : Entry) : Quad := { Quad.empty with entries := [(7, e)] }
def tmx (q : Quad) : State := { te with dev := { te.dev with quads := [(0, q)] } }
/-- A ring with one tile, and an `epi` of it. -/
def ttile (closed : Bool) : Tile := ⟨false, [0x3F800000], closed, 0⟩
def tepi (started : Option Nat) : EpiCmd := ⟨0, 0, 0, 7, 0, tcfg, started, [], [], 1⟩
def tring (closed : Bool) (es : List EpiCmd) : State := { te with
  core := { te.core with cohorts := [(0, { tecohort with tiles := [(0, ttile closed)] })], epis := es } }
def tclosing : State := { tring false [] with dev := (tmx (tquad (tentry .close (some 0)))).dev, clock := 900 }

def errOf {ε α : Type} (e : Except ε α) : Option ε := match e with | .ok _ => none | .error x => some x
theorem errOf_eq {ε α : Type} {e : Except ε α} {x : ε} (h : errOf e = some x) : e = .error x := by
  cases e with
  | ok y => cases h
  | error y => cases h; rfl

/-- Nothing in focus: a strand at slot 0 of core 0, at clock 1,000. -/
def off (st : Strand) : State := { tm with
  focus := none, clock := 1000, dev := { tdev with cores := [(0, { tcore with strands := [(0, st)] })] } }
/-- Two arms of a split whose join lies at 64, lane 0 and lane 1, and a fragment of lane 1 with its parent. -/
def tarm (lane split : Nat) (side : Bool) : Path := { tpath with
  lanes := BitVec.ofNat 1024 (2 ^ lane), arms := [(split, side)], status := .join split 0 }
def tjoin : Strand := { tstrand with paths := [(0, tarm 0 1 false), (2, tarm 1 1 true)], splits := [(1, ⟨64, true, []⟩)], next := 3 }
def tparent : Path := { tpath with lanes := 1, pc := 64, status := .rejoinWait, v := [(1, vrec 1 (7 :: 1 :: List.replicate 30 0))] }
def tfrag : Path := { tpath with lanes := 2, frag := 1, parent := some 0, rejoin := some 64, status := .atRejoin }
def trejoin : Strand := { tstrand with paths := [(0, tparent), (3, tfrag)], next := 4 }
def tone (st : Status) : Strand := { tstrand with paths := [(0, { tpath with status := st })] }

/-- The same memory with execute permission, and a block at 64. -/
def tx (st : Strand) : State :=
  let s := off st
  { s with dev := { s.dev with mem := ⟨[(70, 1), (71, 0xFC), (0x200A, 1), (0x2018, 15)]⟩ } }
def nothing : Undo := ⟨[], [], none⟩
def tblock : Block := (okOr (fetchBlock (tx tstrand).dev 0 0 64 .done) (.empty, none)).1
theorem part_tx {st : Strand} (h : st.launch = 1) :
    ∀ e ∈ ((tx st).flush.dev.coreAt 0).strands, ((tx st).dev.launchAt e.2.launch).part = 0 := by
  intro e he
  rw [show e = (0, st) from List.mem_singleton.mp he]
  show ((tx st).dev.launchAt st.launch).part = 0
  rw [h]; rfl

/-- Two strands, the elder starved of slabs and the younger waiting; or the younger spilled. -/
def tstarved : Path := { tpath with starved := true }
def tyoung (spilled : Bool) : Strand := { tstrand with linear := 1, armature := 100, paths := [(0, tstarved)], spilled := spilled }
def tspill (spilled : Bool) : State :=
  let s := off tstrand
  { s with dev := { s.dev with cores := [(0, { tcore with strands := [(0, { tstrand with paths := [(0, tstarved)] }), (1, tyoung spilled)] })] } }

/-- Blocked for long at a queue operation of either kind, where the other role can go on. -/
def tblocked (w : Word) (roles : List Role) (q : Queue) : State := { tq with
  clock := 1000
  path := { tpath with blk := { blk2 with words := [w, 0] }, blocked := some 0 }
  core := { tq.core with queues := [(3, q)] }
  dev := { tq.dev with launches := [(1, { Launch.empty with kernel := { Kernel.empty with roles := roles } })] } }
def trecv : State := tblocked ((encode (.qrecv true (.scl 4 2) 3)).headD 0) [trole none (some 3)] (tqueue 0 256 16 0 0 0)
def tsend : State := tblocked ((encode (.qsend true 3 (.scl 2))).headD 0) [trole (some 3) none] (tqueue 0 256 16 16 0 0)

/-- A path that has asked for strands at clock 76, in a launch that may grow. -/
def tgrow (n : Nat) (attach : Option Word) : State := { waiting (.grow (.scl 9 1) (n * 2 ^ 64 + 76)) with dev := { tdev with
  launches := [(1, { Launch.empty with grow := 2, qsize := 20000, kernel := { Kernel.empty with attach := attach } })] } }

/-- A ring of another device with one task, whose entry is 0. -/
def ttring : TaskRing := { TaskRing.empty with srcDev := 16384, launch := 2, cap := 4, tail := 1 }
def ttask (tasks : List (Word × Nat)) : State :=
  let s := off tstrand
  { s with dev := { s.dev with
    launches := [(1, .empty), (2, { Launch.empty with qsize := 20000, kernel := { Kernel.empty with tasks := tasks } })]
    cores := [(0, { tcore with strands := [(0, tstrand)], rings := [(5, ttring)] })] } }
theorem taskSlot_far (s : State) (i : Nat) : s.taskSlot ttring i =
    some (BitVec.ofNat 64 (bytesNat (s.dev.mem.read (place (5 + 16384) ((48 * (i % 4)) % 2 ^ 64)) 48) 0 8),
      (List.range 8).map fun k =>
        BitVec.ofNat 64 (bytesNat (s.dev.mem.read (place (5 + 16384) ((48 * (i % 4)) % 2 ^ 64)) 48) (16 + 4 * k) 4)) := by
  have h : ¬ (ttring.srcDev = Config.pkgNumber.toNat) := by
    have := Config.pkgNumber.isLt
    show ¬ (16384 = Config.pkgNumber.toNat); omega
  have e : ttring.base.toNat + 48 * (i % ttring.cap) = 48 * (i % 4) := Nat.zero_add _
  simp only [State.taskSlot, if_neg h, e]
  rfl

/-- Partition 0 owned by port 0, its queue 1 with a launch command fetched whose descriptor lies at 0x8000. -/
def tlaunch (x : Launch) : State :=
  let s := off tstrand
  { s with dev := { s.dev with
    mem := ⟨[(0x200A, 1), (0x2018, 7), (0x8000, 0x80), (0x8010, 1), (0x801C, 1), (0x801E, 0xFF), (0x801F, 0xFF), (0x8028, 0x80),
      (0x8029, 0x20)]⟩
    sems := [(0, ⟨true, 0, 0, none⟩)], launches := [(1, .empty), (2, x)], nextLaunch := 3
    parts := [(0, { Partition.reset with
      configured := true, pairs := 255, quads := 1, kernels := [(0, { Kernel.empty with entry := 128 })]
      queues := [(1, { HQueue.empty with set_ := true, asid := some 0, waiting := [0x8000] })] })] } }
def tcoming : Launch := { Launch.empty with cohorts := 3, chunk := 2, qsize := 20000, kernel := { Kernel.empty with entry := 128 } }
def tdesc8000 : List Byte := ((tlaunch tcoming).dev.descriptor 0 1 0x8000).getD []
def tplaced : Launch := { tcoming with granted := 2, dists := [(0, ⟨[(0, 2)], none⟩)] }
def tover : Launch := { tcoming with granted := 3, placed := 3, ended := 3, dists := [(0, ⟨[], none⟩)] }

/-- A privileged command at the head of queue 0 of partition 0, which port 0 owns, with the fields of its operand (offset, bytes, value)
at 0x2000 of the host; the package else idle. -/
def fields (m : Memory) (at_ : Nat) (f : List (Nat × Nat × Nat)) : Memory := f.foldl (fun m x => m.write (at_ + x.1) (leBytes x.2.1 x.2.2)) m
def tpart : Partition := { Partition.reset with
  configured := true, pairs := 255, quads := 1, cap := 700, cqbase := 0x1000, cqcap := 4, queues := [(0, { HQueue.empty with tail := 1 })] }
def tidle : Device := { tdev with launches := [], cores := [] }
def tcmd (op a : Nat) (f : List (Nat × Nat × Nat)) (p : Partition) (d : Device) : State := { off tstrand with
  dev := { d with
    sems := [(0, ⟨true, 0, 0, none⟩)], parts := tset d.parts 0 p
    mem := fields (fields d.mem (place 1 0x1000) [(0, 8, op), (8, 8, a), (16, 8, 0x3000)]) (place 1 0x2000) f } }
def tcommand (op : Nat) (f : List (Nat × Nat × Nat)) : State := tcmd op 0x2000 f tpart tidle
/-- Tables of five levels whose leaf table lies at 0x8000. -/
def ttables : Device := { tidle with
  mem := fields tidle.mem 0 [(0x4000, 8, 0x5001), (0x5000, 8, 0x7001), (0x7000, 8, 0xA001), (0xA000, 8, 0x8001)] }
/-- A partition that has been halted with its save area at 0xC000, and a device that knows a save there. -/
def tsaving : State := tcmd 0x13 0x2000 [] { tpart with preempt := some (0xC000, 4096) } tdev
def tsaved : Saved := ⟨0, 1, 255, [0, 0, 0, 0], [], [], [(1, Launch.empty)], [], [], [], 0, 0, none, 0, 5, 4096, false, 0⟩

def dv (s : State) (f : Device → Device) : State := { s with dev := f s.dev }
/-- The path is to issue this word next. -/
def okState (o : Option State) : State := o.getD (off tstrand)
def okNext (o : Host.Outcome State Fault Refusal) : State := match o with | .next t => t | _ => off tstrand
def tissue (w : Word) : State := { off { tstrand with paths := [(0, { tpath with blk := { blk2 with words := [w, 0] } })] } with
  turns := [⟨0, .core 0⟩] }

/-- The same with a source whose data has not come. -/
def tissueMissing : State := { off { tstrand with paths := [(0, { tpath with
    blk := { blk2 with words := [0x0400040290040400, 0] }
    v := [(1, { vrec 1 [7, 1] with pend := [(7, 3)] }), (2, vrec 2 [3, 2])] })] } with turns := [⟨0, .core 0⟩] }

def okVal {ε α : Type} (e : Except ε α) : Option α := match e with | .ok y => some y | .error _ => none
theorem okVal_eq {ε α : Type} {e : Except ε α} {x : α} (h : okVal e = some x) : e = .ok x := by
  cases e with
  | ok y => cases h; rfl
  | error y => cases h
def isNext (o : Host.Outcome State Fault Refusal) : Bool := match o with | .next _ => true | _ => false
theorem okNext_eq {o : Host.Outcome State Fault Refusal} (h : isNext o = true) : o = .next (okNext o) := by
  cases o with
  | next t => rfl
  | fault f => cases h
  | refused r => cases h

/-- The state with path 0 of slot 0 of core 0 loaded, and that strand. -/
def loaded (s : State) : State := (s.load 0 0 0).getD s
def strandOf (s : State) : Strand := (s.flush.strandAt 0 0).getD .empty

theorem canRead {s : State} {srcs : List (Src × Ty)} {en : LaneSet}
    (h : (s.path.hasReads (readNames srcs) && s.path.walkersSet (srcWalkers srcs) && s.path.present (readNames srcs) &&
      (s.path.laneFaults (readNames srcs) s.strand.width en).isEmpty) = true) : s.CanRead srcs en := by
  simp only [Bool.and_eq_true, List.isEmpty_iff] at h
  exact ⟨h.1.1.1, h.1.1.2, h.1.2, h.2⟩
theorem canWriteV {s : State} {n : Fin 128} {c : BitVec 4} {w : Bool} (h : (s.path.get (.vec n)).any Rec.live = false)
    (k : s.slabsOk (slabSize s.strand.width w) = true) : s.CanWrite (.vec n c) w := ⟨h, k⟩
theorem canWriteS {s : State} {n : Fin 64} {c : BitVec 4} {w : Bool} (h : (s.path.get (.scl n)).any Rec.live = false) :
    s.CanWrite (.scl n c) w := h
/-- The state of `tissue` or `tissueMissing` with its path in focus. -/
def inFocus (s : State) : State := okState (({ s with turns := [] } : State).load 0 0 0)
def addI : Instr := .add ⟨0, .i32, .vec 5 2, .vec 1, .vec 2⟩
def tAdd : State := okNext (exec addI (inFocus (tissue 0x0400040290040400)))
theorem tAdd_eq : exec addI (inFocus (tissue 0x0400040290040400)) = .next tAdd := okNext_eq (by decide +kernel)
def tStall : State := okNext (exec addI (inFocus tissueMissing))
theorem tStall_eq : exec addI (inFocus tissueMissing) = .next tStall := okNext_eq (by decide +kernel)

/-! ### Words (R60, R94, R182, R310 to R317 and the annotated programs) -/

theorem test_decode_mul : decode 0x04201402880C0800 none = .ok (.mul ⟨1, .i32, .vec 5 1, .vec 3, .vec 4⟩) := by rfl
theorem test_decode_cmpi : decode 0x102005008C400004 none = .ok (.cmpiLt ⟨0, .n32, false, 1, .special 0, 4⟩) := by rfl
theorem test_decode_drop : decode 0x1420000090000000 none = .ok (.drop (.vec 1) 2) := by rfl
theorem test_decode_br : decode 0x2000000000000005 none = .ok (.br 5) := by rfl
theorem test_decode_brd : decode 0x2010020000000006 none = .ok (.brd 2 false 6) := by rfl
theorem test_decode_brnz : decode 0x2020004380000003 none = .ok (.brnz 7 3) := by rfl
theorem test_decode_call : decode 0x2040004F0800000E none = .ok (.call (.scl 30 1) 14) := by rfl
theorem test_decode_callx : decode 0x20500000000000BF none = .ok (.callx .sink 63) := by rfl
theorem test_decode_ret : decode 0x2060004F00000000 none = .ok (.ret 30) := by rfl
theorem test_decode_wset : decode 0x2800008100000000 (some 0x400008) = .ok (.wset ⟨0, .scl 1, 0, 0, 0, 0, 4, 8⟩) := by rfl
theorem test_decode_cattach : decode 0x8800000006040000 none = .ok (.cattach false (.const 1)) := by rfl
theorem test_decode_cgrow : decode 0x882000438E040000 none = .ok (.cgrow (.scl 7 1) (.const 1)) := by rfl
theorem test_decode_qsend : decode 0x8C000080060D0E00 none = .ok (.qsend true 3 (.scl 7)) := by rfl
theorem test_decode_qrecv : decode 0x8C100042160C0000 none = .ok (.qrecv false (.scl 4 2) 3) := by rfl
theorem test_decode_ld : decode 0xA03014838A200620 none = .ok (.ldC ⟨0, 1, .i32, true, .vec 7 1, .scl 8, .vec 3, 1, 0⟩) := by rfl
theorem test_decode_st : decode 0xA8101402801B0000 none = .ok (.stA ⟨0, 1, .i32, false, .vec 5, .vec 6, .const 0, 0, 0⟩) := by rfl
theorem test_decode_atom :
    decode 0xB040075E8AF3000B none = .ok (.atomOr ⟨0, 0, .n64, .scl 61 1, .scl 60, .const 0, 0, .acq, .pkg⟩) := by rfl
theorem test_decode_bar : decode 0xC400000006000000 none = .ok (.bar ⟨.core, 0, none⟩) := by rfl
theorem test_decode_abwait : decode 0xC830000006030000 none = .ok (.abwait (.const 0) (.const 0)) := by rfl
theorem test_decode_cpy : decode 0xD80101F8A505148B (some 0x0005000002330000) =
    .ok (.cpy ⟨1, 0, 31, 1, 0, 2, .scl 20 1, some (.scl 10), some (.scl 11), 5, 0, 0, 0, some 12, none, none⟩) := by rfl
theorem test_decode_mma : decode 0xDC020EEC0A090684 (some 0x40000000A0542C17) =
    .ok (.mma ⟨2, 0, .e2m1, .e2m1, 1, 0, 0, .scl 2, .scl 3, some (.scl 4), 4, some (20, 21), some (22, 23)⟩) := by rfl
theorem test_decode_mcl : decode 0xDC10000800000000 (some 0x4000000000000000) = .ok (.mcl ⟨0, 0, 1, 4⟩) := by rfl
/-- Type 0x8 is no integer type: the last step of R59 fails. -/
theorem test_decode_refuses_type : (decode 0x0400080290040400 none).toOption = none := by rfl
theorem test_encode_loop : encode (.brw 0 0 false (-2)) = [0x2400000007FFFFFE] := by rfl

/-! ### Each check of well-formedness refuses an ill-formed term (R56) -/

theorem test_wf_registers : ([
    .add ⟨0, .f32, .vec 1 1, .vec 2, .vec 3⟩, .add ⟨0, .i32, .vec 1 0, .vec 2, .vec 3⟩, .add ⟨1, .i32, .scl 1 1, .scl 2, .scl 3⟩,
    .add ⟨0, .i32, .scl 1 1, .vec 2, .scl 3⟩, .add ⟨0, .i32, .scl 1 1, .scl 2, .special 15⟩, .mad ⟨0, .f16, .vec 1 1, .vec 2, .vec 3, .vec 4⟩,
    .iabs ⟨0, .f64, .vec 1 1, .vec 2⟩, .addi ⟨0, .f32, .vec 1 1, .vec 2, 0⟩, .shli ⟨0, .i8, .vec 1 1, .vec 2, 8⟩,
    .cmpEq ⟨0, .i32, false, 0, .vec 1, .vec 2⟩, .cmpLt ⟨0, .n32, true, 1, .vec 1, .vec 2⟩, .cmpiLt ⟨0, .f32, false, 1, .vec 1, 0⟩,
    .mov ⟨0, .i8, .vec 1 1, .vec 2⟩, .movi ⟨0, .f32, .vec 1 1, 0⟩, .drop (.vec 1) 0, .hold (.vec 1) 0, .mmov 0 0 (.mask 1),
    .mmov 0 1 (.value .f32 (.vec 1)), .msel ⟨0, .i32, .scl 1 1, .vec 1, .vec 2, 0⟩, .lea ⟨0, .e2m1, .vec 1 1, .vec 2, .vec 3, .vec 4⟩,
    .movl ⟨0, .i32, .vec 1 1, 0x100000000⟩, .call (.vec 1 1) 0, .callx (.vec 1 1) 2, .wrd (.vec 1 1) 0 0] : List Instr).all
      (fun i => !i.wf) = true := by decide +kernel

theorem test_wf_floats : ([
    .fadd ⟨0, .i32, .vec 1 1, .vec 2, .vec 3⟩, .fadd ⟨0, .f32, .vec 1 1, .vec 2, .const 11⟩, .fma ⟨0, .e4m3, .vec 1 1, .vec 2, .vec 3, .vec 4⟩,
    .cvtpk ⟨0, .f32, .f16, .rne, false, .vec 1 1, .vec 2, .vec 3⟩, .fcmp ⟨0, .f32, 1, .vec 1, .vec 2, 1, .lt⟩,
    .fclass ⟨0, .i32, .vec 1 1, .vec 2, none⟩, .fisnan ⟨0, .f32, 0, .vec 1, none⟩, .dot2 ⟨0, .f32, .vec 1 1, .vec 2, .vec 3, .vec 4⟩,
    .dot8 ⟨0, .e4m3, .vec 1 1, .vec 2, .vec 3, .vec 4⟩] : List Instr).all (fun i => !i.wf) = true := by decide +kernel

theorem test_wf_lanes_and_memory : ([
    .shflIdx ⟨0, .n32, .scl 1 1, 1, .scl 2, 0⟩, .bcast ⟨0, .n32, .vec 1 1, 1, .vec 2, 0⟩, .ballot (.vec 1 1) 1 none, .mand 0 0 1 2,
    .mpop (.vec 1 1) 1, .cgrow (.vec 1 1) (.const 1), .qrecv false (.vec 1 1) 3,
    .ldG ⟨0, 0, .e2m1, false, .vec 1 1, .scl 1, .const 0, 0, 0⟩, .ldG ⟨0, 0, .i32, false, .vec 1 1, .const 0, .const 0, 0, 0⟩,
    .ldG ⟨0, 0, .i32, false, .scl 1 1, .vec 1, .const 0, 0, 0⟩, .ldA ⟨1, 0, .i32, false, .vec 1 1, .scl 1, .const 0, 0, 0⟩,
    .stG ⟨0, 1, .i32, false, .scl 1, .scl 2, .const 0, 0, 0⟩, .crpop ⟨0, 0, .i32, false, .vec 1 1, .scl 1, .const 0, 0, 0⟩,
    .atomAnd ⟨0, 0, .f32, .vec 1 1, .scl 1, .vec 2, 0, .relaxed, .sys⟩, .atomCas ⟨0, 0, .i32, .vec 1 1, .scl 1, .vec 127, 0, .relaxed, .sys⟩,
    .atomInc ⟨0, 0, .i32, .vec 1 1, .scl 1, .vec 2, 0, .relaxed, .sys⟩, .wait 0 (.const 64)] : List Instr).all
      (fun i => !i.wf) = true := by decide +kernel

theorem test_wf_sync_and_engines : ([
    .bar ⟨.core, 0, some (.scl 1)⟩, .bar ⟨.die, 0, none⟩, .bararr ⟨.pkg, 0, some (.const 0)⟩, .bardrop .die 0,
    .abinit (.const 8) (.const 1) (.const 0), .abwait (.const 64) (.const 0),
    .cpy ⟨1, 0, 31, 1, 0, 2, .scl 20 1, none, some (.scl 11), 5, 0, 0, 0, some 12, none, none⟩,
    .cpy ⟨1, 0, 31, 1, 0, 2, .scl 20 1, some (.scl 10), some (.scl 11), 5, 2, 1, 0, some 12, none, none⟩,
    .cpyMc ⟨1, 0, 31, 1, 0, 2, .scl 20 1, some (.scl 10), some (.scl 11), 5, 0, 0, 0, some 12, none, none⟩,
    .mma ⟨2, 0, .e2m1, .f16, 1, 0, 0, .scl 2, .scl 3, none, 4, none, none⟩, .mma ⟨2, 0, .f64, .f64, 1, 0, 1, .scl 2, .scl 3, none, 4, none, none⟩,
    .rdsr 1 (.scl 1 1) .pkg, .wrsr .pkg (.scl 1), .tstamp (.vec 1 1)] : List Instr).all (fun i => !i.wf) = true := by decide +kernel

/-! ### Single steps -/

/-- The first two lanes of a record after an instruction at the state `ts` (v1 = 7, 1 and v2 = 3, 2 and s1 = 64, s2 = 2). -/
def lanesAfter (i : Instr) (n : Name) : List Nat :=
  (((okNext (exec i ts)).path.get n).map fun r => (r.vals.take 2).map BitVec.toNat).getD []

/-- R71, R74: 3 − 7 wraps to 252 at width 8, and an i type is extended by its sign. -/
theorem test_sub_wraps_n8 : lanesAfter (.sub ⟨0, .n8, .vec 3 1, .vec 2, .vec 1⟩) (.vec 3) = [252, 1] := by decide +kernel
theorem test_sub_extends_i8 : lanesAfter (.sub ⟨0, .i8, .vec 3 1, .vec 2, .vec 1⟩) (.vec 3) = [0xFFFFFFFC, 1] := by decide +kernel
/-- R74: the high half of 7 × −1 is −1 as i32; as n32 that of 7 × (2^32 − 1) is 6. -/
theorem test_mulhi_i32 : lanesAfter (.mulhi ⟨0, .i32, .vec 3 1, .vec 1, .const 127⟩) (.vec 3) = [0xFFFFFFFF, 0xFFFFFFFF] := by decide +kernel
theorem test_mulhi_n32 : lanesAfter (.mulhi ⟨0, .n32, .vec 3 1, .vec 1, .const 127⟩) (.vec 3) = [6, 0] := by decide +kernel
/-- R75: a shift by the width or more gives 0, and `rotl` takes the amount mod w. -/
theorem test_shl_past_width : lanesAfter (.shl ⟨0, .i32, .vec 3 1, .vec 1, .const 32⟩) (.vec 3) = [0, 0] := by decide +kernel
theorem test_rotl_past_width : lanesAfter (.rotl ⟨0, .i32, .vec 3 1, .vec 1, .const 33⟩) (.vec 3) = [14, 2] := by decide +kernel
/-- R76: division by zero. -/
theorem test_divq_by_zero : lanesAfter (.divq ⟨0, .i32, .vec 3 1, .vec 1, .const 0⟩) (.vec 3) = [0xFFFFFFFF, 0xFFFFFFFF] := by decide +kernel
theorem test_remq_by_zero : lanesAfter (.remq ⟨0, .i32, .vec 3 1, .vec 1, .const 0⟩) (.vec 3) = [7, 1] := by decide +kernel
/-- R73: a lane that the mask leaves out gets 0. -/
theorem test_masked_lane : lanesAfter (.add ⟨1, .i32, .vec 3 1, .vec 1, .vec 2⟩) (.vec 3) = [0, 3] := by decide +kernel
/-- A source that is also the destination: its last read frees the name first (R22, R70). -/
theorem test_source_is_destination :
    let t := okNext (exec (.add ⟨0, .i32, .vec 3 2, .vec 3, .vec 1⟩) (at' ts { tpath with v := tpath.v ++ [(3, { vrec 9 (5 :: 6 :: []) with count := some 1 })] }))
    (t.path.get (.vec 3)).map (fun r => (r.count, r.vals.take 2)) = some (some 2, [12, 7]) := by decide +kernel
/-- R87: `brnz` makes one counted read; R31: it must be the last of its block, and raises ILLOP elsewhere. -/
theorem test_brnz_reads_once : ((okNext (exec (.brnz 2 3) tend)).path.get (.scl 2)).map (·.count) = some (some 2) := by decide +kernel
theorem test_brnz_inside_block : (okNext (exec (.brnz 2 3) ts)).path.trap.map (·.cause) = some 0x01 := by decide +kernel
/-- R31, R57: a step issues the word at the path's address. -/
theorem test_step_runs_word :
    ((okNext (step (tissue 0x0400040290040400))).strandAt 0 0).bind (fun st => (tget st.paths 0).bind fun p =>
      (p.get (.vec 5)).map fun r => (r.count, r.vals.take 3)) = some (some 2, [10, 3, 0]) := by decide +kernel
/-- R202: storage in quarantine is released once no access posted before its ticket is in flight. -/
theorem test_quarantine_release :
    let s := dv (off tstrand) fun d => { d with
      quarantine := [(3, [(64, 4)]), (9, [(96, 4)])], ticket := 9, mem := ⟨[(65, 1), (68, 7), (97, 8)]⟩
      cores := [(0, { tcore with strands := [(0, { tstrand with flights := [(7, { tfl .flush (tacc 64) false with ticket := 5 })] })] })] }
    (okNext (exec .quarantineRelease s)).dev.mem.cells = [(68, 7), (97, 8)] := by decide +kernel
/-- R412: a resumed path goes past its breakpoint. -/
theorem test_resume_passes_breakpoint :
    let s := dv (off tstrand) fun d => { d with
      sems := [(0, ⟨true, 1, 0, none⟩)], parts := [(0, { tpart with stop := some ⟨1, 0, 0, 0, 0, 0, true⟩ })]
      cores := [(0, { tcore with strands := [(0, { tstrand with paths := [(0, { tpath with status := .debug, pass := [(0, 8)] })] })] })] }
    ((okNext (exec (.resumeWrite 1 0 1) s)).strandAt 0 0).map (·.paths) = some [(0, { tpath with status := .ready, pass := [(0, 8)] })] := by
  decide +kernel

/-! ### For every statement with hypotheses, what meets them (clause by clause, in the order of its clauses) -/

theorem witness_IntegerCompletes : ∃ i : Instr, ∃ s : State, ∃ r : Form, (IntegerForm s i r) ∧ (s.CanRun r) :=
  ⟨_, ts, _, (.add ⟨0, .i32, .vec 3 1, .vec 1, .vec 2⟩), ⟨(canRead (by decide +kernel)), (canWriteV (by decide +kernel) (by decide +kernel))⟩⟩

theorem witness_MoveSystemCompletes : ∃ i : Instr, ∃ s : State, ∃ r : Form, (MoveForm s i r ∨ SystemForm s i r) ∧ (s.CanRun r) :=
  ⟨_, at' ts { tpath with handler := some ttrap, walkers := [(0, twalk)] }, _, (.inr (.wrd (.scl 5 1) 0 1 twalk (by decide +kernel))), ⟨(canRead (by decide +kernel)), (canWriteS (by decide +kernel))⟩⟩

theorem witness_FloatCompletes : ∃ i : Instr, ∃ s : State, ∃ r : Form, (FloatForm s i r) ∧ (s.CanRun r) :=
  ⟨_, ts, _, (.cvt ⟨1, .f32, .i32, .rne, false, .vec 3 1, .vec 1⟩), ⟨(canRead (by decide +kernel)), (canWriteV (by decide +kernel) (by decide +kernel))⟩⟩

theorem witness_CrossLaneCompletes : ∃ i : Instr, ∃ s : State, ∃ r : Form, (CrossForm s i r) ∧ (s.CanRun r) :=
  ⟨_, ts, _, (.shflUp ⟨0, .n32, .vec 3 1, 1, .scl 2, 5⟩), ⟨(canRead (by decide +kernel)), (canWriteV (by decide +kernel) (by decide +kernel))⟩⟩

theorem witness_MaskCompletes : ∃ i : Instr, ∃ s : State, ∃ r : MaskForm, (MaskRel s i r) ∧ (s.CanRead r.srcs (s.path.mask r.mask)) ∧
  (s.strand.width ≤ 1024) :=
  ⟨_, ts, _, (.cmpLt ⟨0, .i32, false, 2, .vec 1, .vec 2⟩), (canRead (by decide +kernel)), (by decide +kernel)⟩

theorem witness_DropHoldCompletes :
    (∃ x : Name, ∃ c : BitVec 4, ∃ s : State, ∃ r : Rec, (s.path.get x = some r) ∧ ∃ k : Nat, (r.count = some k) ∧ (0 < k) ∧ (c ≠ 15) ∧
      (c.toNat ≤ k)) ∧
    (∃ x : Name, ∃ c : BitVec 4, ∃ s : State, ∃ r : Rec, (s.path.get x = some r) ∧ (r.count ≠ some 0) ∧ (c = 15)) ∧
    (∃ x : Name, ∃ c : BitVec 4, ∃ s : State, ∃ r : Rec, (s.path.get x = some r) ∧ (r.count = none) ∧ (c ≠ 15)) ∧
    (∃ x : Name, ∃ c : BitVec 4, ∃ s : State, ∃ r : Rec, (s.path.get x = some r) ∧ ∃ k : Nat, (r.count = some k) ∧ (0 < k) ∧ (c = 15)) ∧
    (∃ x : Name, ∃ c : BitVec 4, ∃ s : State, ∃ r : Rec, (s.path.get x = some r) ∧ (r.count = none) ∧ (c ≠ 0) ∧ (c ≠ 15)) :=
  ⟨⟨.vec 1, 3, ts, _, rfl, 3, rfl, (by decide +kernel), (by decide +kernel), (by decide +kernel)⟩,
   ⟨.vec 1, 15, ts, _, rfl, (by decide +kernel), (by decide +kernel)⟩,
   ⟨.scl 3, 1, ts, _, rfl, rfl, (by decide +kernel)⟩,
   ⟨.vec 1, 15, ts, _, rfl, 3, rfl, (by decide +kernel), (by decide +kernel)⟩,
   ⟨.scl 3, 14, ts, _, rfl, rfl, (by decide +kernel), (by decide +kernel)⟩⟩

theorem witness_BranchCallComplete :
    (∃ i : Instr, ∃ s : State, ∃ b : Branch, (BranchForm s i b) ∧ (s.path.atEnd = true) ∧ (s.CanRead b.srcs s.path.lanes)) ∧
    (∃ i : Instr, ∃ s : State, ∃ b : Branch, (BranchForm s i b) ∧ (s.path.atEnd = true) ∧ (s.CanRead b.srcs s.path.lanes)) ∧
    (∃ i : Instr, ∃ s : State, ∃ b : Branch, (BranchForm s i b) ∧ (s.path.atEnd = true) ∧ (s.CanRead b.srcs s.path.lanes)) ∧
    (∃ i : Instr, ∃ s : State, ∃ b : Branch, (BranchForm s i b) ∧ (s.path.atEnd = true) ∧ (s.CanRead b.srcs s.path.lanes)) ∧
    (∃ i : Instr, ∃ s : State, ∃ c : Call, (CallForm s i c) ∧ (s.path.atEnd = true) ∧ (s.CanRead c.srcs s.path.lanes) ∧
      ((s.afterReads c.srcs).CanWrite c.link true)) ∧
    (∃ i : Instr, ∃ s : State, ∃ c : Call, (CallForm s i c) ∧ (s.path.atEnd = true) ∧ (s.CanRead c.srcs s.path.lanes) ∧
      ((s.afterReads c.srcs).CanWrite c.link true)) :=
  ⟨⟨_, tend, _, (.brnz 1 5), (by decide +kernel), (canRead (by decide +kernel))⟩,
   ⟨_, { tend with path := { tend.path with walkers := [(0, twalk)] } }, _, (.brw 0 0 false (-2) twalk (by decide +kernel)), (by decide +kernel), (canRead (by decide +kernel))⟩,
   ⟨_, tend, _, (.whole 0 false 4 (by decide +kernel) (by decide +kernel)), (by decide +kernel), (canRead (by decide +kernel))⟩,
   ⟨_, tend, _, (.nowhere 2 false 4 (by decide +kernel) (by decide +kernel) (by decide +kernel)), (by decide +kernel),
     (canRead (by decide +kernel))⟩,
   ⟨_, tend, _, (.call (.scl 30 2) 7), (by decide +kernel), (canRead (by decide +kernel)), (canWriteS (by decide +kernel))⟩,
   ⟨_, tend, _, (.ret 1), (by decide +kernel), (canRead (by decide +kernel)), trivial⟩⟩

theorem witness_SplitCompletes : ∃ mc : Fin 16, ∃ neg : Bool, ∃ s : State, ∃ join : Word, ∃ taken : LaneSet, ∃ foc : Nat × Nat × Nat, (s.path.atEnd = true) ∧ (s.path.blk.rcv = some join) ∧ (s.focus = some foc) ∧ (foc.2.2 < s.strand.next) ∧ (taken = (if neg then s.path.lanes &&& ~~~(s.path.mask mc) else s.path.mask mc)) ∧ (taken ≠ s.path.lanes) ∧ (taken ≠ 0) :=
  ⟨1, false, tend, 64, 2, (0, 0, 0), (by decide +kernel), (by decide +kernel), (by decide +kernel), (by decide +kernel),
    (by decide +kernel), (by decide +kernel), (by decide +kernel)⟩

theorem witness_WalkerCompletes :
    (∃ o : WsetOp, ∃ s : State, (s.CanRead [(scSrc o.base, .n64)] s.path.lanes)) ∧
    (∃ n : Fin 64, ∃ c : BitVec 4, ∃ w : Fin 8, ∃ s : State, ∃ x : Walker, (tget s.path.walkers w.val = some x) ∧
      (s.CanWrite (.scl n c) true)) :=
  ⟨⟨⟨0, .scl 1, 0, 5, 3, 8, 4, 16⟩, ts, (canRead (by decide +kernel))⟩,
   ⟨5, 1, 0, at' ts { tpath with walkers := [(0, twalk)] }, twalk, (by decide +kernel), (canWriteS (by decide +kernel))⟩⟩

theorem witness_TimingCompletes :
    (∃ a : SC, ∃ s : State, (s.CanRead [(scSrc a, .n32)] s.path.lanes)) ∧
    (∃ d : Dest, ∃ s : State, (s.path.windowOpen = false) ∧ (s.CanWrite d true)) :=
  ⟨⟨.scl 1, ts, (canRead (by decide +kernel))⟩,
   ⟨.scl 5 1, ts, (by decide +kernel), (canWriteS (by decide +kernel))⟩⟩

theorem witness_TrapWriteRegisterComplete :
    (∃ s : State, (s.path.windowOpen = false)) ∧
    (∃ s : State, (s.path.windowOpen = false) ∧ (s.part.armed = false)) ∧
    (∃ s : State, (s.part.armed = true) ∧ (s.part.stop = none)) ∧
    (∃ a : SC, ∃ s : State, ∃ tr : Trap, (s.path.handler = some tr) ∧ (s.CanRead [(scSrc a, .n32)] s.path.lanes)) ∧
    (∃ s : State, (s.path.handler = none) ∧ (s.path.windowOpen = false)) ∧
    (∃ r : SysReg, ∃ s : State, (r ≠ .fdone) ∧ (s.path.windowOpen = false)) :=
  ⟨⟨ts, (by decide +kernel)⟩,
   ⟨ts, (by decide +kernel), (by decide +kernel)⟩,
   ⟨{ ts with dev := ts.dev.setPart 0 { Partition.reset with bps := [(0, 1)] } }, (by decide +kernel), (by decide +kernel)⟩,
   ⟨.scl 1, at' ts { tpath with handler := some ttrap }, ttrap, (by decide +kernel), (canRead (by decide +kernel))⟩,
   ⟨ts, (by decide +kernel), (by decide +kernel)⟩,
   ⟨.pkg, ts, (by decide +kernel), (by decide +kernel)⟩⟩

theorem witness_ExitCompletes : ∃ s : State, ∃ foc : Nat × Nat × Nat, (s.path.atEnd = true) ∧ (s.focus = some foc) :=
  ⟨tend, (0, 0, 0), (by decide +kernel), (by decide +kernel)⟩

theorem witness_AccessIssues : ∃ i : Instr, ∃ s : State, ∃ f : AccessForm, (AccessIssue s i f) ∧
  (∀ k, f.ctr = some k → s.canPost k.val = true) ∧ (s.CanRead f.srcs f.en) ∧ ((s.afterReads f.srcs).CanWrite f.d f.ty.wide) :=
  ⟨_, tm, _, (.ldG ⟨2, 1, .i32, true, .vec 8 1, .scl 1, .vec 2, 3, 2⟩), (fun k h => by cases h <;> decide +kernel),
    (canRead (by decide +kernel)), (canWriteV (by decide +kernel) (by decide +kernel))⟩

theorem witness_ResultsArrive :
    (∃ s : State, ∃ u : State, ∃ p : PRef, ∃ w : Window, ∃ f : Flight, ∃ r : Rec, ∃ ls : LaneSet, (s.load p.core p.slot p.path = some u) ∧ (u.path.window = some w) ∧ (u.strand.flight w.flight = some f) ∧ (f.kind = .func) ∧ (f.issued + 4 ≤ u.clock) ∧ (r.pend = [(w.flight, ls)]) ∧ (r.count ≠ some 0)) ∧
    (∃ s : State, ∃ c : Nat, ∃ sl : Nat, ∃ id : Nat, ∃ ls : (List Nat), ∃ e : Ending, ∃ st : Strand, ∃ f : Flight, ∃ cls : (List Nat), ∃ cached : Bool, ∃ p : Nat, ∃ q : Path, ∃ found : (Nat → Word), (s.flush.strandAt c sl = some st) ∧ (st.flight id = some f) ∧ (f.kind = .load cls cached) ∧ (f.passed = true) ∧ (∀ a ∈ f.accs, a.bad = none ∧ f.chosen ls e a = true ∧ s.flush.dev.paused a.pa = false ∧ failCause s.flush.dev e a = none ∧ s.flush.Finds c (s.dev.launchAt st.launch).part f cached a (found a.lane)) ∧ (∀ g ∈ st.flights, g.2.sharesPath f = true → f.seq ≤ g.2.seq ∧ f.unit ≤ g.2.unit) ∧ (tget st.paths p = some q)) ∧
    (∃ s : State, ∃ c : Nat, ∃ sl : Nat, ∃ id : Nat, ∃ ls : (List Nat), ∃ e : Ending, ∃ st : Strand, ∃ f : Flight, ∃ cls : (List Nat), ∃ cached : Bool, ∃ p : Nat, ∃ q : Path, ∃ found : (Nat → Word), (s.flush.strandAt c sl = some st) ∧ (st.flight id = some f) ∧ (f.kind = .load cls cached) ∧ (f.passed = true) ∧ (∀ a ∈ f.accs, a.bad = none ∧ f.chosen ls e a = true ∧ s.flush.dev.paused a.pa = false ∧ failCause s.flush.dev e a = none ∧ s.flush.Finds c (s.dev.launchAt st.launch).part f cached a (found a.lane)) ∧ (∀ g ∈ st.flights, g.2.sharesPath f = true → f.seq ≤ g.2.seq ∧ f.unit ≤ g.2.unit) ∧ (tget st.paths p = some q)) :=
  ⟨⟨flying (tfl .func (tacc 0) false), loaded (flying (tfl .func (tacc 0) false)), ⟨0, 0, 0⟩, twin, tfl .func (tacc 0) false, rwait, 3, (by decide +kernel), (by decide +kernel), (by decide +kernel), (by decide +kernel), (by decide +kernel), (by decide +kernel), (by decide +kernel)⟩,
   ⟨flying (tfl (.load [0, 1] false) (tat (tacc 64)) true), 0, 0, 7, [], .done, strandOf (flying (tfl (.load [0, 1] false) (tat (tacc 64)) true)), tfl (.load [0, 1] false) (tat (tacc 64)) true, [0, 1], false, 0, (flying (tfl (.load [0, 1] false) (tat (tacc 64)) true)).path, tfound (flying (tfl (.load [0, 1] false) (tat (tacc 64)) true)).flush (tfl (.load [0, 1] false) (tat (tacc 64)) true).accs, (by decide +kernel), (by decide +kernel), (by decide +kernel), (by decide +kernel), (List.forall_mem_singleton.mpr ⟨(by decide +kernel), (by decide +kernel), (by decide +kernel), (by decide +kernel), .memory (by decide +kernel) (by decide +kernel) (by decide +kernel) (by decide +kernel) (by decide +kernel) (by decide +kernel)⟩), (by decide +kernel), (by decide +kernel)⟩,
   ⟨flying2, 0, 0, 7, [], .done, strandOf (flying2), tfl2, [0, 1], true, 0, (flying2).path, tfound (flying2).flush (tfl2).accs, (by decide +kernel), (by decide +kernel), (by decide +kernel), (by decide +kernel), (List.forall_mem_cons.mpr ⟨⟨(by decide +kernel), (by decide +kernel), (by decide +kernel), (by decide +kernel), .memory (by decide +kernel) (by decide +kernel) (by decide +kernel) (by decide +kernel) (by decide +kernel) (by decide +kernel)⟩, List.forall_mem_singleton.mpr ⟨(by decide +kernel), (by decide +kernel), (by decide +kernel), (by decide +kernel), .memory (by decide +kernel) (by decide +kernel) (by decide +kernel) (by decide +kernel) (by decide +kernel) (by decide +kernel)⟩⟩), (by decide +kernel), (by decide +kernel)⟩⟩

theorem witness_TranslationPasses :
    (∃ s : State, ∃ u : State, ∃ p : PRef, ∃ w : Window, ∃ f : Flight, ∃ accs : (List LaneAcc), (s.load p.core p.slot p.path = some u) ∧
      (u.path.window = some w) ∧ (w.complete = false) ∧ (u.strand.flight w.flight = some f) ∧ (f.passed = false) ∧ (f.kind ≠ .func) ∧
      (f.accs ≠ []) ∧ (f.accs.map (u.checkLane f) = accs.map LaneRes.ok) ∧ (∀ g ∈ u.strand.flights, u.earlier f g.2 = false ∧
      (g.2.paths.contains u.pathNo = true → w.flight ≤ g.1)) ∧
      (f.kind.releases = true → ∀ c ∈ u.flush.dev.cores, ∀ e ∈ c.2.strands, ∀ g ∈ e.2.flights, g.2.pub = 0) ∧
      (∀ op, f.kind = .red op → accs.length = 1 ∧ u.part.ovfOrder = [] ∧ u.core.abuf = [])) ∧
    (∃ s : State, ∃ u : State, ∃ p : PRef, ∃ w : Window, ∃ f : Flight, ∃ accs : (List LaneAcc), (s.load p.core p.slot p.path = some u) ∧
      (u.path.window = some w) ∧ (w.complete = false) ∧ (u.strand.flight w.flight = some f) ∧ (f.passed = false) ∧ (f.kind ≠ .func) ∧
      (f.accs ≠ []) ∧ (f.accs.map (u.checkLane f) = accs.map LaneRes.ok) ∧ (∀ g ∈ u.strand.flights, u.earlier f g.2 = false ∧
      (g.2.paths.contains u.pathNo = true → w.flight ≤ g.1)) ∧
      (f.kind.releases = true → ∀ c ∈ u.flush.dev.cores, ∀ e ∈ c.2.strands, ∀ g ∈ e.2.flights, g.2.pub = 0) ∧
      (∀ op, f.kind = .red op → accs.length = 1 ∧ u.part.ovfOrder = [] ∧ u.core.abuf = [])) :=
  ⟨⟨flying (tfl (.store [0, 1]) (tacc 64) false), loaded (flying (tfl (.store [0, 1]) (tacc 64) false)), ⟨0, 0, 0⟩, twin, tfl (.store [0, 1]) (tacc 64) false, [tat (tacc 64)], (by decide +kernel), (by decide +kernel), (by decide +kernel), (by decide +kernel), (by decide +kernel), (by decide +kernel), (by decide +kernel), (by decide +kernel), (by decide +kernel), (by decide +kernel), (fun _ _ => by decide +kernel)⟩,
   ⟨flying (tfl (.red .add) (tacc 64) false), loaded (flying (tfl (.red .add) (tacc 64) false)), ⟨0, 0, 0⟩, twin, tfl (.red .add) (tacc 64) false, [tat (tacc 64)], (by decide +kernel), (by decide +kernel), (by decide +kernel), (by decide +kernel), (by decide +kernel), (by decide +kernel), (by decide +kernel), (by decide +kernel), (by decide +kernel), (by decide +kernel), (fun _ _ => by decide +kernel)⟩⟩

theorem witness_StorePerforms : ∃ s : State, ∃ c : Nat, ∃ sl : Nat, ∃ id : Nat, ∃ ls : (List Nat), ∃ e : Ending, ∃ st : Strand, ∃ f : Flight, (s.CanAct c sl id ls e st f) ∧ (f.kind.isStore = true) ∧ (∀ a ∈ f.accs, spaceOf a.pa ≠ 3 ∧ spaceOf a.pa ≠ 4) :=
  ⟨flying (tfl (.store [0, 1]) (tat (tacc 64)) true), 0, 0, 7, [], .done, strandOf (flying (tfl (.store [0, 1]) (tat (tacc 64)) true)), tfl (.store [0, 1]) (tat (tacc 64)) true, ⟨(by decide +kernel), (by decide +kernel), (by decide +kernel), (by decide +kernel), (by decide +kernel), (by decide +kernel)⟩, (by decide +kernel), (by decide +kernel)⟩

theorem witness_AtomicPerforms :
    (∃ s : State, ∃ c : Nat, ∃ sl : Nat, ∃ id : Nat, ∃ ls : (List Nat), ∃ e : Ending, ∃ st : Strand, ∃ f : Flight, (s.CanAct c sl id ls e st f) ∧ ∃ k : AtomK, ∃ sem : Sem, ∃ sc : Scope, (f.kind = .atomic k sem sc)) ∧
    (∃ s : State, ∃ c : Nat, ∃ sl : Nat, ∃ id : Nat, ∃ ls : (List Nat), ∃ e : Ending, ∃ st : Strand, ∃ f : Flight, (s.CanAct c sl id ls e st f) ∧ (f.kind = .flush) ∧ (∀ a ∈ f.accs, a.pa ≠ 2 ^ 200)) :=
  ⟨⟨flying (tfl (.atomic .add .relaxed .pkg) (tat (tacc 64)) true), 0, 0, 7, [], .done, strandOf (flying (tfl (.atomic .add .relaxed .pkg) (tat (tacc 64)) true)), tfl (.atomic .add .relaxed .pkg) (tat (tacc 64)) true, ⟨(by decide +kernel), (by decide +kernel), (by decide +kernel), (by decide +kernel), (by decide +kernel), (by decide +kernel)⟩, .add, .relaxed, .pkg, (by decide +kernel)⟩,
   ⟨flying (tfl (.flush) (tat (tacc 64)) true), 0, 0, 7, [], .done, strandOf (flying (tfl (.flush) (tat (tacc 64)) true)), tfl (.flush) (tat (tacc 64)) true, ⟨(by decide +kernel), (by decide +kernel), (by decide +kernel), (by decide +kernel), (by decide +kernel), (by decide +kernel)⟩, (by decide +kernel), (by decide +kernel)⟩⟩

theorem witness_FlushPrefetchComplete :
    (∃ k : (Fin 16), ∃ s : State, ∃ foc : (Nat × Nat × Nat), (s.focus = some foc) ∧ (s.canPost k.val = true) ∧ (s.NoFlights) ∧
      (∀ e ∈ s.ovfSlots s.partNo s.launch.ordinal, s.dev.slotPaused s.partNo e.1 = false)) ∧
    (∃ o : PfOp, ∃ s : State, (s.CanRead [(o.base, .n64), (o.index, .i32)] (s.path.mask o.mask))) ∧
    (∃ b : Src, ∃ s : State, (s.CanRead [(b, .n64)] s.path.lanes)) :=
  ⟨⟨2, { tm with core := { tm.core with abuf := [⟨1, 0, 0, 0, 64, 64, .add, .i32, 5, 1⟩] } }, _, rfl, (by decide +kernel),
    (by unfold State.NoFlights; decide +kernel), (by decide +kernel)⟩,
   ⟨⟨0, 0, .i32, true, .scl 1, .vec 2, 1⟩, tm, (canRead (by decide +kernel))⟩,
   ⟨.scl 1, tm, (canRead (by decide +kernel))⟩⟩

theorem witness_StreamCompletes :
    (∃ i : Instr, ∃ f : StreamForm, ∃ s : State, (StreamIssue i f) ∧ (s.strand.acquiring s.pathNo = false) ∧ (s.core.stream = none) ∧
      (s.CanRead f.reads s.path.lanes) ∧ let v := (s.vals f.reads).map fun x => (x.at 0).toNat; (sxMisaligned (f.checks v) = none)) ∧
    (∃ i : Instr, ∃ f : StreamForm, ∃ s : State, (StreamIssue i f) ∧ (s.strand.acquiring s.pathNo = false) ∧ (s.core.stream = none) ∧
      (s.CanRead f.reads s.path.lanes) ∧ let v := (s.vals f.reads).map fun x => (x.at 0).toNat; ∃ a : Nat, (sxMisaligned (f.checks v) = some a) ∧ (s.path.windowOpen = false) ∧ (lanesOf s.strand.width s.path.lanes ≠ [])) ∧
    (∃ i : Instr, ∃ f : StreamForm, ∃ x : Stream, ∃ c : Core, ∃ h : Cohort, ∃ till : Nat, (StreamIssue i f) ∧ (x.op = i) ∧ (x.seg = 0) ∧
      (x.acc = []) ∧ (c.stream = some x) ∧ (tget c.cohorts x.key = some h) ∧ (sxCount i ≠ 0) ∧ (x.clk + sxCount i * sxClocks i ≤ till)) :=
  ⟨⟨_, _, tm, (.sxAdd ⟨0, .f32, 3, .scl 1, .const 0, .const 32, 4, 4, 4⟩), (by decide +kernel), (by decide +kernel),
    (canRead (by decide +kernel)), (by decide +kernel)⟩,
   ⟨_, _, tm, (.sxAdd ⟨0, .f32, 3, .scl 1, .const 2, .const 32, 4, 4, 4⟩), (by decide +kernel), (by decide +kernel),
     (canRead (by decide +kernel)), 2, (by decide +kernel), (by decide +kernel), (by decide +kernel)⟩,
   ⟨_, _, ⟨0, 0, 0, .sxAdd ⟨0, .f32, 2, .scl 1, .const 0, .const 32, 4, 4, 4⟩, [64, 0, 256], 0, 100, [], ⟨[]⟩⟩, { tcore with cohorts := [(0, { tcohort with a := ⟨[(2, 0x80), (3, 0x3F), (7, 0x40), (19, 0x41), (128 + 3, 0x3F), (256 + 3, 0x40), (256 + 19, 0xBF)]⟩ })], stream := some ⟨0, 0, 0, .sxAdd ⟨0, .f32, 2, .scl 1, .const 0, .const 32, 4, 4, 4⟩, [64, 0, 256], 0, 100, [], ⟨[]⟩⟩ }, { tcohort with a := ⟨[(2, 0x80), (3, 0x3F), (7, 0x40), (19, 0x41), (128 + 3, 0x3F), (256 + 3, 0x40), (256 + 19, 0xBF)]⟩ }, 104 + 4, (.sxAdd ⟨0, .f32, 2, .scl 1, .const 0, .const 32, 4, 4, 4⟩), (by decide +kernel), (by decide +kernel), (by decide +kernel), (by decide +kernel), (by decide +kernel), (by decide +kernel), (by decide +kernel)⟩⟩

theorem witness_BufferCompletes :
    (∃ i : Instr, ∃ o : LoadOp, ∃ s : State, ∃ f : BufForm, (BufIssue s i o f) ∧ (s.canPost o.k.val = true) ∧
      (s.CanRead (loadSrcs o) (s.enabled o.d o.mask)) ∧ ((s.afterReads (loadSrcs o)).CanWrite o.d o.ty.wide) ∧
      (∀ l ∈ lanesOf s.strand.width (s.enabled o.d o.mask), inWindow f.limit o.ty.size (s.loadAddr o l))) ∧
    (∃ i : Instr, ∃ o : LoadOp, ∃ s : State, ∃ f : BufForm, (BufIssue s i o f) ∧ (s.canPost o.k.val = true) ∧
      (s.CanRead (loadSrcs o) (s.enabled o.d o.mask)) ∧ ((s.afterReads (loadSrcs o)).CanWrite o.d o.ty.wide) ∧
      (∀ l ∈ lanesOf s.strand.width (s.enabled o.d o.mask), inWindow f.limit o.ty.size (s.loadAddr o l))) ∧
    (∃ s : State, (s.cohort.slots ≠ 0) ∧ (s.cohort.oldestClosed = none)) ∧
    (∃ s : State, (s.cohort.slots ≠ 0) ∧ ((tget s.cohort.tiles s.cohort.nextClaim).all (fun x => !x.closed) = true)) ∧
    (∃ i : Instr, ∃ o : LoadOp, ∃ s : State, ∃ f : BufForm, (BufIssue s i o f) ∧ (s.canPost o.k.val = true) ∧
      (s.path.windowOpen = false) ∧ (s.CanRead (loadSrcs o) (s.enabled o.d o.mask)) ∧
      ((s.afterReads (loadSrcs o)).CanWrite o.d o.ty.wide) ∧ (lanesOf s.strand.width (s.enabled o.d o.mask) ≠ []) ∧
      (ofLanes (lanesOf s.strand.width (s.enabled o.d o.mask)) &&& s.path.lanes = s.path.lanes) ∧
      (∀ l ∈ lanesOf s.strand.width (s.enabled o.d o.mask), f.limit ≤ s.loadAddr o l ∧ s.loadAddr o l % o.ty.size = 0)) ∧
    (∃ i : Instr, ∃ o : LoadOp, ∃ s : State, ∃ f : BufForm, (BufIssue s i o f) ∧ (s.canPost o.k.val = true) ∧
      (s.path.windowOpen = false) ∧ (s.CanRead (loadSrcs o) (s.enabled o.d o.mask)) ∧
      ((s.afterReads (loadSrcs o)).CanWrite o.d o.ty.wide) ∧ (lanesOf s.strand.width (s.enabled o.d o.mask) ≠ []) ∧
      (ofLanes (lanesOf s.strand.width (s.enabled o.d o.mask)) &&& s.path.lanes = s.path.lanes) ∧ (f.limit ≠ 0) ∧
      (∀ l ∈ lanesOf s.strand.width (s.enabled o.d o.mask), s.loadAddr o l % o.ty.size ≠ 0)) ∧
    (∃ i : Instr, ∃ o : StoreOp, ∃ phys : Nat → Nat, ∃ s : State, (BufStore i o phys) ∧ (s.canPost o.k.val = true) ∧
      (s.CanRead (storeSrcs o) (s.storeEn o)) ∧
      (∀ l ∈ lanesOf s.strand.width (s.storeEn o), inWindow s.cohort.asize o.ty.size (s.storeAddr o l))) :=
  ⟨⟨_, _, tm, _, (.ldA ⟨2, 0, .i32, true, .vec 8 1, .scl 1, .vec 2, 3, 0⟩), (by decide +kernel),
    (canRead (by decide +kernel)), (canWriteV (by decide +kernel) (by decide +kernel)), (by unfold inWindow; decide +kernel)⟩,
   ⟨_, _, tq, _, (.crpop ⟨2, 0, .i32, true, .scl 8 1, .const 4, .const 0, 3, 0⟩ ⟨false, [1, 2, 3], true, 0⟩ (by decide +kernel) rfl), (by decide +kernel), (canRead (by decide +kernel)), (canWriteS (by decide +kernel)), (by unfold inWindow; decide +kernel)⟩,
   ⟨tm, (by decide +kernel), (by decide +kernel)⟩,
   ⟨tm, (by decide +kernel), (by decide +kernel)⟩,
   ⟨_, _, tm, _, (.ldA ⟨2, 0, .i32, true, .vec 8 1, .scl 4, .const 0, 3, 0⟩), (by decide +kernel), (by decide +kernel),
     (canRead (by decide +kernel)), (canWriteV (by decide +kernel) (by decide +kernel)), (by decide +kernel), (by decide +kernel),
     (by decide +kernel)⟩,
   ⟨_, _, tm, _, (.ldW ⟨2, 0, .i32, false, .scl 8 1, .scl 1, .const 2, 3, 0⟩), (by decide +kernel), (by decide +kernel),
     (canRead (by decide +kernel)), (canWriteS (by decide +kernel)), (by decide +kernel), (by decide +kernel), (by decide +kernel),
     (by decide +kernel)⟩,
   ⟨_, _, _, tm, (.stA ⟨1, 0, .i32, true, .vec 1, .scl 1, .vec 2, 0, 1⟩), (by decide +kernel),
     (canRead (by decide +kernel)), (by unfold inWindow; decide +kernel)⟩⟩

theorem witness_CohortCompletes :
    (∃ x : SC, ∃ s : State, (s.strand.idle = true) ∧ (s.CanRead (scSrcs x) s.path.lanes)) ∧
    (∃ x : SC, ∃ s : State, (s.strand.idle = true) ∧
      (s.CanRead (scSrcs x) s.path.lanes) ∧ let n := s.scVal x; ∃ d : Dest, ((s.afterReads (scSrcs x)).CanWrite d false)) ∧
    (∃ x : SC, ∃ s : State, (s.strand.idle = true) ∧ (s.CanRead (scSrcs x) s.path.lanes) ∧ let n := s.scVal x; (n % 32 = 0) ∧ (n ≠ 0) ∧
      (n ≤ s.strand.width) ∧ (s.strand.paths.length = 1) ∧ (s.path.lanes &&& allLanes n ≠ 0)) ∧
    (∃ x : SC, ∃ s : State, (s.strand.idle = true) ∧
      (s.CanRead (scSrcs x) s.path.lanes) ∧ let n := s.scVal x; (n % 32 ≠ 0 ∨ n = 0 ∨ s.strand.width < n ∨ s.strand.paths.length ≠ 1) ∧
      (s.path.windowOpen = false)) ∧
    (∃ x : SC, ∃ s : State, (s.strand.idle = true) ∧
      (s.CanRead (scSrcs x) s.path.lanes) ∧ let n := s.scVal x; ∃ h : Cohort, (tget s.core.cohorts s.strand.cohort = some h) ∧
      (∀ c sl, h.prioKey = some (c, sl) → c = s.clock → sl ≤ s.slotNo)) :=
  ⟨⟨.scl 2, tm, (by decide +kernel), (canRead (by decide +kernel))⟩,
   ⟨.scl 2, tm, (by decide +kernel), (canRead (by decide +kernel)), .scl 9 1, (canWriteS (by decide +kernel))⟩,
   ⟨.const 32, tm, (by decide +kernel), (canRead (by decide +kernel)), (by decide +kernel), (by decide +kernel), (by decide +kernel),
     (by decide +kernel), (by decide +kernel)⟩,
   ⟨.const 0, tm, (by decide +kernel), (canRead (by decide +kernel)), (by decide +kernel), (by decide +kernel)⟩,
   ⟨.scl 2, tm, (by decide +kernel), (canRead (by decide +kernel)), tcohort, (by decide +kernel), (fun _ _ h => by cases h)⟩⟩

theorem witness_RoleSwitchCompletes :
    (∃ x : SC, ∃ s : State, ∃ foc : (Nat × Nat × Nat), (s.focus = some foc) ∧ (s.strand.idle = true) ∧ (s.NoFlights) ∧
      (s.CanRead (scSrcs x) s.path.lanes) ∧ (s.path.windowOpen = false) ∧ ∃ r : Role, ∃ a : Word, (s.sole = true) ∧ (s.scVal x ≤ 3) ∧
      (s.launch.kernel.roles[s.scVal x]? = some r) ∧ (r.entry = some a) ∧ (r.argw = [])) ∧
    (∃ x : SC, ∃ s : State, ∃ foc : (Nat × Nat × Nat), (s.focus = some foc) ∧ (s.strand.idle = true) ∧ (s.NoFlights) ∧
      (s.CanRead (scSrcs x) s.path.lanes) ∧ (s.path.windowOpen = false) ∧ ∃ r : Role, ∃ a : Word, (s.sole = true) ∧ (s.scVal x ≤ 3) ∧
      (s.launch.kernel.roles[s.scVal x]? = some r) ∧ (r.entry = some a) ∧
      (r.argw = []) ∧ ∃ q : (Fin 16), ∃ qu : Queue, (s.LocalQueue q qu) ∧ (qu.occ ≠ 0) ∧ (qu.occ ≤ qu.cap) ∧
      (outOfTurn qu.acted s.clock s.slotNo = false)) ∧
    (∃ x : SC, ∃ s : State, ∃ foc : (Nat × Nat × Nat), (s.focus = some foc) ∧ (s.strand.idle = true) ∧ (s.NoFlights) ∧
      (s.CanRead (scSrcs x) s.path.lanes) ∧ (s.path.windowOpen = false) ∧ ∃ r : Role, ∃ a : Word, (s.sole = true) ∧ (s.scVal x ≤ 3) ∧
      (s.launch.kernel.roles[s.scVal x]? = some r) ∧ (r.entry = some a) ∧
      (r.argw = []) ∧ ∃ q : (Fin 16), ∃ qu : Queue, (s.LocalQueue q qu) ∧ (qu.occ = 0)) ∧
    (∃ x : SC, ∃ s : State, ∃ foc : (Nat × Nat × Nat), (s.focus = some foc) ∧ (s.strand.idle = true) ∧ (s.NoFlights) ∧
      (s.CanRead (scSrcs x) s.path.lanes) ∧ (s.path.windowOpen = false) ∧ (s.sole = false ∨ 3 < s.scVal x)) :=
  ⟨⟨.const 1, { tq with dev := { tq.dev with launches := [(1, { Launch.empty with kernel := { Kernel.empty with roles := [trole none none, trole (some 3) none] } })] } }, (0, 0, 0), (by decide +kernel), (by decide +kernel), (by unfold State.NoFlights; decide +kernel), (canRead (by decide +kernel)), (by decide +kernel), trole (some 3) none, 128, (by decide +kernel), (by decide +kernel), (by decide +kernel), (by decide +kernel), (by decide +kernel)⟩,
   ⟨.const 1, { tq with dev := { tq.dev with launches := [(1, { Launch.empty with kernel := { Kernel.empty with roles := [trole none none, trole (some 3) none] } })] } }, (0, 0, 0), (by decide +kernel), (by decide +kernel), (by unfold State.NoFlights; decide +kernel), (canRead (by decide +kernel)), (by decide +kernel), trole (some 3) none, 128, (by decide +kernel), (by decide +kernel), (by decide +kernel), (by decide +kernel), (by decide +kernel), 3, tqueue 0 256 16 1 15 0, ⟨(by decide +kernel), (by decide +kernel)⟩, (by decide +kernel), (by decide +kernel), (by decide +kernel)⟩,
   ⟨.const 1, { tq with dev := { tq.dev with launches := [(1, { Launch.empty with kernel := { Kernel.empty with roles := [trole none none, trole (some 3) none] } })] } }, (0, 0, 0), (by decide +kernel), (by decide +kernel), (by unfold State.NoFlights; decide +kernel), (canRead (by decide +kernel)), (by decide +kernel), trole (some 3) none, 128, (by decide +kernel), (by decide +kernel), (by decide +kernel), (by decide +kernel), (by decide +kernel), 5, tqueue 0 320 2 0 0 0, ⟨(by decide +kernel), (by decide +kernel)⟩, (by decide +kernel)⟩,
   ⟨.const 4, tq, (0, 0, 0), (by decide +kernel), (by decide +kernel), (by unfold State.NoFlights; decide +kernel),
     (canRead (by decide +kernel)), (by decide +kernel), (by decide +kernel)⟩⟩

theorem witness_QueueCompletes :
    (∃ q : Fin 16, ∃ s : State, ∃ x : Queue, (s.LocalQueue q x) ∧ (s.strand.acquiring s.pathNo = false) ∧
      (s.CanRelease) ∧ ∃ a : SC, (s.CanRead (scSrcs a) s.path.lanes) ∧
      (x.fill s.clock < x.cap) ∧ ∃ foc : Nat × Nat × Nat, (s.focus = some foc)) ∧
    (∃ q : Fin 16, ∃ s : State, ∃ x : Queue, (s.LocalQueue q x) ∧ (s.strand.acquiring s.pathNo = false) ∧
      (s.CanRelease) ∧ ∃ a : SC, (s.CanRead (scSrcs a) s.path.lanes) ∧ (x.cap ≤ x.fill s.clock)) ∧
    (∃ q : Fin 16, ∃ s : State, ∃ x : Queue, (s.LocalQueue q x) ∧ (s.strand.acquiring s.pathNo = false) ∧
      (s.CanRelease) ∧ ∃ d : Dest, (s.CanWrite d false) ∧ (x.occ ≠ 0) ∧ (x.occ ≤ x.cap) ∧
      (outOfTurn x.acted s.clock s.slotNo = false) ∧ ∃ foc : Nat × Nat × Nat, (s.focus = some foc)) ∧
    (∃ q : Fin 16, ∃ s : State, ∃ x : Queue, (s.LocalQueue q x) ∧ (s.strand.acquiring s.pathNo = false) ∧ (s.CanRelease) ∧ (x.occ = 0)) ∧
    (∃ d : Dest, ∃ q : Fin 16, ∃ s : State, ∃ x : Queue, (s.queue q = some x) ∧ (x.kind ≠ 1) ∧ (s.CanWrite d false)) ∧
    (∃ q : Fin 16, ∃ s : State, (s.queue q = none) ∧ (s.path.windowOpen = false)) ∧
    (∃ q : Fin 16, ∃ s : State, ∃ x : Queue, ∃ b : Bridge, ∃ foc : Nat × Nat × Nat, (s.focus = some foc) ∧ (s.queue q = some x) ∧
      (x.kind = 1) ∧ (s.dev.liveBridge x.base = some b) ∧ (s.strand.acquiring s.pathNo = false) ∧
      (s.CanRelease) ∧ ∃ a : SC, (s.CanRead (scSrcs a) s.path.lanes) ∧ (b.sentBy s.partNo = true) ∧ (b.fill s.clock < b.cap) ∧
      (outOfTurn b.acted s.clock (s.bridgeRank false) = false)) ∧
    (∃ q : Fin 16, ∃ s : State, ∃ x : Queue, ∃ b : Bridge, ∃ foc : Nat × Nat × Nat, (s.focus = some foc) ∧ (s.queue q = some x) ∧
      (x.kind = 1) ∧ (s.dev.liveBridge x.base = some b) ∧ (s.strand.acquiring s.pathNo = false) ∧
      (s.CanRelease) ∧ ∃ d : Dest, ∃ v : Word, ∃ r : List Word, (s.CanWrite d false) ∧ (b.takenBy s.partNo = true) ∧ (b.ring = v :: r) ∧
      (outOfTurn b.acted s.clock (s.bridgeRank true) = false)) :=
  ⟨⟨3, tq, tqueue 0 256 16 1 15 0, ⟨(by decide +kernel), (by decide +kernel)⟩, (by decide +kernel),
    ⟨(by unfold State.NoFlights; decide +kernel), (by decide +kernel)⟩, .scl 2, (canRead (by decide +kernel)), (by decide +kernel),
    (0, 0, 0), (by decide +kernel)⟩,
   ⟨4, tq, tqueue 0 320 2 2 0 0, ⟨(by decide +kernel), (by decide +kernel)⟩, (by decide +kernel),
     ⟨(by unfold State.NoFlights; decide +kernel), (by decide +kernel)⟩, .scl 2, (canRead (by decide +kernel)), (by decide +kernel)⟩,
   ⟨3, tq, tqueue 0 256 16 1 15 0, ⟨(by decide +kernel), (by decide +kernel)⟩, (by decide +kernel),
     ⟨(by unfold State.NoFlights; decide +kernel), (by decide +kernel)⟩, .scl 9 1, (canWriteS (by decide +kernel)), (by decide +kernel),
     (by decide +kernel), (by decide +kernel), (0, 0, 0), (by decide +kernel)⟩,
   ⟨5, tq, tqueue 0 320 2 0 0 0, ⟨(by decide +kernel), (by decide +kernel)⟩, (by decide +kernel),
     ⟨(by unfold State.NoFlights; decide +kernel), (by decide +kernel)⟩, (by decide +kernel)⟩,
   ⟨.scl 9 1, 3, tq, tqueue 0 256 16 1 15 0, (by decide +kernel), (by decide +kernel), (canWriteS (by decide +kernel))⟩,
   ⟨9, tq, (by decide +kernel), (by decide +kernel)⟩,
   ⟨6, tq, tqueue 1 0 2 0 0 0, ⟨some (0, 1), some (1, 0), 2, [9], (0, 0), (0, 0)⟩, (0, 0, 0), (by decide +kernel), (by decide +kernel),
     (by decide +kernel), (by decide +kernel), (by decide +kernel), ⟨(by unfold State.NoFlights; decide +kernel),
     (by decide +kernel)⟩, .scl 2, (canRead (by decide +kernel)), (by decide +kernel), (by decide +kernel), (by decide +kernel)⟩,
   ⟨7, tq, tqueue 1 1 2 0 0 0, ⟨some (1, 0), some (0, 1), 2, [8], (0, 0), (0, 0)⟩, (0, 0, 0), (by decide +kernel), (by decide +kernel),
     (by decide +kernel), (by decide +kernel), (by decide +kernel), ⟨(by unfold State.NoFlights; decide +kernel),
     (by decide +kernel)⟩, .scl 9 1, 8, [], (canWriteS (by decide +kernel)), (by decide +kernel), (by decide +kernel), (by decide +kernel)⟩⟩

theorem witness_TaskSpawnCompletes : ∃ m : Fin 16, ∃ q : Fin 16, ∃ e : Fin 64, ∃ a : Name, ∃ s : State, ∃ x : Queue, ∃ foc : Nat × Nat × Nat, let lanes := s.spawnLanes m; let tail := (s.taskRing x).tail; (s.focus = some foc) ∧ (s.queue q = some x) ∧ (x.kind = 2) ∧ (s.queueErr x = false) ∧ (s.CanRead (spawnSrcs e a) (s.path.mask m)) ∧ (s.CanRelease) ∧ (∀ l ∈ lanes, natAt .n32 (s.val (spawnSrcs e a) 1 l) % 32 = 0 ∧ natAt .n32 (s.val (spawnSrcs e a) 1 l) + 32 ≤ s.cohort.asize) ∧ (lanes.length ≤ x.cap - (tail - (s.taskRing x).head)) ∧ (s.slotsPaused x tail lanes.length = false) :=
  ⟨0, 8, 1, .scl 6, at' tq { tpath with sc := tpath.sc ++ [(6, srec 6 32)] }, tqueue 2 0 8 0 0 0, (0, 0, 0), (by decide +kernel),
    (by decide +kernel), (by decide +kernel),
    (taskRing_tq _).2.2, (canRead (by decide +kernel)), ⟨(by unfold State.NoFlights; decide +kernel),
    (by decide +kernel)⟩, (by decide +kernel), (by rw [(taskRing_tq _).1, (taskRing_tq _).2.1]; decide +kernel),
    (by rw [(taskRing_tq _).2.1]; decide +kernel)⟩

theorem witness_FenceSealIfenceComplete :
    (∃ s : State, ∃ foc : Nat × Nat × Nat, (s.focus = some foc) ∧ (s.CanRelease)) ∧
    (∃ s : State, ∃ id : Nat, ∃ f : Flight, (s.strand.flights = [(id, f)]) ∧ (f.kind.isStore = true) ∧
      (f.paths.contains s.pathNo = true) ∧ (∃ a ∈ f.accs, a.over = false) ∧ (id < s.uid)) ∧
    (∃ s : State, (s.path.atEnd = true) ∧ (s.NoFlights)) ∧
    (∃ s : State, (s.path.atEnd = false) ∧ (s.path.windowOpen = false)) :=
  ⟨⟨tm, (0, 0, 0), (by decide +kernel), ⟨(by unfold State.NoFlights; decide +kernel), (by decide +kernel)⟩⟩,
   ⟨flying (tfl (.store [0, 1]) (tat (tacc 64)) true), 7, tfl (.store [0, 1]) (tat (tacc 64)) true, (by decide +kernel),
     (by decide +kernel), (by decide +kernel), (by decide +kernel), (by decide +kernel)⟩,
   ⟨{ tm with path := tend.path, core := { tm.core with ibuf := [(0, blk2)] } }, (by decide +kernel),
     (by unfold State.NoFlights; decide +kernel)⟩,
   ⟨tm, (by decide +kernel), (by decide +kernel)⟩⟩

theorem witness_WaitCompletes :
    (∃ k : Fin 16, ∃ x : SC, ∃ s : State, (s.CanRead (scSrcs x) s.path.lanes) ∧
      (∀ e ∈ s.strand.counters, e.1 = k.val → e.2.pod = false) ∧ (s.strand.outstanding k.val ≤ s.scVal x) ∧
      (∀ f ∈ s.strand.fails, f.ctr = k.val → f.strikes s.path = false)) ∧
    (∃ k : Fin 16, ∃ x : SC, ∃ s : State, (s.CanRead (scSrcs x) s.path.lanes) ∧
      (∀ e ∈ s.strand.counters, e.1 = k.val → e.2.pod = false) ∧ (s.scVal x < s.strand.outstanding k.val)) ∧
    (∃ k : Fin 16, ∃ x : SC, ∃ s : State, (s.CanRead (scSrcs x) s.path.lanes) ∧
      (∀ e ∈ s.strand.counters, e.1 = k.val → e.2.pod = false) ∧ ∃ f : Fail, (s.strand.outstanding k.val ≤ s.scVal x) ∧
      (s.path.windowOpen = false) ∧ (s.strand.fails = [f]) ∧ (f.ctr = k.val) ∧ (f.lanes = [])) ∧
    (∃ s : State, (s.strand.idle = true) ∧ (∀ e ∈ s.strand.counters, e.2.pod = false) ∧ (∀ f ∈ s.strand.fails, f.strikes s.path = false)) ∧
    (∃ s : State, (s.strand.idle = false)) :=
  ⟨⟨0, .const 1, flying (tfl (.store [0, 1]) (tat (tacc 64)) true), (canRead (by decide +kernel)), (by decide +kernel),
    (by decide +kernel), (by decide +kernel)⟩,
   ⟨0, .const 0, flying (tfl (.store [0, 1]) (tat (tacc 64)) true), (canRead (by decide +kernel)), (by decide +kernel),
     (by decide +kernel)⟩,
   ⟨0, .const 0, { tm with strand := { tstrand with fails := [⟨5, 0, 5, 0x0D, [], 77⟩] } }, (canRead (by decide +kernel)), (by decide +kernel), ⟨5, 0, 5, 0x0D, [], 77⟩, (by decide +kernel), (by decide +kernel), (by decide +kernel), (by decide +kernel), (by decide +kernel)⟩,
   ⟨tm, (by decide +kernel), (by decide +kernel), (by decide +kernel)⟩,
   ⟨flying (tfl (.store [0, 1]) (tat (tacc 64)) true), (by decide +kernel)⟩⟩

theorem witness_BarrierCompletes :
    (∃ s : State, ∃ foc : Nat × Nat × Nat, (s.focus = some foc) ∧ ∃ o : BarOp, (s.CanRead (nSrc o.n) s.path.lanes) ∧
      (s.CanArrive o.level o.tag.val)) ∧
    (∃ s : State, ∃ foc : Nat × Nat × Nat, (s.focus = some foc) ∧ ∃ o : BarOp, (s.CanRead (nSrc o.n) s.path.lanes) ∧
      (s.CanArrive o.level o.tag.val)) ∧
    (∃ s : State, ∃ foc : Nat × Nat × Nat, (s.focus = some foc) ∧ ∃ o : BarvOp, (s.CanRead (nSrc o.n) s.path.lanes) ∧
      (s.CanArrive o.level o.tag.val) ∧ ((s.afterReads (nSrc o.n)).CanWrite o.d false)) ∧
    (∃ s : State, ∃ foc : Nat × Nat × Nat, (s.focus = some foc) ∧ ∃ o : BarOp, (s.CanRead (nSrc o.n) s.path.lanes) ∧
      (s.counted o.level o.tag.val = false)) ∧
    (∃ s : State, ∃ foc : Nat × Nat × Nat, (s.focus = some foc) ∧ ∃ o : BarvOp, (s.CanRead (nSrc o.n) s.path.lanes) ∧
      (s.counted o.level o.tag.val = false) ∧ ((s.afterReads (nSrc o.n)).CanWrite o.d false)) ∧
    (∃ s : State, ∃ foc : Nat × Nat × Nat, (s.focus = some foc) ∧ ∃ l : Level, ∃ k : Fin 8, (s.counted l k.val = true) ∧
      (countedLevel l) ∧ ((s.tag l k.val).holds s.coreNo s.slotNo s.path.lanes = false)) :=
  ⟨⟨tb, (0, 0, 0), (by decide +kernel), ⟨.core, 2, none⟩, (canRead (by decide +kernel)), ⟨(by decide +kernel), (by decide +kernel),
    (by decide +kernel), (by decide +kernel), by unfold State.NoFlights; decide +kernel, (by decide +kernel)⟩⟩,
   ⟨tb, (0, 0, 0), (by decide +kernel), ⟨.pkg, 5, some (.scl 1)⟩, (canRead (by decide +kernel)), ⟨(by decide +kernel),
     (by decide +kernel), (by decide +kernel), (by decide +kernel), by unfold State.NoFlights; decide +kernel, (by decide +kernel)⟩⟩,
   ⟨tb, (0, 0, 0), (by decide +kernel), ⟨.quad, 2, 1, .scl 9 1, none⟩, (canRead (by decide +kernel)), ⟨(by decide +kernel),
     (by decide +kernel), (by decide +kernel), (by decide +kernel),
     by unfold State.NoFlights; decide +kernel, (by decide +kernel)⟩, (canWriteS (by decide +kernel))⟩,
   ⟨tb, (0, 0, 0), (by decide +kernel), ⟨.core, 3, none⟩, (canRead (by decide +kernel)), (by decide +kernel)⟩,
   ⟨tb, (0, 0, 0), (by decide +kernel), ⟨.quad, 3, 1, .scl 9 1, none⟩, (canRead (by decide +kernel)), (by decide +kernel),
     (canWriteS (by decide +kernel))⟩,
   ⟨tb, (0, 0, 0), (by decide +kernel), .core, 2, (by decide +kernel), (.inl rfl), (by decide +kernel)⟩⟩

theorem witness_BarrierTests :
    (∃ x : Tag, ∃ l : Level, ∃ e : Nat, (x.dirty = true) ∧ (x.expected = some e) ∧
      ((e ≠ 0 ∧ e = x.arrived ∧ countedLevel l) ∨ (e ≤ x.arrived ∧ ¬ countedLevel l))) ∧
    (∃ x : Tag, ∃ l : Level, ∃ e : Nat, (x.dirty = true) ∧ (x.expected = some e) ∧
      ((e ≠ 0 ∧ e = x.arrived ∧ countedLevel l) ∨ (e ≤ x.arrived ∧ ¬ countedLevel l))) ∧
    (∃ x : Tag, ∃ e : Nat, (x.dirty = true) ∧ (x.expected = some e) ∧ (x.arrived < e)) ∧
    (∃ b : ABar, (b.err = false) ∧ (b.xarr ≤ b.aarr) ∧ (b.xbytes ≤ b.abytes)) ∧
    (∃ c : Core, ∃ key : Nat, ∃ h : Cohort, (tget c.cohorts key = some h)) ∧
    (∃ b : ABar, (b.err = true ∨ b.aarr < b.xarr ∨ b.abytes < b.xbytes)) ∧
    (∃ b : ABar, (b.err = true)) ∧
    (∃ b : ABar, ∃ x : Nat, ∃ c : Nat, ∃ k : Nat, (2 ^ 32 ≤ b.xbytes + x ∨ 2 ^ 16 ≤ b.aarr + c ∨ 2 ^ 32 ≤ b.abytes + k)) :=
  ⟨⟨⟨some 2, false, [⟨0, 0, 0, 3, 2, false, true, 1⟩], [], 4, true⟩, .core, 2, (by decide +kernel), (by decide +kernel),
    (.inl ⟨(by decide +kernel), (by decide +kernel), .inl rfl⟩)⟩,
   ⟨⟨some 1, false, [⟨0, 0, 0, 3, 2, false, true, 1⟩], [], 4, true⟩, .die, 1, (by decide +kernel), (by decide +kernel),
     (.inr ⟨(by decide +kernel), by unfold countedLevel; simp⟩)⟩,
   ⟨⟨some 3, false, [⟨0, 0, 0, 3, 2, false, true, 1⟩], [], 4, true⟩, 3, (by decide +kernel), (by decide +kernel), (by decide +kernel)⟩,
   ⟨⟨16, 16, 1, 1, false, false, 3⟩, (by decide +kernel), (by decide +kernel), (by decide +kernel)⟩,
   ⟨{ tcore with cohorts := [(0, { tcohort with abEvents := [(64, .post 5 none), (80, .fail), (64, .arrive 2), (64, .init 2 5)] })] }, 0, { tcohort with abEvents := [(64, .post 5 none), (80, .fail), (64, .arrive 2), (64, .init 2 5)] }, (by decide +kernel)⟩,
   ⟨⟨16, 15, 1, 1, false, false, 3⟩, (by decide +kernel)⟩,
   ⟨⟨16, 15, 1, 1, false, true, 3⟩, (by decide +kernel)⟩,
   ⟨⟨16, 15, 1, 65535, false, false, 3⟩, 1, 1, 1, (by decide +kernel)⟩⟩

theorem witness_BarrierDelayReleases :
    (∃ s : State, ∃ u : State, ∃ p : PRef, ∃ l : Level, ∃ t : Nat, ∃ ph : Nat, ∃ d : Option Dest, ∃ r : Release, (s.load p.core p.slot p.path = some u) ∧ (u.path.status = .barrier l t ph d) ∧ (l = .pod → u.podKey.isSome) ∧ (((u.tag l t).releases.find? fun r => r.core == p.core && r.slot == p.slot && r.path == p.path && r.phase == ph) = some r) ∧ (r.from_ ≤ u.clock) ∧ (u.path.window = none) ∧ (∀ q ∈ u.paths, q.2.frag = 0) ∧ ((u.paths.filter fun q => q.1 == p.path).length = 1) ∧ (u.path.atEnd = false)) ∧
    (∃ s : State, ∃ u : State, ∃ p : PRef, (s.load p.core p.slot p.path = some u) ∧ ∃ till : Nat, (u.path.status = .sleep till) ∧
      (till ≤ u.clock) ∧ (u.path.window = none) ∧ (u.path.atEnd = false)) ∧
    (∃ s : State, ∃ u : State, ∃ p : PRef, (s.load p.core p.slot p.path = some u) ∧ (u.path.hold ≤ u.clock)) :=
  ⟨⟨{ waiting (.barrier .core 2 4 (some (.scl 9 1))) with core := { tcore with cohorts := [(0, { tcohort with tags := [(2, { ttag with releases := [⟨0, 0, 0, 100, 6, true, 4⟩] })] })] } }, loaded ({ waiting (.barrier .core 2 4 (some (.scl 9 1))) with core := { tcore with cohorts := [(0, { tcohort with tags := [(2, { ttag with releases := [⟨0, 0, 0, 100, 6, true, 4⟩] })] })] } }), ⟨0, 0, 0⟩, .core, 2, 4, some (.scl 9 1), ⟨0, 0, 0, 100, 6, true, 4⟩, (by decide +kernel), (by decide +kernel), (by decide +kernel), (by decide +kernel), (by decide +kernel), (by decide +kernel), (by decide +kernel), (by decide +kernel), (by decide +kernel)⟩,
   ⟨waiting (.sleep 100), loaded (waiting (.sleep 100)), ⟨0, 0, 0⟩, (by decide +kernel), 100, (by decide +kernel), (by decide +kernel),
     (by decide +kernel), (by decide +kernel)⟩,
   ⟨at' tm { tpath with hold := 100 }, loaded (at' tm { tpath with hold := 100 }), ⟨0, 0, 0⟩, (by decide +kernel), (by decide +kernel)⟩⟩

theorem witness_ArrivalBarrierCompletes :
    (∃ i : Instr, ∃ f : AbarForm, ∃ s : State, ∃ foc : Nat × Nat × Nat, (AbarIssue i f) ∧ (s.focus = some foc) ∧
      (s.CanRead f.srcs s.path.lanes) ∧ let a := s.abarAddr f.srcs; (a % 16 = 0) ∧ (a + 16 ≤ s.cohort.asize) ∧
      (f.rel = true → s.CanRelease)) ∧
    (∃ i : Instr, ∃ f : AbarForm, ∃ s : State, ∃ foc : Nat × Nat × Nat, (AbarIssue i f) ∧ (s.focus = some foc) ∧
      (s.CanRead f.srcs s.path.lanes) ∧ let a := s.abarAddr f.srcs; (a % 16 ≠ 0) ∧ (s.path.windowOpen = false)) ∧
    (∃ i : Instr, ∃ f : AbarForm, ∃ s : State, ∃ foc : Nat × Nat × Nat, (AbarIssue i f) ∧ (s.focus = some foc) ∧
      (s.CanRead f.srcs s.path.lanes) ∧ let a := s.abarAddr f.srcs; (a % 16 = 0) ∧ (s.cohort.asize < a + 16) ∧
      (s.path.windowOpen = false)) :=
  ⟨⟨_, _, tm, (0, 0, 0), (.arriveMany (.scl 1) (.scl 2)), (by decide +kernel), (canRead (by decide +kernel)), (by decide +kernel),
    (by decide +kernel), (fun _ => ⟨(by unfold State.NoFlights; decide +kernel), (by decide +kernel)⟩)⟩,
   ⟨_, _, tm, (0, 0, 0), (.abexpect (.scl 2) (.scl 1)), (by decide +kernel), (canRead (by decide +kernel)), (by decide +kernel),
     (by decide +kernel)⟩,
   ⟨_, _, tm, (0, 0, 0), (.arriveOne (.scl 4)), (by decide +kernel), (canRead (by decide +kernel)), (by decide +kernel),
     (by decide +kernel), (by decide +kernel)⟩⟩

theorem witness_ArrivalWaitCompletes :
    (∃ a : SC, ∃ p : SC, ∃ s : State, let srcs := [(scSrc a, Ty.n32), (scSrc p, Ty.n32)]; let b := ABar.of s.cohort.a (s.abarAddr srcs); let par := (s.abarVals srcs).getD 0 0 % 2 = 1; (s.CanRead srcs s.path.lanes) ∧ (s.abarAddr srcs % 16 = 0) ∧ (s.abarAddr srcs + 16 ≤ s.cohort.asize) ∧ (s.strand.acquiring s.pathNo = false) ∧ ∃ foc : (Nat × Nat × Nat), (s.focus = some foc) ∧ (s.NoFlights) ∧ (b.err = false) ∧ (b.phase ≠ decide par)) ∧
    (∃ a : SC, ∃ p : SC, ∃ s : State, let srcs := [(scSrc a, Ty.n32), (scSrc p, Ty.n32)]; let b := ABar.of s.cohort.a (s.abarAddr srcs); let par := (s.abarVals srcs).getD 0 0 % 2 = 1; (s.CanRead srcs s.path.lanes) ∧ (s.abarAddr srcs % 16 = 0) ∧ (s.abarAddr srcs + 16 ≤ s.cohort.asize) ∧ (s.strand.acquiring s.pathNo = false) ∧ (b.err = false) ∧ (b.phase = decide par)) ∧
    (∃ a : SC, ∃ p : SC, ∃ s : State, let srcs := [(scSrc a, Ty.n32), (scSrc p, Ty.n32)]; let b := ABar.of s.cohort.a (s.abarAddr srcs); let par := (s.abarVals srcs).getD 0 0 % 2 = 1; (s.CanRead srcs s.path.lanes) ∧ (s.abarAddr srcs % 16 = 0) ∧ (s.abarAddr srcs + 16 ≤ s.cohort.asize) ∧ (s.strand.acquiring s.pathNo = false) ∧ (b.err = true) ∧ (s.path.windowOpen = false)) ∧
    (∃ p : Path, ∃ addr : Nat, ∃ gen : Nat, ∃ par : Bool, ∃ names : (List Name), ∃ due : (Option (Nat × Nat)), ∃ b : ABar, (p.status = .abwait addr par gen names due) ∧ (b.gen ≠ gen)) ∧
    (∃ p : Path, ∃ addr : Nat, ∃ gen : Nat, ∃ par : Bool, ∃ names : (List Name), ∃ due : (Option (Nat × Nat)), ∃ b : ABar, (p.status = .abwait addr par gen names due) ∧ (b.gen = gen) ∧ (b.err = true)) ∧
    (∃ p : Path, ∃ addr : Nat, ∃ gen : Nat, ∃ par : Bool, ∃ names : (List Name), ∃ due : (Option (Nat × Nat)), ∃ b : ABar, (p.status = .abwait addr par gen names due) ∧ (b.gen = gen) ∧ (b.err = false) ∧ (b.phase ≠ par) ∧ (due = none)) ∧
    (∃ p : Path, ∃ addr : Nat, ∃ gen : Nat, ∃ par : Bool, ∃ names : (List Name), ∃ due : (Option (Nat × Nat)), ∃ b : ABar, (p.status = .abwait addr par gen names due) ∧ (b.gen = gen) ∧ (b.err = false) ∧ (b.phase = par ∨ due ≠ none)) ∧
    (∃ s : State, ∃ u : State, ∃ r : PRef, ∃ addr : Nat, ∃ gen : Nat, ∃ from_ : Nat, ∃ cause : Nat, ∃ par : Bool, ∃ names : (List Name), (s.load r.core r.slot r.path = some u) ∧ (u.path.status = .abwait addr par gen names (some (from_, cause))) ∧ (from_ ≤ u.clock) ∧ (cause = 0) ∧ (u.NoFlights) ∧ (u.path.window = none) ∧ (u.path.atEnd = false)) ∧
    (∃ s : State, ∃ u : State, ∃ r : PRef, ∃ addr : Nat, ∃ gen : Nat, ∃ from_ : Nat, ∃ cause : Nat, ∃ par : Bool, ∃ names : (List Name), (s.load r.core r.slot r.path = some u) ∧ (u.path.status = .abwait addr par gen names (some (from_, cause))) ∧ (from_ ≤ u.clock) ∧ (cause ≠ 0) ∧ (u.path.windowOpen = false) ∧ (u.path.redo = none)) :=
  ⟨⟨.scl 1, .const 1, tm, (canRead (by decide +kernel)), (by decide +kernel), (by decide +kernel), (by decide +kernel),
    (0, 0, 0), (by decide +kernel), (by unfold State.NoFlights; decide +kernel), (by decide +kernel), (by decide +kernel)⟩,
   ⟨.scl 1, .const 0, tm, (canRead (by decide +kernel)), (by decide +kernel), (by decide +kernel), (by decide +kernel),
     (by decide +kernel), (by decide +kernel)⟩,
   ⟨.scl 6, .const 0, at' tabErr { tpath with sc := tpath.sc ++ [(6, srec 6 128)] }, (canRead (by decide +kernel)), (by decide +kernel),
     (by decide +kernel), (by decide +kernel), (by decide +kernel), (by decide +kernel)⟩,
   ⟨{ tpath with status := .abwait 128 false 3 [.scl 1] none }, 128, 3, false, [.scl 1], none, ⟨0, 0, 1, 1, false, false, 4⟩, (by decide +kernel), (by decide +kernel)⟩,
   ⟨{ tpath with status := .abwait 128 false 3 [.scl 1] none }, 128, 3, false, [.scl 1], none, ⟨0, 0, 1, 1, false, true, 3⟩, (by decide +kernel), (by decide +kernel), (by decide +kernel)⟩,
   ⟨{ tpath with status := .abwait 128 false 3 [.scl 1] none }, 128, 3, false, [.scl 1], none, ⟨0, 0, 1, 1, true, false, 3⟩, (by decide +kernel), (by decide +kernel), (by decide +kernel), (by decide +kernel), (by decide +kernel)⟩,
   ⟨{ tpath with status := .abwait 128 false 3 [.scl 1] (some (94, 0)) }, 128, 3, false, [.scl 1], (some (94, 0)), ⟨0, 0, 1, 1, true, false, 3⟩, (by decide +kernel), (by decide +kernel), (by decide +kernel), (.inr (by decide +kernel))⟩,
   ⟨waiting (.abwait 128 false 3 [.scl 1] (some (100, 0))), loaded (waiting (.abwait 128 false 3 [.scl 1] (some (100, 0)))), ⟨0, 0, 0⟩, 128, 3, 100, 0, false, [.scl 1], (by decide +kernel), (by decide +kernel), (by decide +kernel), (by decide +kernel), (by unfold State.NoFlights; decide +kernel), (by decide +kernel), (by decide +kernel)⟩,
   ⟨waiting (.abwait 128 false 3 [.scl 1] (some (100, 14))), loaded (waiting (.abwait 128 false 3 [.scl 1] (some (100, 14)))), ⟨0, 0, 0⟩, 128, 3, 100, 14, false, [.scl 1], (by decide +kernel), (by decide +kernel), (by decide +kernel), (by decide +kernel), (by decide +kernel), (by decide +kernel)⟩⟩

theorem witness_TrapsEnterReturn :
    (∃ s : State, ∃ u : State, ∃ c : Nat, ∃ sl : Nat, ∃ id : Nat, ∃ st : Strand, ∃ tr : Trap, (s.flush.strandAt c sl = some st) ∧
      (nextTrap st.paths = some id) ∧ (s.flush.load c sl id = some u) ∧ (u.path.trap = some tr) ∧ (u.strand.trapFrom ≤ u.clock) ∧
      (∀ f ∈ u.strand.flights, f.2.kind.isStore = false) ∧ ∃ h : Word, (u.path.handler = none) ∧ (u.launch.kernel.trap = some h)) ∧
    (∃ s : State, ∃ tr : Trap, (s.path.handler = some tr) ∧ (s.path.windowOpen = false) ∧ (tr.blk.covers tr.fpc = true) ∧
      (tr.cause ≠ 0x14) ∧ (tr.cause ≠ 0x15)) ∧
    (∃ s : State, ∃ tr : Trap, ∃ w : Word, (s.path.handler = some tr) ∧ (s.path.windowOpen = false) ∧ (s.path.window = none) ∧
      (tr.blk.wordAt tr.fpc = some w) ∧ (tr.cause = 0x14 ∨ tr.cause = 0x15) ∧ (tr.fpc + BitVec.ofNat 64 (8 * wordLen w) ≠ tr.blk.stop)) ∧
    (∃ s : State, ∃ tr : Trap, ∃ w : Word, (s.path.handler = some tr) ∧ (s.path.windowOpen = false) ∧ (s.path.window = none) ∧
      (tr.blk.wordAt tr.fpc = some w) ∧ (tr.cause = 0x14 ∨ tr.cause = 0x15) ∧ (tr.fpc + BitVec.ofNat 64 (8 * wordLen w) = tr.blk.stop)) :=
  ⟨⟨at' { tm with dev := { tdev with launches := [(1, { Launch.empty with kernel := { Kernel.empty with trap := some 128 } })] } } tpathTrapped, loaded (at' { tm with dev := { tdev with launches := [(1, { Launch.empty with kernel := { Kernel.empty with trap := some 128 } })] } } tpathTrapped), 0, 0, 0, strandOf (at' { tm with dev := { tdev with launches := [(1, { Launch.empty with kernel := { Kernel.empty with trap := some 128 } })] } } tpathTrapped), ttrap, (by decide +kernel), (by decide +kernel), (by decide +kernel), (by decide +kernel), (by decide +kernel), (by decide +kernel), 128, (by decide +kernel), (by decide +kernel)⟩,
   ⟨at' tm { tpath with handler := some { ttrap with fdone := 3 } }, { ttrap with fdone := 3 }, (by decide +kernel), (by decide +kernel),
     (by decide +kernel), (by decide +kernel), (by decide +kernel)⟩,
   ⟨at' tm { tpath with handler := some { ttrap with cause := 0x15 } }, { ttrap with cause := 0x15 }, 0, (by decide +kernel),
     (by decide +kernel), (by decide +kernel), (by decide +kernel), (by decide +kernel), (by decide +kernel)⟩,
   ⟨at' tm { tpath with handler := some { ttrap with cause := 0x15, fpc := 16 } }, { ttrap with cause := 0x15, fpc := 16 }, 0, (by decide +kernel), (by decide +kernel), (by decide +kernel), (by decide +kernel), (by decide +kernel), (by decide +kernel)⟩⟩

theorem witness_CopyIssues : ∃ i : Instr, ∃ o : CopyOp, ∃ kind : Nat, ∃ s : State, ∃ foc : Nat × Nat × Nat, ∃ tn : Tensor, (CopyIssue i o kind) ∧ (s.focus = some foc) ∧ (s.CanTake (copyNames o) s.path.lanes) ∧ (({ s with path := s.path.takeReads (copyNames o) } : State).CanWrite o.d true) ∧ (s.SliceRoom o) ∧ (s.wholeMask o.mask = true) ∧ (s.tensorOf o.handle.toNat = some tn) ∧ (s.CopyFits kind (s.copyDesc kind o) tn) ∧ (kind = 1 → o.slice = 0 → ∀ p ∈ (s.copyDesc kind o).receivers s.coreNo, 4 * quadOf s.coreNo + p ≠ s.coreNo → (s.cohortAt (4 * quadOf s.coreNo + p) s.strand.cohort).isSome = true) :=
  ⟨_, ⟨0, 0, 1, 0, 0, 3, .scl 9 1, some (.scl 4), none, 0, 0, 0, 0, none, none, none⟩, _, te, (0, 0, 0), ttensor, (.cpy _), (by decide +kernel), ⟨by decide +kernel, by decide +kernel, by decide +kernel⟩, (canWriteS (by decide +kernel)), ⟨(by decide +kernel), (show (0 : Nat) < 16 from by decide)⟩, (by decide +kernel), (by decide +kernel), ⟨(by decide +kernel), (by decide +kernel), (by decide +kernel), fun _ => (by decide +kernel), fun _ h => (by cases h), fun _ h => (by cases h)⟩, (by decide +kernel)⟩

theorem witness_MatrixCommandIssues :
    (∃ o : MmaOp, ∃ s : State, (s.CanTake (mmaNames o) (s.path.lanes &&& allLanes 128)) ∧ (s.engineRoom o.k = true) ∧
      (s.entryRoom = true) ∧ (s.wholeMask o.mask = true) ∧ (128 ≤ s.strand.width) ∧ (s.mmaOk o.acc.toNat (o.aty == .f64) = true) ∧
      (s.OperandsFit o)) ∧
    (∃ i : Instr, ∃ o : AccOp, ∃ kind : MKind, ∃ s : State, (AccIssue i o kind) ∧ (s.engineRoom o.k = true) ∧ (s.entryRoom = true) ∧
      (s.wholeMask o.mask = true) ∧ (s.accOk o.acc.toNat = true)) :=
  ⟨⟨tmma none, te, ⟨by decide +kernel, by decide +kernel, by decide +kernel⟩, (by decide +kernel), (by decide +kernel),
    (by decide +kernel), (by decide +kernel), (by decide +kernel), ⟨⟨(by decide +kernel), (by decide +kernel)⟩, (by decide +kernel)⟩⟩,
   ⟨_, ⟨0, 0, 1, 4⟩, _, te, (.mcl _), (by decide +kernel), (by decide +kernel), (by decide +kernel), (by decide +kernel)⟩⟩

theorem witness_EpilogueCollectiveIssue :
    (∃ o : EpicfgOp, ∃ s : State, let ns := fieldNames ([o.scale, o.bias, o.dest] ++ o.side.toList); let c : EpiCfg := ⟨o.oty, o.act, s.field o.scale, s.field o.bias, s.field o.dest, (o.side.map s.field).getD 0⟩; (s.CanTake ns s.path.lanes) ∧ (s.strand.acquiring s.pathNo = false) ∧ (s.wholeMask o.mask = true) ∧ (c.scale % 4 = 0) ∧ (c.scale + 512 ≤ s.cohort.asize) ∧ (c.bias % 4 = 0) ∧ (c.bias + 512 ≤ s.cohort.asize) ∧ (c.dest % 1024 = 0) ∧ (c.dest + 128 * outRow o.oty ≤ s.cohort.asize) ∧ (o.side.isSome = true → c.side % 4 = 0 ∧ c.side + (if o.oty = .e2m1 then 1024 else 512) ≤ s.cohort.asize)) ∧
    (∃ mask : Fin 16, ∃ k : Fin 16, ∃ s : State, ∃ c : EpiCfg, (s.engineRoom k = true) ∧ (s.core.epis.length < 4) ∧
      (s.wholeMask mask = true) ∧ (s.cohort.epicfg = some c) ∧ (s.cohort.slots ≠ 0)) ∧
    (∃ o : CollOp, ∃ s : State, ∃ g : Group, let ns := [Name.scl o.dst, .scl o.src] ++ ([o.count, o.group].filterMap scName); (s.CanTake ns s.path.lanes) ∧ (s.part.group (s.scNat o.group) = some g) ∧ (s.engineRoom o.k = true) ∧ (g.held < 8) ∧ (s.wholeMask o.mask = true) ∧ (g.die = dieOf s.coreNo) ∧ ((s.peek o.dst).toNat % o.ty.size = 0) ∧ ((s.peek o.src).toNat % o.ty.size = 0)) ∧
    (∃ o : CollOp, ∃ s : State, ∃ g : Group, let ns := [Name.scl o.dst, .scl o.src] ++ ([o.count, o.group].filterMap scName); (s.CanTake ns s.path.lanes) ∧ (s.part.group (s.scNat o.group) = some g) ∧ (s.engineRoom o.k = true) ∧ (g.held < 8) ∧ (s.wholeMask o.mask = true) ∧ (g.die = dieOf s.coreNo) ∧ ∃ a : Word, (a = (if (s.peek o.dst).toNat % o.ty.size = 0 then s.peek o.src else s.peek o.dst)) ∧ (a.toNat % o.ty.size ≠ 0) ∧ (s.path.windowOpen = false)) ∧
    (∃ mask : Fin 16, ∃ k : Fin 16, ∃ x : SC, ∃ s : State, ∃ g : Group, (s.CanTake (scName x).toList s.path.lanes) ∧
      (s.part.group (s.scNat x) = some g) ∧ (s.engineRoom k = true) ∧ (s.wholeMask mask = true) ∧ (g.die = dieOf s.coreNo)) :=
  ⟨⟨⟨0, 0, .bf16, .relu, .const 0, .const 1, .const 2, none⟩, te, ⟨by decide +kernel, by decide +kernel, by decide +kernel⟩, (by decide +kernel), (by decide +kernel), (by decide +kernel), (by decide +kernel), (by decide +kernel), (by decide +kernel), (by decide +kernel), (by decide +kernel), (by decide +kernel)⟩,
   ⟨0, 2, te, tcfg, (by decide +kernel), (by decide +kernel), (by decide +kernel), (by decide +kernel), (by decide +kernel)⟩,
   ⟨⟨0, 0, .allred .add, .f32, 2, 1, 4, .const 16, .const 1⟩, te, tgroup, ⟨by decide +kernel, by decide +kernel, by decide +kernel⟩, (by decide +kernel), (by decide +kernel), (by decide +kernel), (by decide +kernel), (by decide +kernel), (by decide +kernel), (by decide +kernel)⟩,
   ⟨⟨0, 0, .allred .add, .f32, 2, 2, 4, .const 16, .const 1⟩, te, tgroup, ⟨by decide +kernel, by decide +kernel, by decide +kernel⟩, (by decide +kernel), (by decide +kernel), (by decide +kernel), (by decide +kernel), (by decide +kernel), 2, (by decide +kernel), (by decide +kernel), (by decide +kernel)⟩,
   ⟨0, 2, .const 1, te, tgroup, ⟨by decide +kernel, by decide +kernel, by decide +kernel⟩, (by decide +kernel), (by decide +kernel),
     (by decide +kernel), (by decide +kernel)⟩⟩

theorem witness_CopiesCollectivesProceed :
    (∃ s : State, ∃ c : Nat, ∃ i : Nat, (i < 2) ∧ ∃ x : Copy, (((s.flush.dev.coreAt c).running i) = none) ∧
      (((s.flush.dev.coreAt c).chan i).queue.find? (fun y => y.slices.length == y.n) = some x) ∧
      (s.flush.dev.heldQuad (quadOf c) = false) ∧ (x.tile = none) ∧ (∀ z ∈ x.slices, z.desc = x.desc)) ∧
    (∃ s : State, ∃ c : Nat, ∃ i : Nat, (i < 2) ∧ ∃ x : Copy, ∃ bs : (List Byte), ∃ side : (Option (List Byte × List Byte)), ∃ e : Ending, ((s.flush.dev.coreAt c).running i = some x) ∧ (x.detail = 0) ∧ (x.ahead = []) ∧ (x.row < x.desc.rows) ∧ (x.desc.kind ≠ 2) ∧ (x.failedAt = 0) ∧ (s.flush.tileRow c x e = .ok bs) ∧ (x.desc.side = none → side = none) ∧ (x.desc.side ≠ none → ∃ y, side = some y ∧ s.flush.sideRow c x e = .ok y)) ∧
    (∃ s : State, ∃ c : Nat, ∃ i : Nat, (i < 2) ∧ ∃ x : Copy, ∃ h : Cohort, ∃ ts : List Trans, ∃ e : Ending, ((s.flush.dev.coreAt c).running i = some x) ∧ (x.detail = 0) ∧ (x.ahead = []) ∧ (x.row < x.desc.rows) ∧ (x.desc.kind = 2) ∧ (s.flush.cohortAt c x.cohort = some h) ∧ ((s.flush.storeRow x h).mapM (fun b => s.flush.putPlace c x e b.1) = .ok ts) ∧ (∀ q ∈ ts, spaceOf q.pa ≠ 3 ∧ spaceOf q.pa ≠ 4)) ∧
    (∃ s : State, ∃ c : Nat, ∃ i : Nat, (i < 2) ∧ ∃ x : Copy, ((s.flush.dev.coreAt c).running i = some x) ∧
      (x.detail ≠ 0 ∨ x.desc.rows ≤ x.row)) ∧
    (∃ s : State, ∃ p : Nat, ∃ g : Nat, ∃ y : Group, ∃ x : Coll, ∃ r : List Coll, ((s.flush.dev.partAt p).group g = some y) ∧
      (y.queue = x :: r) ∧ (x.wait = true)) ∧
    (∃ s : State, ∃ p : Nat, ∃ g : Nat, ∃ y : Group, ∃ x : Coll, ∃ r : (List Coll), ∃ src : (List Byte), ((s.flush.dev.partAt p).group g = some y) ∧ (y.queue = x :: r) ∧ ∃ own : (List Byte), ∃ qs : (List Trans), (x.wait = false) ∧ (x.rank < x.m) ∧ (∀ k < x.m, x.isLocal k = true ↔ k = x.rank) ∧ (s.flush.collSource p x = .ok own) ∧ (s.flush.collPlaces p x true = .ok qs) ∧ (src.length = x.m * x.srcLen x.m) ∧ (∀ q ∈ qs, spaceOf q.pa ≠ 3 ∧ spaceOf q.pa ≠ 4)) :=
  ⟨⟨tc 0 0 false, 0, 0, (by decide +kernel), tcopy 0 0 false, (by decide +kernel), (by decide +kernel), (by decide +kernel),
    (by decide +kernel), (by decide +kernel)⟩,
   ⟨tc 0 0 true, 0, 0, (by decide +kernel),
     tcopy 0 0 true, okOr ((tc 0 0 true).flush.tileRow 0 (tcopy 0 0 true) .done) [], none, .done, (by decide +kernel),
     (by decide +kernel), (by decide +kernel), (by decide +kernel), (by decide +kernel), (by decide +kernel),
     (okOr_eq (by decide +kernel)), (fun _ => rfl), (fun h => absurd rfl h)⟩,
   ⟨tc 2 0 true, 0, 0, (by decide +kernel),
     tcopy 2 0 true, tecohort, okOr (((tc 2 0 true).flush.storeRow (tcopy 2 0 true) tecohort).mapM fun b => (tc 2 0 true).flush.putPlace 0 (tcopy 2 0 true) .done b.1) [], .done, (by decide +kernel), (by decide +kernel), (by decide +kernel), (by decide +kernel), (by decide +kernel), (by decide +kernel), (okOr_eq (by decide +kernel)), (by decide +kernel)⟩,
   ⟨tc 0 2 true, 0, 0, (by decide +kernel), tcopy 0 2 true, (by decide +kernel), (by decide +kernel)⟩,
   ⟨tg true, 0, 1, { tgroup with queue := [tcoll true] }, tcoll true, [], (by decide +kernel), (by decide +kernel), (by decide +kernel)⟩,
   ⟨tgP, 0, 1, tgroupP, tcollP, [], List.replicate 32 7, rfl, rfl, okOr (tgP.flush.collSource 0 tcollP) [], okOr (tgP.flush.collPlaces 0 tcollP true) [], (by decide +kernel), (by decide +kernel), local_tcollP, (okOr_eq (by decide +kernel)), (okOr_eq (by decide +kernel)), (by decide +kernel), (by decide +kernel)⟩⟩

theorem witness_MatrixEngineProceeds :
    (∃ s : State, ∃ q : Nat, ∃ id : Nat, ∃ e : Entry, ∃ h : Cohort, ∃ o : MmaOp, ∃ a : Nat, ∃ b : Nat, ∃ idx : Option Nat, ∃ sa : List Word, ∃ sb : List Word, ∃ xa : List Word, ∃ xb : List Word, (e.kind = .mma o a b idx sa sb xa xb) ∧ (s.flush.cohortAt e.core e.cohort = some h) ∧ let d := s.flush.dev; let qd := d.quadAt q; ∃ i : Nat, (idx = some i) ∧ (d.heldQuad q = false) ∧ (qd.latch = none) ∧ (choose (qd.waiting.filter fun e => e.2.gathered) = some (id, e))) ∧
    (∃ s : State, ∃ q : Nat, ∃ id : Nat, ∃ e : Entry, ∃ h : Cohort, ∃ o : MmaOp, ∃ a : Nat, ∃ b : Nat, ∃ idx : Option Nat, ∃ sa : List Word, ∃ sb : List Word, ∃ xa : List Word, ∃ xb : List Word, (e.kind = .mma o a b idx sa sb xa xb) ∧ (s.flush.cohortAt e.core e.cohort = some h) ∧ let d := s.flush.dev; let qd := d.quadAt q; ∃ t0 : Nat, ∃ ix : (List Nat), (qd.latch = some (id, t0, ix, [])) ∧ (qd.entries.find? (·.1 == id) = some (id, e))) ∧
    (∃ s : State, ∃ q : Nat, ∃ id : Nat, ∃ e : Entry, ∃ h : Cohort, ∃ o : MmaOp, ∃ a : Nat, ∃ b : Nat, ∃ idx : Option Nat, ∃ sa : List Word, ∃ sb : List Word, ∃ xa : List Word, ∃ xb : List Word, (e.kind = .mma o a b idx sa sb xa xb) ∧ (s.flush.cohortAt e.core e.cohort = some h) ∧ let d := s.flush.dev; let qd := d.quadAt q; ∃ ra : (List (List Byte)), (d.heldQuad q = false) ∧ (qd.pass = none) ∧ (idx = none → ra = rowsOfA tecohort (tmma none) 0) ∧ (idx ≠ none → ∃ t0 ix, qd.latch = some (id, t0, ix, ra)) ∧ (choose (qd.waiting.filter fun e => !e.2.gathered || match qd.latch with | some (id, _, _, rows) => id == e.1 && 128 ≤ rows.length | none => false) = some (id, e))) ∧
    (∃ s : State, ∃ q : Nat, ∃ id : Nat, ∃ e : Entry, ∃ h : Cohort, ∃ o : MmaOp, ∃ a : Nat, ∃ b : Nat, ∃ idx : Option Nat, ∃ sa : List Word, ∃ sb : List Word, ∃ xa : List Word, ∃ xb : List Word, (e.kind = .mma o a b idx sa sb xa xb) ∧ (s.flush.cohortAt e.core e.cohort = some h) ∧ let d := s.flush.dev; let qd := d.quadAt q; ∃ t0 : Nat, ∃ ra : List (List Byte), ∃ rb : List (List Byte), (qd.pass = some (id, t0, ra, rb)) ∧ (t0 + 32 ≤ s.clock) ∧ (qd.entries.find? (·.1 == id) = some (id, e))) ∧
    (∃ s : State, ∃ c : Nat, let d := s.flush.dev; ∃ id : Nat, ∃ e : Entry, ∃ h : Cohort, ∃ x : Tile, ∃ t0 : Nat, let q := d.quadAt (quadOf c); (q.entries.find? (fun e => e.2.core = c && !e.2.isMma && match e.2.started with | some t => t + (if (q.tileOf e.2).wide then 256 else 128) ≤ s.clock | none => false) = some (id, e)) ∧ (e.started = some t0) ∧ (s.flush.cohortAt c e.cohort = some h) ∧ (tget h.tiles e.tile = some x)) ∧
    (∃ s : State, ∃ c : Nat, let d := s.flush.dev; ∃ x : EpiCmd, ∃ r : List EpiCmd, ∃ h : Cohort, ∃ y : Tile, ((d.coreAt c).epis = x :: r) ∧ (s.flush.cohortAt c x.cohort = some h) ∧ (d.heldQuad (quadOf c) = false) ∧ (x.started = none) ∧ (tget h.tiles x.tile = some y) ∧ (y.closed = true)) ∧
    (∃ s : State, ∃ c : Nat, let d := s.flush.dev; ∃ x : EpiCmd, ∃ r : List EpiCmd, ∃ h : Cohort, ∃ y : Tile, ∃ t0 : Nat, ((d.coreAt c).epis = x :: r) ∧ (x.started = some t0) ∧ (s.flush.cohortAt c x.cohort = some h) ∧ (tget h.tiles x.tile = some y) ∧ (t0 + (if y.wide then 512 else 256) ≤ s.clock)) :=
  ⟨⟨tmx (tquad (tentry (tmk (some (.const 0))) none)), 0, 7, tentry (tmk (some (.const 0))) none, tecohort, tmma (some (.const 0)), 0, 0, some 0, [], [], [], [], (by decide +kernel), (by decide +kernel), 0, (by decide +kernel), (by decide +kernel), (by decide +kernel), (by decide +kernel)⟩,
   ⟨tmx { tquad (tentry (tmk (some (.const 0))) none) with latch := some (7, 60, [3, 1], []) }, 0, 7, tentry (tmk (some (.const 0))) none, tecohort, tmma (some (.const 0)), 0, 0, some 0, [], [], [], [], (by decide +kernel), (by decide +kernel), 60, [3, 1], (by decide +kernel), (by decide +kernel)⟩,
   ⟨tmx (tquad (tentry (tmk none) none)), 0, 7, tentry (tmk none) none, tecohort, tmma none, 0, 0, none, [], [], [], [], (by decide +kernel), (by decide +kernel), rowsOfA tecohort (tmma none) 0, (by decide +kernel), (by decide +kernel), (by decide +kernel), (fun h => absurd rfl h), (by decide +kernel)⟩,
   ⟨tmx { tquad (tentry (tmk none) (some 60)) with pass := some (7, 60, [], []) }, 0, 7, tentry (tmk none) (some 60), tecohort, tmma none, 0, 0, none, [], [], [], [], (by decide +kernel), (by decide +kernel), 60, [], [], (by decide +kernel), (by decide +kernel), (by decide +kernel)⟩,
   ⟨tclosing, 0, 7, tentry .close (some 0), { tecohort with tiles := [(0, ttile false)] }, ttile false, 0, (by decide +kernel),
     (by decide +kernel), (by decide +kernel), (by decide +kernel)⟩,
   ⟨tring true [tepi none], 0, tepi none, [], { tecohort with tiles := [(0, ttile true)] }, ttile true, (by decide +kernel),
     (by decide +kernel), (by decide +kernel), (by decide +kernel), (by decide +kernel), (by decide +kernel)⟩,
   ⟨{ tring true [tepi (some 0)] with clock := 256 }, 0, tepi (some 0), [], { tecohort with tiles := [(0, ttile true)] }, ttile true, 0, (by decide +kernel), (by decide +kernel), (by decide +kernel), (by decide +kernel), (by decide +kernel)⟩⟩

theorem witness_PathsMerge :
    (∃ s : State, ∃ c : Nat, ∃ sl : Nat, ∃ split : Nat, ∃ st : Strand, ∃ e : Split, (s.flush.strandAt c sl = some st) ∧
      (tget st.splits split = some e) ∧ let ps := (st.paths.filter fun p => p.2.arms.any (·.1 == split)).map (·.2); (ps ≠ []) ∧
      (∀ p ∈ ps, (∃ t0 < s.clock, p.status = .join split t0) ∧ p.windowOpen = false)) ∧
    (∃ s : State, ∃ r : PRef, ∃ st : Strand, ∃ f : Path, ∃ q : Path, ∃ pid : Nat, ∃ a : Word, (s.flush.HasPath r st f) ∧
      (f.parent = some pid) ∧ (f.rejoin = some a) ∧ (pid ≠ r.path) ∧ (tget st.paths pid = some q) ∧ (f.status = .atRejoin) ∧
      (q.status = .rejoinWait) ∧ (q.pc = a) ∧ (f.windowOpen = false) ∧ (q.windowOpen = false)) :=
  ⟨⟨off tjoin, 0, 0, 1, tjoin, ⟨64, true, []⟩, (by decide +kernel), (by decide +kernel), (by decide +kernel), (by decide +kernel)⟩,
   ⟨off trejoin, ⟨0, 0, 3⟩, trejoin, tfrag, tparent, 0, 64, ⟨(by decide +kernel), (by decide +kernel)⟩, (by decide +kernel),
     (by decide +kernel), (by decide +kernel), (by decide +kernel), (by decide +kernel), (by decide +kernel), (by decide +kernel),
     (by decide +kernel), (by decide +kernel)⟩⟩

theorem witness_WaitingPathsGoOn :
    (∃ s : State, ∃ r : PRef, ∃ page : Nat, ∃ port : Nat, ∃ st : Strand, ∃ p : Path, (s.flush.HasPath r st p) ∧
      (p.status = .pages [(page, port)] [])) ∧
    (∃ s : State, ∃ asid : Nat, ∃ a : Word, ∃ r : PRef, ∃ st : Strand, ∃ p : Path, ∃ fall : Bool, ∃ o : Word, ∃ u : Undo, ∃ b : Block, ∃ stop : (Option FetchStop), (s.flush.HasPath r st p) ∧ (s.runsIn asid st) ∧ (p.status = .fetch a fall o u) ∧ (st.Passes p a) ∧ (∀ x ∈ (s.flush.dev.coreAt r.core).strands, ∀ q ∈ x.2.paths, q.2.waitsFor a = true → x.1 = r.slot ∧ q.1 = r.path) ∧ (∀ q, s.flush.dev.newText asid q a = false) ∧ (b.valid = true) ∧ (b.untested = false) ∧ (∀ e ∈ (s.flush.dev.coreAt r.core).strands, s.runsIn asid e.2 → fetchBlock s.flush.dev asid (s.dev.launchAt e.2.launch).part a .done = .ok (b, stop))) ∧
    (∃ s : State, ∃ c : Nat, ∃ sl : Nat, ∃ st : Strand, let co := s.flush.dev.coreAt c; (co.idleFrom + 256 ≤ s.clock) ∧
      (∃ e ∈ co.strands, e.2.spilled = false ∧ ∃ p ∈ e.2.paths, p.2.starved = true) ∧ (youngest co.strands = some (sl, st)) ∧
      (st.noLoads = true) ∧ (s.flush.dev.framePaused st = false)) ∧
    (∃ s : State, ∃ c : Nat, ∃ sl : Nat, ∃ st : Strand, let co := s.flush.dev.coreAt c; ((sl, st) ∈ co.strands) ∧ (st.spilled = true) ∧
      (∀ e ∈ co.strands, e.2.spilled = true → e = (sl, st) ∨ st.linear < e.2.linear) ∧
      (slabsHeld { st with spilled := false } + plinth co.strands ≤ slabsFree co.strands)) :=
  ⟨⟨off (tone (.pages [(5, 0)] [])), ⟨0, 0, 0⟩, 5, 0, tone (.pages [(5, 0)] []), { tpath with status := .pages [(5, 0)] [] }, ⟨(by decide +kernel), (by decide +kernel)⟩, (by decide +kernel)⟩,
   ⟨tx (tone (.fetch 64 true 64 nothing)), 0, 64, ⟨0, 0, 0⟩, tone (.fetch 64 true 64 nothing), { tpath with status := .fetch 64 true 64 nothing }, true, 64, nothing, tblock, none, ⟨(by decide +kernel), (by decide +kernel)⟩, ⟨(by decide +kernel), (by decide +kernel)⟩, (by decide +kernel), ⟨(by decide +kernel), (by decide +kernel), (by decide +kernel), (by decide +kernel), (by decide +kernel)⟩, (by decide +kernel), (fun _ => rfl), (by decide +kernel), (by decide +kernel), (fun e he _ => by rw [part_tx rfl e he]; exact okVal_eq (by decide +kernel))⟩,
   ⟨tspill false, 0, 1, tyoung false, (by decide +kernel), (by decide +kernel), (by decide +kernel), (by decide +kernel),
     (by decide +kernel)⟩,
   ⟨tspill true, 0, 1, tyoung true, (by decide +kernel), (by decide +kernel), (by decide +kernel), (by decide +kernel)⟩⟩

theorem witness_RolesAndTasks :
    (∃ s : State, ∃ u : State, ∃ p : PRef, ∃ q : Nat, ∃ n : Nat, ∃ a : (Option SC), ∃ x : Queue, ∃ r : Role, ∃ e : Word, (s.load p.core p.slot p.path = some u) ∧ (u.CanSwitch q n false a x r e)) ∧
    (∃ s : State, ∃ u : State, ∃ p : PRef, ∃ q : Nat, ∃ n : Nat, ∃ a : SC, ∃ x : Queue, ∃ r : Role, ∃ e : Word, (s.load p.core p.slot p.path = some u) ∧ (u.CanSwitch q n true (some a) x r e) ∧ (u.CanRead (scSrcs a) u.path.lanes) ∧ (u.CanRelease)) ∧
    (∃ s : State, ∃ u : State, ∃ p : PRef, ∃ d : Dest, ∃ n : Nat, ∃ t0 : Nat, (s.load p.core p.slot p.path = some u) ∧ (t0 < 2 ^ 64) ∧
      (u.path.status = .grow d (n * 2 ^ 64 + t0)) ∧ (t0 + 24 ≤ u.clock) ∧ (∀ k ∈ u.flush.dev.growRequests u.strand.cohort, t0 ≤ k) ∧
      (u.path.window = none) ∧ (u.path.atEnd = false) ∧ (u.launch.kernel.attach = none ∨ n = 0 ∨ 1024 < n)) ∧
    (∃ s : State, ∃ u : State, ∃ p : PRef, ∃ d : Dest, ∃ n : Nat, ∃ t0 : Nat, (s.load p.core p.slot p.path = some u) ∧ (t0 < 2 ^ 64) ∧
      (u.path.status = .grow d (n * 2 ^ 64 + t0)) ∧ (t0 + 24 ≤ u.clock) ∧ (∀ k ∈ u.flush.dev.growRequests u.strand.cohort, t0 ≤ k) ∧
      (u.path.window = none) ∧ (u.path.atEnd = false) ∧ ∃ a : Word, ∃ sl : Nat, (u.launch.kernel.attach = some a) ∧ (n = 1) ∧
      ((tgetD (u.flush.dev.coreAt p.core).cohorts u.strand.cohort .empty).quad = false) ∧ (u.launch.grown < u.launch.grow) ∧
      (u.flush.dev.framesUsed u.strand.launch < u.launch.qsize / frameBytes u.launch.kernel.armature) ∧
      ((u.flush.dev.coreAt p.core).admits 1 u.launch.kernel.width u.launch.kernel.armature = true) ∧
      ((u.flush.dev.coreAt p.core).freeSlot = some sl)) ∧
    (∃ s : State, ∃ c : Nat, ∃ key : Nat, ∃ sl : Nat, ∃ r : TaskRing, ∃ entry : Word, ∃ ws : List Word, (tget (s.flush.dev.coreAt c).rings key = some r) ∧ (r.tail = r.head + 1) ∧ (r.taken = []) ∧ (s.flush.taskSlot r r.head = some (entry, ws)) ∧ let l := s.dev.launchAt r.launch; (l.ending = none) ∧ ((s.dev.partAt l.part).open_ = true) ∧ ((s.dev.dieAt (dieOf c)).fenced = false) ∧ ∃ arm : Nat, ((s.dev.partAt l.part).hasQuad (quadOf c) = true) ∧ (l.kernel.tasks.find? (fun k => k.1 = entry) = some (entry, arm)) ∧ (r.since + 64 ≤ s.clock) ∧ ((s.flush.dev.coreAt c).admits 1 32 arm = true) ∧ (8 + plinth (s.flush.dev.coreAt c).strands ≤ slabsFree (s.flush.dev.coreAt c).strands) ∧ (s.flush.dev.framesUsed r.launch < l.qsize / frameBytes l.kernel.armature) ∧ ((s.flush.dev.coreAt c).freeSlot = some sl)) ∧
    (∃ s : State, ∃ c : Nat, ∃ key : Nat, ∃ r : TaskRing, ∃ entry : Word, ∃ ws : List Word, (tget (s.flush.dev.coreAt c).rings key = some r) ∧ (r.tail = r.head + 1) ∧ (r.taken = []) ∧ (s.flush.taskSlot r r.head = some (entry, ws)) ∧ let l := s.dev.launchAt r.launch; (l.ending = none) ∧ ((s.dev.partAt l.part).open_ = true) ∧ ((s.dev.dieAt (dieOf c)).fenced = false) ∧ (l.kernel.tasks.find? (fun k => k.1 = entry) = none)) :=
  ⟨⟨trecv, loaded trecv, ⟨0, 0, 0⟩, 3, 0, none, tqueue 0 256 16 0 0 0, trole none (some 3), 128, (by decide +kernel),
    ⟨(by decide +kernel), (by decide +kernel), (by decide +kernel), (by decide +kernel), (by decide +kernel), (by decide +kernel),
    (by decide +kernel), (by decide +kernel), (by decide +kernel), (by decide +kernel),
    (fun e he hn => absurd ((by decide +kernel : ∀ e ∈ (loaded trecv).core.strands, e.1 = (loaded trecv).slotNo) e he) hn), (by decide +kernel), (by decide +kernel), (by decide +kernel), (by decide +kernel), (by decide +kernel)⟩⟩,
   ⟨tsend, loaded tsend, ⟨0, 0, 0⟩, 3, 0, .scl 2, tqueue 0 256 16 16 0 0, trole (some 3) none, 128, (by decide +kernel),
     ⟨(by decide +kernel), (by decide +kernel), (by decide +kernel), (by decide +kernel), (by decide +kernel), (by decide +kernel),
     (by decide +kernel), (by decide +kernel), (by decide +kernel), (by decide +kernel),
     (fun e he hn => absurd ((by decide +kernel : ∀ e ∈ (loaded tsend).core.strands, e.1 = (loaded tsend).slotNo) e he) hn), (by decide +kernel), (by decide +kernel), (by decide +kernel), (by decide +kernel), (by decide +kernel)⟩, (canRead (by decide +kernel)), ⟨(by unfold State.NoFlights; decide +kernel), (by decide +kernel)⟩⟩,
   ⟨tgrow 1025 (some 128), loaded (tgrow 1025 (some 128)), ⟨0, 0, 0⟩, .scl 9 1, 1025, 76, (by decide +kernel), (by decide +kernel),
     (by decide +kernel), (by decide +kernel), (by decide +kernel), (by decide +kernel), (by decide +kernel), (by decide +kernel)⟩,
   ⟨tgrow 1 (some 128), loaded (tgrow 1 (some 128)), ⟨0, 0, 0⟩, .scl 9 1, 1, 76, (by decide +kernel), (by decide +kernel),
     (by decide +kernel), (by decide +kernel), (by decide +kernel), (by decide +kernel), (by decide +kernel), 128, 1, (by decide +kernel),
     (by decide +kernel), (by decide +kernel), (by decide +kernel), (by decide +kernel), (by decide +kernel), (by decide +kernel)⟩,
   ⟨ttask [(0, 1)], 0, 5, 1, ttring, 0, List.replicate 8 0, (by decide +kernel), (by decide +kernel), (by decide +kernel),
     (by rw [taskSlot_far]; decide +kernel), (by decide +kernel), (by decide +kernel), (by decide +kernel), 1, (by decide +kernel),
     (by decide +kernel), (by decide +kernel), (by decide +kernel), (by decide +kernel), (by decide +kernel), (by decide +kernel)⟩,
   ⟨ttask [], 0, 5, ttring, 0, List.replicate 8 0, (by decide +kernel), (by decide +kernel), (by decide +kernel),
     (by rw [taskSlot_far]; decide +kernel), (by decide +kernel), (by decide +kernel), (by decide +kernel), (by decide +kernel)⟩⟩

theorem witness_LaunchProceeds :
    (∃ s : State, ∃ port : Nat, ∃ pn : Nat, ∃ q : Nat, (pn < 8) ∧
      (q < 8) ∧ ∃ base : Nat, ∃ cap : Nat, (s.flush.dev.holder pn = some port) ∧ (s.flush.dev.ringOf pn q = some (base, cap))) ∧
    (∃ s : State, ∃ port : Nat, ∃ pn : Nat, ∃ q : Nat, (pn < 8) ∧ (q < 8) ∧ (s.flush.dev.holder pn ≠ some port)) ∧
    (∃ s : State, ∃ pn : Nat, ∃ q : Nat, ∃ desc : Nat, ∃ rest : List Nat, ∃ bs : List Byte, ∃ k : Nat × Kernel, ∃ asid : Nat, let d := s.flush.dev; (d.unfetched pn q = 0) ∧ ((d.hq pn q).running = none) ∧ ((d.hq pn q).waiting = desc :: rest) ∧ ((d.hq pn q).asid = some asid) ∧ ((d.partAt pn).open_ = true) ∧ ((d.setHq pn q { d.hq pn q with waiting := rest }).descriptor pn q desc = some bs) ∧ ((d.partAt pn).kernels.find? (fun k => k.1 = fieldN (bytesNat bs 0x14 4) 16 12 && k.2.entry = BitVec.ofNat 64 (bytesNat bs 0 8)) = some k) ∧ (d.checkLaunch pn desc bs (launchOf pn q desc k.2 bs (d.partAt pn).ordinals) true = 0)) ∧
    (∃ s : State, ∃ pn : Nat, ∃ die : Nat, ∃ l : Nat, ∃ t0 : Nat, ∃ x : Launch, ∃ di : Dist, (tget s.dev.launches l = some x) ∧
      (tget x.dists die = some di) ∧ (x.part = pn) ∧ (di.asked = some t0) ∧ (x.askedBefore die t0 = false) ∧
      ((s.dev.partAt pn).electing = none) ∧ (x.ending = none) ∧ ((s.dev.partAt pn).open_ = true)) ∧
    (∃ s : State, ∃ pn : Nat, ∃ die : Nat, ∃ lid : Nat, ∃ n : Nat, ∃ c : Nat, ∃ sl : Nat, ∃ l : Launch, (s.flush.candidates pn die = [(lid, l, n, [(c, 1)])]) ∧ ((s.dev.partAt pn).open_ = true) ∧ ((s.dev.partAt pn).electing = none) ∧ ((s.dev.dieAt die).fenced = false) ∧ (l.spc = 0) ∧ (l.quad = false) ∧ (l.kernel.roles = []) ∧ (l.kernel.queues = []) ∧ ((s.flush.dev.coreAt c).freeSlot = some sl)) ∧
    (∃ s : State, ∃ pn : Nat, ∃ lid : Nat, ∃ x : Launch, (tget s.flush.dev.launches lid = some x) ∧ (x.part = pn) ∧
      (s.flush.dev.quiet lid = true) ∧ (x.ending = none → s.flush.dev.finished lid x = true) ∧ ((s.dev.partAt pn).open_ = true) ∧
      (∀ y ∈ s.flush.partials lid x, s.flush.dev.paused y.pa = false) ∧
      (∀ e ∈ s.flush.ovfSlots x.part x.ordinal, s.flush.dev.slotPaused x.part e.1 = false)) :=
  ⟨⟨tlaunch tcoming, 0, 0, 1, (by decide +kernel), (by decide +kernel), 1 * 2 ^ 64, 16, (by decide +kernel), (by decide +kernel)⟩,
   ⟨tlaunch tcoming, 1, 0, 1, (by decide +kernel), (by decide +kernel), (by decide +kernel)⟩,
   ⟨tlaunch tcoming, 0, 1, 0x8000, [], tdesc8000, (0, { Kernel.empty with entry := 128 }), 0, (by decide +kernel), (by decide +kernel),
     (by decide +kernel), (by decide +kernel), (by decide +kernel), (by decide +kernel), (by decide +kernel), (by decide +kernel)⟩,
   ⟨tlaunch { tcoming with dists := [(0, ⟨[], some 90⟩)] }, 0, 0, 2, 90, { tcoming with dists := [(0, ⟨[], some 90⟩)] }, ⟨[], some 90⟩, (by decide +kernel), (by decide +kernel), (by decide +kernel), (by decide +kernel), (by decide +kernel), (by decide +kernel), (by decide +kernel), (by decide +kernel)⟩,
   ⟨tlaunch tplaced, 0, 0, 2, 0, 0, 1, tplaced, (by decide +kernel), (by decide +kernel), (by decide +kernel), (by decide +kernel),
     (by decide +kernel), (by decide +kernel), (by decide +kernel), (by decide +kernel), (by decide +kernel)⟩,
   ⟨tlaunch tover, 0, 2, tover, (by decide +kernel), (by decide +kernel), (by decide +kernel), (by decide +kernel), (by decide +kernel),
     (by decide +kernel), (by decide +kernel)⟩⟩

theorem witness_FaultsAndHandlers :
    (∃ i : Instr, ∃ s : State, (MaskedCommand s i) ∧ (s.path.windowOpen = false)) ∧
    (∃ i : Instr, ∃ o : StoreOp, ∃ phys : (Nat → Nat), ∃ s : State, (BufStore i o phys) ∧ (s.canPost o.k.val = true) ∧
      (s.path.windowOpen = false) ∧ (s.CanRead (storeSrcs o) (s.storeEn o)) ∧ (lanesOf s.strand.width (s.storeEn o) ≠ []) ∧
      (ofLanes (lanesOf s.strand.width (s.storeEn o)) &&& s.path.lanes = s.path.lanes) ∧
      (∀ l ∈ lanesOf s.strand.width (s.storeEn o), s.cohort.asize ≤ s.storeAddr o l ∧ s.storeAddr o l % o.ty.size = 0)) ∧
    (∃ i : Instr, ∃ o : StoreOp, ∃ phys : (Nat → Nat), ∃ s : State, (BufStore i o phys) ∧ (s.canPost o.k.val = true) ∧
      (s.path.windowOpen = false) ∧ (s.CanRead (storeSrcs o) (s.storeEn o)) ∧ (lanesOf s.strand.width (s.storeEn o) ≠ []) ∧
      (ofLanes (lanesOf s.strand.width (s.storeEn o)) &&& s.path.lanes = s.path.lanes) ∧ (s.cohort.asize ≠ 0) ∧
      (∀ l ∈ lanesOf s.strand.width (s.storeEn o), s.storeAddr o l % o.ty.size ≠ 0)) ∧
    (∃ s : State, ∃ u : State, ∃ p : PRef, ∃ w : Window, ∃ f : Flight, ∃ a : LaneAcc, ∃ c : Nat, (s.load p.core p.slot p.path = some u) ∧
      (u.path.window = some w) ∧ (w.complete = false) ∧ (u.strand.flight w.flight = some f) ∧ (f.passed = false) ∧
      (f.kind.isLoad = true) ∧ (f.accs = [a]) ∧ (u.checkLane f a = .bad ⟨a.lane, c, a.va⟩ none) ∧
      (∀ g ∈ u.strand.flights, u.earlier f g.2 = false) ∧ (lanesOf u.strand.width f.lanes ≠ []) ∧
      (ofLanes (lanesOf u.strand.width f.lanes) &&& u.path.lanes = u.path.lanes)) ∧
    (∃ s : State, ∃ tr : Trap, (s.path.handler = some tr)) ∧
    (∃ s : State, (s.path.handler = none)) ∧
    (∃ s : State, ∃ u : State, ∃ c : Nat, ∃ sl : Nat, ∃ id : Nat, ∃ st : Strand, ∃ tr : Trap, ∃ h : Trap, (s.flush.strandAt c sl = some st) ∧ (nextTrap st.paths = some id) ∧ (s.flush.load c sl id = some u) ∧ (u.path.trap = some tr) ∧ (u.strand.trapFrom ≤ u.clock) ∧ (∀ f ∈ u.strand.flights, f.2.kind.isStore = false) ∧ (u.path.handler = some h) ∧ (u.launch.ending = none)) ∧
    (∃ s : State, ∃ tr : Trap, ∃ w : Word, ∃ i : Instr, (s.path.handler = some tr) ∧ (s.path.windowOpen = false) ∧
      (tr.blk.wordAt tr.fpc = some w) ∧ (decode w (tr.blk.wordAt (tr.fpc + 8)) = .ok i) ∧ (tr.cause ≠ 0x14) ∧ (tr.cause ≠ 0x15) ∧
      (tr.win = 0) ∧ (tr.rest = none) ∧ (tr.fpc + BitVec.ofNat 64 (8 * wordLen w) ≠ tr.blk.stop)) ∧
    (∃ s : State, ∃ tr : Trap, (s.path.handler = some tr) ∧ (s.path.windowOpen = false) ∧ (tr.blk.covers tr.fpc = false) ∧
      (tr.cause ≠ 0x14) ∧ (tr.cause ≠ 0x15) ∧ (tr.joinCheck = false)) ∧
    (∃ s : State, (s.path.handler = none) ∧ (s.path.windowOpen = false)) ∧
    (∃ s : State, ∃ r : PRef, ∃ page : Nat, ∃ port : Nat, ∃ st : Strand, ∃ p : Path, ∃ tr : Trap, (s.flush.HasPath r st p) ∧
      (p.status = .pages [(page, port)] []) ∧ (p.trap = some tr)) ∧
    (∃ s : State, ∃ asid : Nat, ∃ a : Word, ∃ r : PRef, ∃ st : Strand, ∃ p : Path, ∃ fall : Bool, ∃ o : Word, ∃ u : Undo, ∃ c : Nat, (s.flush.HasPath r st p) ∧ (s.runsIn asid st) ∧ (p.status = .fetch a fall o u) ∧ (p.windowOpen = false) ∧ (∀ x ∈ (s.flush.dev.coreAt r.core).strands, ∀ q ∈ x.2.paths, q.2.waitsFor a = true → x.1 = r.slot ∧ q.1 = r.path) ∧ (∀ e ∈ (s.flush.dev.coreAt r.core).strands, s.runsIn asid e.2 → fetchBlock s.flush.dev asid (s.dev.launchAt e.2.launch).part a .done = .error (.fail ⟨c, none⟩))) :=
  ⟨⟨_, te, (.epi 0 1 2 (by decide +kernel) (by decide +kernel) (by decide +kernel)), (by decide +kernel)⟩,
   ⟨_, _, _, tm, (.stA ⟨1, 0, .i32, true, .vec 1, .scl 4, .const 0, 0, 0⟩), (by decide +kernel), (by decide +kernel),
     (canRead (by decide +kernel)), (by decide +kernel), (by decide +kernel), (by decide +kernel)⟩,
   ⟨_, _, _, tm, (.stA ⟨1, 0, .i32, false, .vec 1, .scl 1, .const 2, 0, 0⟩), (by decide +kernel), (by decide +kernel),
     (canRead (by decide +kernel)), (by decide +kernel), (by decide +kernel), (by decide +kernel), (by decide +kernel)⟩,
   ⟨flying (tfl (.load [0, 1] true) (tacc 66) false), loaded (flying (tfl (.load [0, 1] true) (tacc 66) false)), ⟨0, 0, 0⟩, twin, tfl (.load [0, 1] true) (tacc 66) false, tacc 66, 7, (by decide +kernel), (by decide +kernel), (by decide +kernel), (by decide +kernel), (by decide +kernel), (by decide +kernel), (by decide +kernel), (by decide +kernel), (by decide +kernel), (by decide +kernel), (by decide +kernel)⟩,
   ⟨at' tm { tpath with handler := some ttrap }, ttrap, (by decide +kernel)⟩,
   ⟨tm, (by decide +kernel)⟩,
   ⟨at' tm { tpathTrapped with handler := some ttrap }, loaded (at' tm { tpathTrapped with handler := some ttrap }), 0, 0, 0, strandOf (at' tm { tpathTrapped with handler := some ttrap }), ttrap, ttrap, (by decide +kernel), (by decide +kernel), (by decide +kernel), (by decide +kernel), (by decide +kernel), (by decide +kernel), (by decide +kernel), (by decide +kernel)⟩,
   ⟨at' tm { tpath with handler := some { ttrap with win := 0, blk := { blk2 with words := [(encode (.add ⟨0, .i32, .vec 5 2, .vec 1, .vec 2⟩)).headD 0, 0] } } }, { ttrap with win := 0, blk := { blk2 with words := [(encode (.add ⟨0, .i32, .vec 5 2, .vec 1, .vec 2⟩)).headD 0, 0] } }, (encode (.add ⟨0, .i32, .vec 5 2, .vec 1, .vec 2⟩)).headD 0, .add ⟨0, .i32, .vec 5 2, .vec 1, .vec 2⟩, (by decide +kernel), (by decide +kernel), (by decide +kernel), rfl, (by decide +kernel), (by decide +kernel), (by decide +kernel), (by decide +kernel), (by decide +kernel)⟩,
   ⟨at' { tm with core := { tm.core with ibuf := [(128, { blk2 with base := 128 })] } } { tpath with handler := some { ttrap with fpc := 128 } }, { ttrap with fpc := 128 }, (by decide +kernel), (by decide +kernel), (by decide +kernel), (by decide +kernel), (by decide +kernel), (by decide +kernel)⟩,
   ⟨tm, (by decide +kernel), (by decide +kernel)⟩,
   ⟨off { tstrand with paths := [(0, { tpath with status := .pages [(5, 0)] [], trap := some ttrap })] }, ⟨0, 0, 0⟩, 5, 0, { tstrand with paths := [(0, { tpath with status := .pages [(5, 0)] [], trap := some ttrap })] }, { tpath with status := .pages [(5, 0)] [], trap := some ttrap }, ttrap, ⟨(by decide +kernel), (by decide +kernel)⟩, (by decide +kernel), (by decide +kernel)⟩,
   ⟨tx (tone (.fetch 0x20000 true 64 nothing)), 0, 0x20000, ⟨0, 0, 0⟩, tone (.fetch 0x20000 true 64 nothing), { tpath with status := .fetch 0x20000 true 64 nothing }, true, 64, nothing, 0x08, ⟨(by decide +kernel), (by decide +kernel)⟩, ⟨(by decide +kernel), (by decide +kernel)⟩, (by decide +kernel), (by decide +kernel), (by decide +kernel), (fun e he _ => by rw [part_tx rfl e he]; exact errOf_eq (by decide +kernel))⟩⟩

theorem witness_CommandRejected : ∃ i : (Nat → Instr), ∃ op : Nat, ∃ s : State, ∃ pn : Nat, ∃ a : Nat, ∃ st : Nat, (CommandOp i op) ∧
  (s.flush.dev.privCmd pn op = some (a, st)) ∧ (a % 8 ≠ 0) :=
  ⟨.sealPartition, 0x11, tcmd 0x11 5 [] tpart tidle, 0, 5, 0x3000, .sealPartition, (by decide +kernel), (by decide +kernel)⟩

theorem witness_PartitionCommandsComplete :
    (∃ s : State, ∃ pn : Nat, ∃ a : Nat, ∃ st : Nat, let d := s.flush.dev; let p := s.flush.dev.partAt pn; let f := s.opnd pn a; (s.Commanded pn 0x10 a st) ∧ (f 0x11 3 = 0) ∧ (f 0x18 8 = 0) ∧ (∀ i < 4, ((List.range 4).map fun i => f (0x14 + i) 1).getD i 0 ≤ 16) ∧ (p.sealed = false) ∧ ((BitVec.ofNat 128 (f 0 16)) ≠ 0) ∧ ((BitVec.ofNat 8 (f 0x10 1)) ≠ 0) ∧ (∀ x ∈ d.parts, x.1 ≠ pn → x.2.quads &&& (BitVec.ofNat 128 (f 0 16)) = 0 ∧ x.2.pairs &&& (BitVec.ofNat 8 (f 0x10 1)) = 0) ∧ (∀ i < 4, (d.parts.filter fun x => x.1 != pn).foldl (fun n x => n + shareOf x.2 i) (((List.range 4).map fun i => f (0x14 + i) 1).getD i 0) ≤ 16) ∧ (∀ i < 4, needsL2 (BitVec.ofNat 128 (f 0 16)) (BitVec.ofNat 8 (f 0x10 1)) i = true → ((List.range 4).map fun i => f (0x14 + i) 1).getD i 0 ≠ 0)) ∧
    (∃ s : State, ∃ pn : Nat, ∃ a : Nat, ∃ st : Nat, let d := s.flush.dev; let p := s.flush.dev.partAt pn; let f := s.opnd pn a; (s.Commanded pn 0x10 a st) ∧ (f 0x11 3 = 0) ∧ (f 0x18 8 = 0) ∧ (∀ i < 4, ((List.range 4).map fun i => f (0x14 + i) 1).getD i 0 ≤ 16) ∧ (p.sealed = false) ∧ ((BitVec.ofNat 128 (f 0 16)) ≠ 0) ∧ ((BitVec.ofNat 8 (f 0x10 1)) ≠ 0) ∧ (∀ x ∈ d.parts, x.1 ≠ pn → x.2.quads &&& (BitVec.ofNat 128 (f 0 16)) = 0 ∧ x.2.pairs &&& (BitVec.ofNat 8 (f 0x10 1)) = 0) ∧ (∀ i < 4, (d.parts.filter fun x => x.1 != pn).foldl (fun n x => n + shareOf x.2 i) (((List.range 4).map fun i => f (0x14 + i) 1).getD i 0) ≤ 16) ∧ (∀ i < 4, needsL2 (BitVec.ofNat 128 (f 0 16)) (BitVec.ofNat 8 (f 0x10 1)) i = true → ((List.range 4).map fun i => f (0x14 + i) 1).getD i 0 ≠ 0)) ∧
    (∃ s : State, ∃ pn : Nat, ∃ a : Nat, ∃ st : Nat, let d := s.flush.dev; let p := s.flush.dev.partAt pn; let f := s.opnd pn a; (s.Commanded pn 0x11 a st) ∧ (a = 0) ∧ (p.sealed = false)) ∧
    (∃ s : State, ∃ pn : Nat, ∃ a : Nat, ∃ st : Nat, let d := s.flush.dev; let p := s.flush.dev.partAt pn; let f := s.opnd pn a; (s.Commanded pn 0x12 a st) ∧ (a = 0) ∧ (p.preempt = none) ∧ (p.saved = false)) ∧
    (∃ s : State, ∃ pn : Nat, ∃ a : Nat, ∃ st : Nat, let d := s.flush.dev; let p := s.flush.dev.partAt pn; let f := s.opnd pn a; (s.Commanded pn 0x12 a st) ∧ (a = 0) ∧ (p.preempt.isSome = true ∨ p.saved = true) ∧ (d.drained pn = true)) ∧
    (∃ s : State, ∃ pn : Nat, ∃ a : Nat, ∃ st : Nat, let d := s.flush.dev; let p := s.flush.dev.partAt pn; let f := s.opnd pn a; (s.Commanded pn 0x28 a st) ∧ (f 0 8 % 4096 = 0) ∧ (f 8 8 % 4096 = 0) ∧ (∀ l ∈ d.launches, l.2.part ≠ pn) ∧ (f 8 8 = 0 ∨ p.inPairs (f 0 8) (f 8 8) = true)) ∧
    (∃ s : State, ∃ pn : Nat, ∃ a : Nat, ∃ st : Nat, let d := s.flush.dev; let p := s.flush.dev.partAt pn; let f := s.opnd pn a; ∃ x : Asid, (s.Commanded pn 0x27 a st) ∧ (f 0 1 ≠ 0) ∧ (f 0 1 < 8) ∧ (f 1 1 ≤ 1) ∧ (f 2 2 < 4096) ∧ (f 5 3 = 0) ∧ (f 0x10 8 = 0) ∧ (4 ≤ f 4 1) ∧ (f 4 1 ≤ 12) ∧ (f 8 8 % 64 = 0) ∧ (d.unfetched pn (f 0 1) = 0) ∧ (d.asidIn pn (f 2 2) = some x) ∧ (f 1 1 = 1 → p.inPairs (f 8 8) (64 * 2 ^ f 4 1) = true)) ∧
    (∃ s : State, ∃ pn : Nat, ∃ a : Nat, ∃ st : Nat, let d := s.flush.dev; let p := s.flush.dev.partAt pn; let f := s.opnd pn a; ∃ x : Asid, (s.Commanded pn 0x27 a st) ∧ (f 0 1 ≠ 0) ∧ (f 0 1 < 8) ∧ (f 1 1 ≤ 1) ∧ (f 2 2 < 4096) ∧ (f 5 3 = 0) ∧ (f 0x10 8 = 0) ∧ (4 ≤ f 4 1) ∧ (f 4 1 ≤ 12) ∧ (f 8 8 % 64 = 0) ∧ (d.unfetched pn (f 0 1) = 0) ∧ (d.asidIn pn (f 2 2) = some x) ∧ (f 1 1 = 1 → p.inPairs (f 8 8) (64 * 2 ^ f 4 1) = true)) ∧
    (∃ s : State, ∃ pn : Nat, ∃ a : Nat, ∃ st : Nat, let d := s.flush.dev; let p := s.flush.dev.partAt pn; let f := s.opnd pn a; ∃ x : Asid, (s.Commanded pn 0x27 a st) ∧ (f 0 1 = 0) ∧ (f 1 1 ≤ 1) ∧ (f 2 2 < 4096) ∧ (f 5 3 = 0) ∧ (f 0x10 8 = 0) ∧ (d.unfetched pn 0 ≤ 1) ∧ (d.asidIn pn (f 2 2) = some x)) ∧
    (∃ s : State, ∃ pn : Nat, ∃ a : Nat, ∃ st : Nat, let d := s.flush.dev; let p := s.flush.dev.partAt pn; let f := s.opnd pn a; (s.Commanded pn 0x31 a st) ∧ (f 0 1 < 8) ∧ (f 2 6 = 0) ∧ (f 1 1 = 0)) ∧
    (∃ s : State, ∃ pn : Nat, ∃ a : Nat, ∃ st : Nat, let d := s.flush.dev; let p := s.flush.dev.partAt pn; let f := s.opnd pn a; (s.Commanded pn 0x31 a st) ∧ (f 0 1 < 8) ∧ (f 2 6 = 0) ∧ (f 1 1 = 1) ∧ ((tget p.keys (f 0 1)).isSome = true)) ∧
    (∃ s : State, ∃ pn : Nat, ∃ a : Nat, ∃ st : Nat, let d := s.flush.dev; let p := s.flush.dev.partAt pn; let f := s.opnd pn a; (s.Commanded pn 0x32 a st) ∧ (f 2 6 = 0) ∧ (f 0 2 < p.cap)) ∧
    (∃ s : State, ∃ pn : Nat, ∃ a : Nat, ∃ st : Nat, let d := s.flush.dev; let p := s.flush.dev.partAt pn; let f := s.opnd pn a; (s.Commanded pn 0x32 a st) ∧ (f 2 6 = 0) ∧ (p.cap ≤ f 0 2)) :=
  ⟨⟨tcmd 0x10 0x2000 [(0, 16, 2), (0x10, 1, 1), (0x14, 1, 4)] { tpart with configured := false, pairs := 0, quads := 0 } { tidle with parts := [(3, { tpart with quads := 4, pairs := 2, shares := [12, 0, 0, 0] })] }, 0, 0x2000, 0x3000, ⟨(by decide +kernel), (by decide +kernel), (by decide +kernel)⟩, (by decide +kernel), (by decide +kernel), (by decide +kernel), (by decide +kernel), (by decide +kernel), (by decide +kernel), (by decide +kernel), (by decide +kernel), (by decide +kernel)⟩,
   ⟨tcommand 0x10 [(0, 16, 2), (0x10, 1, 1), (0x14, 1, 4)], 0, 0x2000, 0x3000, ⟨(by decide +kernel), (by decide +kernel),
     (by decide +kernel)⟩, (by decide +kernel), (by decide +kernel), (by decide +kernel), (by decide +kernel), (by decide +kernel),
     (by decide +kernel), (by decide +kernel), (by decide +kernel), (by decide +kernel)⟩,
   ⟨tcmd 0x11 0 [] tpart tidle, 0, 0, 0x3000, ⟨(by decide +kernel), (by decide +kernel), (by decide +kernel)⟩, (by decide +kernel),
     (by decide +kernel)⟩,
   ⟨tcmd 0x12 0 [] tpart tdev, 0, 0, 0x3000, ⟨(by decide +kernel), (by decide +kernel), (by decide +kernel)⟩, (by decide +kernel),
     (by decide +kernel), (by decide +kernel)⟩,
   ⟨tcmd 0x12 0 [] { tpart with preempt := some (0, 0) } tdev, 0, 0, 0x3000, ⟨(by decide +kernel), (by decide +kernel),
     (by decide +kernel)⟩, (by decide +kernel), (.inl (by decide +kernel)), (by decide +kernel)⟩,
   ⟨tcommand 0x28 [(0, 8, 0x10000), (8, 8, 0x2000)], 0, 0x2000, 0x3000, ⟨(by decide +kernel), (by decide +kernel),
     (by decide +kernel)⟩, (by decide +kernel), (by decide +kernel), (by decide +kernel), (.inr (by decide +kernel))⟩,
   ⟨tcommand 0x27 [(0, 1, 7), (1, 1, 0), (4, 1, 12), (8, 8, 1048576)], 0, 0x2000, 0x3000, ⟨0, 0x4000, 0x2000, 0x6000, 8⟩, ⟨(by decide +kernel), (by decide +kernel), (by decide +kernel)⟩, (by decide +kernel), (by decide +kernel), (by decide +kernel), (by decide +kernel), (by decide +kernel), (by decide +kernel), (by decide +kernel), (by decide +kernel), (by decide +kernel), (by decide +kernel), (by decide +kernel), (by decide +kernel)⟩,
   ⟨tcommand 0x27 [(0, 1, 7), (1, 1, 1), (4, 1, 12), (8, 8, 65536)], 0, 0x2000, 0x3000, ⟨0, 0x4000, 0x2000, 0x6000, 8⟩, ⟨(by decide +kernel), (by decide +kernel), (by decide +kernel)⟩, (by decide +kernel), (by decide +kernel), (by decide +kernel), (by decide +kernel), (by decide +kernel), (by decide +kernel), (by decide +kernel), (by decide +kernel), (by decide +kernel), (by decide +kernel), (by decide +kernel), (by decide +kernel)⟩,
   ⟨tcommand 0x27 [], 0, 0x2000, 0x3000, ⟨0, 0x4000, 0x2000, 0x6000, 8⟩, ⟨(by decide +kernel), (by decide +kernel),
     (by decide +kernel)⟩, (by decide +kernel), (by decide +kernel), (by decide +kernel), (by decide +kernel), (by decide +kernel),
     (by decide +kernel), (by decide +kernel)⟩,
   ⟨tcommand 0x31 [(0, 1, 7), (8, 8, 77)], 0, 0x2000, 0x3000, ⟨(by decide +kernel), (by decide +kernel),
     (by decide +kernel)⟩, (by decide +kernel), (by decide +kernel), (by decide +kernel)⟩,
   ⟨tcmd 0x31 0x2000 [(0, 1, 7), (1, 1, 1)] { tpart with keys := [(7, [1])] } tidle, 0, 0x2000, 0x3000, ⟨(by decide +kernel),
     (by decide +kernel), (by decide +kernel)⟩, (by decide +kernel), (by decide +kernel), (by decide +kernel), (by decide +kernel)⟩,
   ⟨tcommand 0x32 [(0, 2, 699)], 0, 0x2000, 0x3000, ⟨(by decide +kernel), (by decide +kernel), (by decide +kernel)⟩, (by decide +kernel),
     (by decide +kernel)⟩,
   ⟨tcommand 0x32 [(0, 2, 700)], 0, 0x2000, 0x3000, ⟨(by decide +kernel), (by decide +kernel), (by decide +kernel)⟩, (by decide +kernel),
     (by decide +kernel)⟩⟩

theorem witness_AddressSpaceCommandsComplete :
    (∃ s : State, ∃ pn : Nat, ∃ a : Nat, ∃ st : Nat, let d := s.flush.dev; let p := s.flush.dev.partAt pn; let f := s.opnd pn a; (s.Commanded pn 0x20 a st) ∧ (fieldN (f 0 8) 12 3 = 0) ∧ (f 2 6 = 0) ∧ (bitN (f 0 2) 15 = false) ∧ (f 8 8 % 4096 = 0) ∧ (f 0x10 8 % 2048 = 0) ∧ (f 0x18 8 % 128 = 0) ∧ (f 0x20 8 ≤ 65536) ∧ (tget d.asids (f 0 2 % 4096) = none) ∧ (p.inPairs (f 8 8) 4096 = true) ∧ (p.inPairs (f 0x10 8) 2048 = true) ∧ (p.inPairs (f 0x18 8) (128 * f 0x20 8) = true) ∧ (d.FreeOf ((((List.range 64).flatMap fun i => rangeTarget d.mem (f 0x10 8 + 32 * i)) ++ frames d.mem 5 (f 8 8)).flatMap p.clip) [])) ∧
    (∃ s : State, ∃ pn : Nat, ∃ a : Nat, ∃ st : Nat, let d := s.flush.dev; let p := s.flush.dev.partAt pn; let f := s.opnd pn a; (s.Commanded pn 0x20 a st) ∧ (fieldN (f 0 8) 12 3 = 0) ∧ (f 2 6 = 0) ∧ ∃ x : Asid, (bitN (f 0 2) 15 = true) ∧ (∀ l ∈ d.launches, l.2.part = pn → l.2.asid ≠ f 0 2 % 4096) ∧ (d.asidIn pn (f 0 2 % 4096) = some x) ∧ (d.quarantine.length < 4096)) ∧
    (∃ s : State, ∃ pn : Nat, ∃ a : Nat, ∃ st : Nat, let d := s.flush.dev; let p := s.flush.dev.partAt pn; let f := s.opnd pn a; ∃ x : Asid, (s.Commanded pn 0x21 a st) ∧ (f 0 2 < 4096) ∧ (f 2 2 < 64) ∧ (f 4 12 = 0) ∧ (d.asidIn pn (f 0 2) = some x) ∧ ((bitN (f 0x28 8) 2 && bitN (f 0x28 8) 3) = false) ∧ (d.quarantine.length < 4096) ∧ (s.inStacks pn (x.ranges + 32 * f 2 2) 32) ∧ (p.holdsTable x.ranges = true) ∧ (d.FreeOf ((rangeTarget (d.mem.write (x.ranges + 32 * f 2 2) (leBytes 32 (f 0x10 32))) (x.ranges + 32 * f 2 2)).flatMap p.clip) ((rangeTarget d.mem (x.ranges + 32 * f 2 2)).flatMap p.clip))) ∧
    (∃ s : State, ∃ pn : Nat, ∃ a : Nat, ∃ st : Nat, let d := s.flush.dev; let p := s.flush.dev.partAt pn; let f := s.opnd pn a; ∃ x : Asid, ∃ tbl : Nat, (s.Commanded pn 0x22 a st) ∧ (d.asidIn pn (f 0 2) = some x) ∧ (tableAt p d.mem (f 8 8) (f 2 1) 5 x.root = some tbl) ∧ let idx := fieldN (f 8 8) (12 + 9 * (f 2 1 - 1)) 9; (idx + f 4 2 ≤ 512) ∧ (d.quarantine.length < 4096) ∧ (s.inStacks pn tbl 4096) ∧ (pagesArgs f 0) ∧ (∀ i < f 4 2, p.entryIn (f 2 1) (f (0x20 + 8 * i) 8) = true ∧ ¬ (bitN (f (0x20 + 8 * i) 8) 2 = true ∧ bitN (f (0x20 + 8 * i) 8) 3 = true)) ∧ (d.FreeOf ((((List.range (f 4 2)).map fun i => (d.mem.nat (tbl + 8 * (idx + i)) 8, f (0x20 + 8 * i) 8)).flatMap fun e => gainedFrames d.mem (f 2 1) e.1 e.2).flatMap p.clip) ((((List.range (f 4 2)).map fun i => (d.mem.nat (tbl + 8 * (idx + i)) 8, f (0x20 + 8 * i) 8)).flatMap fun e => lostFrames d.mem (f 2 1) e.1 e.2).flatMap p.clip))) ∧
    (∃ s : State, ∃ pn : Nat, ∃ a : Nat, ∃ st : Nat, let d := s.flush.dev; let p := s.flush.dev.partAt pn; let f := s.opnd pn a; ∃ x : Asid, ∃ tbl : Nat, (s.Commanded pn 0x22 a st) ∧ (d.asidIn pn (f 0 2) = some x) ∧ (tableAt p d.mem (f 8 8) (f 2 1) 5 x.root = some tbl) ∧ let idx := fieldN (f 8 8) (12 + 9 * (f 2 1 - 1)) 9; (idx + f 4 2 ≤ 512) ∧ (d.quarantine.length < 4096) ∧ (s.inStacks pn tbl 4096) ∧ (pagesArgs f 1)) ∧
    (∃ s : State, ∃ pn : Nat, ∃ a : Nat, ∃ st : Nat, let d := s.flush.dev; let p := s.flush.dev.partAt pn; let f := s.opnd pn a; ∃ x : Asid, (s.Commanded pn 0x23 a st) ∧ (f 0 2 < 4096) ∧ (f 4 12 = 0) ∧ (d.asidIn pn (f 0 2) = some x) ∧ (f 2 2 < x.ntensors) ∧ (s.inStacks pn (x.tensors + 128 * f 2 2) 128) ∧ (p.holdsTable (x.tensors + 128 * f 2 2) = true)) :=
  ⟨⟨tcommand 0x20 [(0, 2, 4095), (8, 8, 0x10000), (0x10, 8, 0x20800), (0x18, 8, 0x30080), (0x20, 8, 65536)], 0, 0x2000, 0x3000, ⟨(by decide +kernel), (by decide +kernel), (by decide +kernel)⟩, (by decide +kernel), (by decide +kernel), (by decide +kernel), (by decide +kernel), (by decide +kernel), (by decide +kernel), (by decide +kernel), (by decide +kernel), (by decide +kernel), (by decide +kernel), (by decide +kernel), (by unfold Device.FreeOf; decide +kernel)⟩,
   ⟨tcommand 0x20 [(0, 2, 0x8000)], 0, 0x2000, 0x3000, ⟨(by decide +kernel), (by decide +kernel),
     (by decide +kernel)⟩, (by decide +kernel), (by decide +kernel), ⟨0, 0x4000, 0x2000, 0x6000, 8⟩, (by decide +kernel),
     (by decide +kernel), (by decide +kernel), (by decide +kernel)⟩,
   ⟨tcommand 0x21 [(2, 2, 63), (0x10, 8, 0x10000), (0x18, 8, 0x20000), (0x28, 8, 7)], 0, 0x2000, 0x3000, ⟨0, 0x4000, 0x2000, 0x6000, 8⟩, ⟨(by decide +kernel), (by decide +kernel), (by decide +kernel)⟩, (by decide +kernel), (by decide +kernel), (by decide +kernel), (by decide +kernel), (by decide +kernel), (by decide +kernel), ⟨(by decide +kernel), (by decide +kernel)⟩, (by decide +kernel), (by unfold Device.FreeOf; decide +kernel)⟩,
   ⟨tcmd 0x22 0x2000 [(2, 1, 1), (4, 2, 2), (8, 8, 0x1FE000), (0x20, 8, 0x8000000000007007), (0x28, 8, 0x800000000000800B)] tpart ttables, 0, 0x2000, 0x3000, ⟨0, 0x4000, 0x2000, 0x6000, 8⟩, 0x8000, ⟨(by decide +kernel), (by decide +kernel), (by decide +kernel)⟩, (by decide +kernel), (by decide +kernel), (by decide +kernel), (by decide +kernel), ⟨(by decide +kernel), (by decide +kernel)⟩, (by unfold pagesArgs; decide +kernel), (by decide +kernel), (by unfold Device.FreeOf; decide +kernel)⟩,
   ⟨tcmd 0x22 0x2000 [(2, 1, 2), (3, 1, 1), (4, 2, 1)] tpart ttables, 0, 0x2000, 0x3000, ⟨0, 0x4000, 0x2000, 0x6000, 8⟩, 0xA000, ⟨(by decide +kernel), (by decide +kernel), (by decide +kernel)⟩, (by decide +kernel), (by decide +kernel), (by decide +kernel), (by decide +kernel), ⟨(by decide +kernel), (by decide +kernel)⟩, (by unfold pagesArgs; decide +kernel)⟩,
   ⟨tcommand 0x23 [(2, 2, 7), (0x10, 8, 77)], 0, 0x2000, 0x3000, ⟨0, 0x4000, 0x2000, 0x6000, 8⟩, ⟨(by decide +kernel),
     (by decide +kernel), (by decide +kernel)⟩, (by decide +kernel), (by decide +kernel), (by decide +kernel), (by decide +kernel),
     ⟨(by decide +kernel), (by decide +kernel)⟩, (by decide +kernel)⟩⟩

theorem witness_TableCommandsComplete :
    (∃ s : State, ∃ pn : Nat, ∃ a : Nat, ∃ st : Nat, let d := s.flush.dev; let p := s.flush.dev.partAt pn; let f := s.opnd pn a; (s.Commanded pn 0x24 a st) ∧ (f 1 1 ≤ 1) ∧ (1 ≤ f 2 2) ∧ (f 2 2 ≤ 16384) ∧ (f 4 4 < f 2 2)) ∧
    (∃ s : State, ∃ pn : Nat, ∃ a : Nat, ∃ st : Nat, let d := s.flush.dev; let p := s.flush.dev.partAt pn; let f := s.opnd pn a; (s.Commanded pn 0x25 a st) ∧ (f 0 1 < 64) ∧ (f 1 1 < 8) ∧ (f 2 6 = 0) ∧ (f 0x18 2 < 2 ^ 14) ∧ (f 0x1A 2 < 2 ^ 14) ∧ (f 0x1C 4 = 0) ∧ (f 0x28 8 = 0) ∧ (f 8 8 < f 0x10 8) ∧ (p.inPairs (f 0x20 8) (f 0x10 8 - f 8 8) = true)) ∧
    (∃ s : State, ∃ pn : Nat, ∃ a : Nat, ∃ st : Nat, let d := s.flush.dev; let p := s.flush.dev.partAt pn; let f := s.opnd pn a; (s.Commanded pn 0x26 a st) ∧ let b := tgetD d.bridges (f 0 1) .empty; (bridgeArgs f 0) ∧ (1 ≤ f 4 1) ∧ (f 4 1 ≤ 12) ∧ (b.sender = none ∨ b.sender = some (pn, f 2 1)) ∧ (b.receiver = none ∨ b.receiver = some (f 2 1, pn))) ∧
    (∃ s : State, ∃ pn : Nat, ∃ a : Nat, ∃ st : Nat, let d := s.flush.dev; let p := s.flush.dev.partAt pn; let f := s.opnd pn a; (s.Commanded pn 0x26 a st) ∧ let b := tgetD d.bridges (f 0 1) .empty; (bridgeArgs f 1) ∧ (b.receiver = none ∨ b.receiver = some (pn, f 2 1)) ∧ (b.sender = none ∨ b.sender = some (f 2 1, pn))) ∧
    (∃ s : State, ∃ pn : Nat, ∃ a : Nat, ∃ st : Nat, let d := s.flush.dev; let p := s.flush.dev.partAt pn; let f := s.opnd pn a; (s.Commanded pn 0x26 a st) ∧ let b := tgetD d.bridges (f 0 1) .empty; (bridgeArgs f 2) ∧ (f 2 1 ≠ pn) ∧ (b.sender = some (pn, f 2 1)) ∧ (b.receiver = none ∨ b.receiver = some (f 2 1, pn))) ∧
    (∃ s : State, ∃ pn : Nat, ∃ a : Nat, ∃ st : Nat, let d := s.flush.dev; let p := s.flush.dev.partAt pn; let f := s.opnd pn a; (s.Commanded pn 0x26 a st) ∧ let b := tgetD d.bridges (f 0 1) .empty; (bridgeArgs f 2) ∧ (f 2 1 ≠ pn) ∧ (b.receiver = some (pn, f 2 1)) ∧ (b.sender = none ∨ b.sender = some (f 2 1, pn))) ∧
    (∃ s : State, ∃ pn : Nat, ∃ a : Nat, ∃ st : Nat, let d := s.flush.dev; let p := s.flush.dev.partAt pn; let f := s.opnd pn a; (s.Commanded pn 0x29 a st) ∧ (f 0 1 < 16) ∧ (f 2 2 = 0) ∧ (f 0xC 4 = 0) ∧ (f 1 1 = 0) ∧ (1 ≤ f 8 2) ∧ (f 8 2 ≤ 16384) ∧ (f 0xA 2 < f 8 2) ∧ (∀ x ∈ p.pods, x.1 ≠ f 0 1 → x.2.key ≠ f 4 4)) ∧
    (∃ s : State, ∃ pn : Nat, ∃ a : Nat, ∃ st : Nat, let d := s.flush.dev; let p := s.flush.dev.partAt pn; let f := s.opnd pn a; (s.Commanded pn 0x29 a st) ∧ (f 0 1 < 16) ∧ (f 2 2 = 0) ∧ (f 0xC 4 = 0) ∧ (f 1 1 = 1) ∧ (∀ l ∈ d.launches, l.2.part = pn → l.2.podgrp ≠ some (f 0 1))) :=
  ⟨⟨tcommand 0x24 [(0, 1, 255), (1, 1, 1), (2, 2, 2), (4, 4, 1), (8, 8, 0x2100), (0x102, 2, 5)], 0, 0x2000, 0x3000, ⟨(by decide +kernel),
    (by decide +kernel), (by decide +kernel)⟩, (by decide +kernel), (by decide +kernel), (by decide +kernel), (by decide +kernel)⟩,
   ⟨tcommand 0x25 [(0, 1, 63), (1, 1, 7), (0x10, 8, 4096), (0x1A, 2, 9), (0x20, 8, 8192)], 0, 0x2000, 0x3000, ⟨(by decide +kernel),
     (by decide +kernel), (by decide +kernel)⟩, (by decide +kernel), (by decide +kernel), (by decide +kernel), (by decide +kernel),
     (by decide +kernel), (by decide +kernel), (by decide +kernel), (by decide +kernel), (by decide +kernel)⟩,
   ⟨tcommand 0x26 [(0, 1, 15), (2, 1, 1), (4, 1, 12)], 0, 0x2000, 0x3000, ⟨(by decide +kernel), (by decide +kernel),
     (by decide +kernel)⟩, (by unfold bridgeArgs; decide +kernel), (by decide +kernel), (by decide +kernel), (by decide +kernel),
     (by decide +kernel)⟩,
   ⟨tcmd 0x26 0x2000 [(0, 1, 15), (1, 1, 1), (2, 1, 1)] tpart { tidle with bridges := [(15, ⟨some (1, 0), none, 2, [], (0, 0), (0, 0)⟩)] }, 0, 0x2000, 0x3000, ⟨(by decide +kernel), (by decide +kernel), (by decide +kernel)⟩, (by unfold bridgeArgs; decide +kernel), (by decide +kernel), (by decide +kernel)⟩,
   ⟨tcmd 0x26 0x2000 [(0, 1, 15), (1, 1, 2), (2, 1, 1)] tpart { tidle with bridges := [(15, ⟨some (0, 1), some (1, 0), 2, [5], (0, 0), (0, 0)⟩)] }, 0, 0x2000, 0x3000, ⟨(by decide +kernel), (by decide +kernel), (by decide +kernel)⟩, (by unfold bridgeArgs; decide +kernel), (by decide +kernel), (by decide +kernel), (by decide +kernel)⟩,
   ⟨tcmd 0x26 0x2000 [(0, 1, 15), (1, 1, 2), (2, 1, 1)] tpart { tidle with bridges := [(15, ⟨some (1, 0), some (0, 1), 2, [5], (0, 0), (0, 0)⟩)] }, 0, 0x2000, 0x3000, ⟨(by decide +kernel), (by decide +kernel), (by decide +kernel)⟩, (by unfold bridgeArgs; decide +kernel), (by decide +kernel), (by decide +kernel), (by decide +kernel)⟩,
   ⟨tcommand 0x29 [(0, 1, 15), (4, 4, 9), (8, 2, 1), (0x10, 8, 0x2100)], 0, 0x2000, 0x3000, ⟨(by decide +kernel), (by decide +kernel),
     (by decide +kernel)⟩, (by decide +kernel), (by decide +kernel), (by decide +kernel), (by decide +kernel), (by decide +kernel),
     (by decide +kernel), (by decide +kernel), (by decide +kernel)⟩,
   ⟨tcmd 0x29 0x2000 [(0, 1, 15), (1, 1, 1)] { tpart with pods := [(15, ⟨9, 1, 0, [0], false⟩)] } tidle, 0, 0x2000, 0x3000, ⟨(by decide +kernel), (by decide +kernel), (by decide +kernel)⟩, (by decide +kernel), (by decide +kernel), (by decide +kernel), (by decide +kernel), (by decide +kernel)⟩⟩

theorem witness_LoadCancelComplete :
    (∃ s : State, ∃ pn : Nat, ∃ a : Nat, ∃ st : Nat, let d := s.flush.dev; let p := s.flush.dev.partAt pn; let f := s.opnd pn a; ∃ x : Asid, ∃ bs : (List Byte), (s.Commanded pn 0x30 a st) ∧ (f 0x10 8 < 4096) ∧ (f 0x18 8 % 4096 = 0) ∧ (f 0x20 8 % 4096 = 0) ∧ (d.asidIn pn (f 0x10 8) = some x) ∧ (d.readVirt (f 0x10 8) pn (f 0 8) (f 8 8) = some bs)) ∧
    (∃ s : State, ∃ pn : Nat, ∃ a : Nat, ∃ st : Nat, let d := s.flush.dev; let p := s.flush.dev.partAt pn; let f := s.opnd pn a; (s.Commanded pn 0x40 a st) ∧ (f 0 1 < 8) ∧ (f 1 7 = 0) ∧ (f 0 1 = 0 ∨ d.unfetched pn (f 0 1) = 0) ∧ ∃ l : Nat, ∃ y : Launch, ((d.hq pn (f 0 1)).running = some l) ∧ (tget d.launches l = some y) ∧ (y.desc = f 8 8)) ∧
    (∃ s : State, ∃ pn : Nat, ∃ a : Nat, ∃ st : Nat, let d := s.flush.dev; let p := s.flush.dev.partAt pn; let f := s.opnd pn a; (s.Commanded pn 0x40 a st) ∧ (f 0 1 < 8) ∧ (f 1 7 = 0) ∧ (f 0 1 = 0 ∨ d.unfetched pn (f 0 1) = 0) ∧ ((d.hq pn (f 0 1)).running = none) ∧ ((d.hq pn (f 0 1)).waiting.contains (f 8 8) = true)) :=
  ⟨⟨tcommand 0x30 [(0, 8, 64), (8, 8, 128)], 0, 0x2000, 0x3000, ⟨0, 0x4000, 0x2000, 0x6000, 8⟩, 42 :: List.replicate 127 0, ⟨(by decide +kernel), (by decide +kernel), (by decide +kernel)⟩, (by decide +kernel), (by decide +kernel), (by decide +kernel), (by decide +kernel), (by decide +kernel)⟩,
   ⟨tcmd 0x40 0x2000 [(0, 1, 7), (8, 8, 0x8000)] { tpart with queues := [(0, { HQueue.empty with tail := 1 }), (7, { HQueue.empty with running := some 1 })] } { tdev with launches := [(1, { Launch.empty with desc := 0x8000 })] }, 0, 0x2000, 0x3000, ⟨(by decide +kernel), (by decide +kernel), (by decide +kernel)⟩, (by decide +kernel), (by decide +kernel), (.inr (by decide +kernel)), 1, { Launch.empty with desc := 0x8000 }, (by decide +kernel), (by decide +kernel), (by decide +kernel)⟩,
   ⟨tcmd 0x40 0x2000 [(0, 1, 7), (8, 8, 0x8000)] { tpart with queues := [(0, { HQueue.empty with tail := 1 }), (7, { HQueue.empty with waiting := [0x9000, 0x8000] })] } tidle, 0, 0x2000, 0x3000, ⟨(by decide +kernel), (by decide +kernel), (by decide +kernel)⟩, (by decide +kernel), (by decide +kernel), (.inr (by decide +kernel)), (by decide +kernel), (by decide +kernel)⟩⟩

theorem witness_PreemptionCompletes :
    (∃ s : State, ∃ pn : Nat, ∃ a : Nat, ∃ st : Nat, let d := s.flush.dev; let p := s.flush.dev.partAt pn; let f := s.opnd pn a; (s.Commanded pn 0x13 a st) ∧ (f 0 8 % 4096 = 0) ∧ (p.preempt = none) ∧ (p.saved = false) ∧ (p.inPairs (f 0 8) (f 8 8) = true) ∧ (saveSize (countBits p.quads.toNat 128) (d.asids.filter fun x => x.2.part = pn).length ≤ f 8 8)) ∧
    (∃ s : State, ∃ pn : Nat, ∃ a : Nat, ∃ st : Nat, let d := s.flush.dev; let p := s.flush.dev.partAt pn; ∃ base : Nat, ∃ size : Nat, (d.privCmd pn 0x13 = some (a, st)) ∧ (p.preempt = some (base, size)) ∧ (d.drained pn = true) ∧ (s.flush.savePaused pn base = false)) ∧
    (∃ s : State, ∃ pn : Nat, ∃ a : Nat, ∃ st : Nat, let d := s.flush.dev; let p := s.flush.dev.partAt pn; let f := s.opnd pn a; ∃ n : Nat, ∃ x : Saved, (s.Commanded pn 0x14 a st) ∧ (f 0x10 8 ≤ 1) ∧ (∀ l ∈ d.launches, l.2.part ≠ pn) ∧ (d.rangePaused (f 0 8) (f 8 8) = false) ∧ (p.inPairs (f 0 8) (f 8 8) = true) ∧ (d.saveIn (f 0 8) (f 8 8) (f 0x10 8 == 1) = some (n, x)) ∧ (countBits x.quads 128 ≤ (d.liveQuads pn).length) ∧ (countBits x.pairs 8 ≤ countBits p.pairs.toNat 8) ∧ (x.shares.foldl (· + ·) 0 ≤ p.shares.foldl (· + ·) 0)) ∧
    (∃ s : State, ∃ pn : Nat, ∃ a : Nat, ∃ st : Nat, let d := s.flush.dev; let p := s.flush.dev.partAt pn; let f := s.opnd pn a; ∃ n : Nat, ∃ x : Saved, (s.Commanded pn 0x14 a st) ∧ (f 0x10 8 ≤ 1) ∧ (∀ l ∈ d.launches, l.2.part ≠ pn) ∧ (d.rangePaused (f 0 8) (f 8 8) = false) ∧ (p.inPairs (f 0 8) (f 8 8) = true) ∧ (d.saveIn (f 0 8) (f 8 8) (f 0x10 8 == 1) = some (n, x)) ∧ (countBits x.quads 128 ≤ (d.liveQuads pn).length) ∧ (countBits x.pairs 8 ≤ countBits p.pairs.toNat 8) ∧ (x.shares.foldl (· + ·) 0 ≤ p.shares.foldl (· + ·) 0)) :=
  ⟨⟨tcmd 0x13 0x2000 [(0, 8, 0x10000), (8, 8, 0x1000000)] tpart tdev, 0, 0x2000, 0x3000, ⟨(by decide +kernel), (by decide +kernel),
    (by decide +kernel)⟩, (by decide +kernel), (by decide +kernel), (by decide +kernel), (by decide +kernel), (by decide +kernel)⟩,
   ⟨tsaving, 0, 0x2000, 0x3000, 0xC000, 4096, (by decide +kernel), (by decide +kernel), (by decide +kernel), (by decide +kernel)⟩,
   ⟨tcmd 0x14 0x2000 [(0, 8, 0xC000), (8, 8, 0x1000), (0x10, 8, 0)] tpart { tidle with saves := [(0xC000, { tsaved with size := 0, abroad := false })] }, 0, 0x2000, 0x3000, 0xC000, { tsaved with size := 0, abroad := false }, ⟨(by decide +kernel), (by decide +kernel), (by decide +kernel)⟩, (by decide +kernel), (by decide +kernel), (by decide +kernel), (by decide +kernel), (by decide +kernel), (by decide +kernel), (by decide +kernel), (by decide +kernel)⟩,
   ⟨tcmd 0x14 0x2000 [(0, 8, 0xC000), (8, 8, 0x1000), (0x10, 8, 1)] tpart { tidle with saves := [(0xC000, { tsaved with size := 0, abroad := true })] }, 0, 0x2000, 0x3000, 0xC000, { tsaved with size := 0, abroad := true }, ⟨(by decide +kernel), (by decide +kernel), (by decide +kernel)⟩, (by decide +kernel), (by decide +kernel), (by decide +kernel), (by decide +kernel), (by decide +kernel), (by decide +kernel), (by decide +kernel), (by decide +kernel)⟩⟩

theorem witness_SemaphoreRule :
    (∃ s : State, ∃ port : Nat, ∃ n : Nat, (n < 32) ∧ (port < 2) ∧ let d := s.flush.dev; ((d.sem n).held = false)) ∧
    (∃ s : State, ∃ port : Nat, ∃ n : Nat, (n < 32) ∧ (port < 2) ∧ let d := s.flush.dev; ((d.sem n).held = true) ∧
      (¬ ((d.sem n).wonAt = some s.clock ∧ (d.sem n).port ≠ port))) ∧
    (∃ s : State, ∃ port : Nat, ∃ n : Nat, (n < 32) ∧ (port < 2) ∧ let d := s.flush.dev; ((d.sem n).held = true) ∧
      (¬ ((d.sem n).wonAt = some s.clock ∧ (d.sem n).port ≠ port))) ∧
    (∃ s : State, ∃ port : Nat, ∃ n : Nat, (n < 32) ∧ (port < 2) ∧ let d := s.flush.dev; ((d.sem n).held = true) ∧
      (¬ ((d.sem n).wonAt = some s.clock ∧ (d.sem n).port ≠ port))) ∧
    (∃ s : State, ∃ port : Nat, ∃ n : Nat, (n < 32) ∧ (port < 2) ∧ let d := s.flush.dev; ((d.sem n).held = true) ∧
      ((d.sem n).port = 1 - port) ∧ ((d.sem n).wonAt = some s.clock) ∧ (d.tieLast = none ∨ d.tieLast = some 0 ∨ d.tieLast = some 1)) ∧
    (∃ s : State, ∃ port : Nat, ∃ n : Nat, (n < 32) ∧ (port < 2) ∧ let d := s.flush.dev; ((d.sem n).held = true) ∧
      ((d.sem n).port = 1 - port) ∧ ((d.sem n).wonAt = some s.clock) ∧ (d.tieLast = none ∨ d.tieLast = some 0 ∨ d.tieLast = some 1)) ∧
    (∃ s : State, ∃ port : Nat, ∃ n : Nat, (n < 32) ∧ (port < 2) ∧ let d := s.flush.dev; ((d.sem n).held = true) ∧
      ((d.sem n).port = 1 - port) ∧ ((d.sem n).wonAt = some s.clock) ∧ (d.tieLast = none ∨ d.tieLast = some 0 ∨ d.tieLast = some 1)) ∧
    (∃ s : State, ∃ port : Nat, ∃ n : Nat, (n < 32) ∧ (port < 2) ∧ let d := s.flush.dev; ((d.sem n).held = true) ∧
      ((d.sem n).port = port)) ∧
    (∃ s : State, ∃ port : Nat, ∃ n : Nat, (n < 32) ∧
      (port < 2) ∧ let d := s.flush.dev; ((d.sem n).held = false ∨ (d.sem n).port ≠ port)) :=
  ⟨⟨dv (off tstrand) fun d => { d with sems := [], tieLast := none }, 1, 31, (by decide +kernel), (by decide +kernel), (by decide +kernel)⟩,
   ⟨dv (off tstrand) fun d => { d with sems := [(31, ⟨true, 0, 5, none⟩)], tieLast := none }, 1, 31, (by decide +kernel),
     (by decide +kernel), (by decide +kernel), (by decide +kernel)⟩,
   ⟨dv (off tstrand) fun d => { d with sems := [(31, ⟨true, 0, 5, some 999⟩)], tieLast := none }, 1, 31, (by decide +kernel),
     (by decide +kernel), (by decide +kernel), (by decide +kernel)⟩,
   ⟨dv (off tstrand) fun d => { d with sems := [(31, ⟨true, 1, 5, some 1000⟩)], tieLast := none }, 1, 31, (by decide +kernel),
     (by decide +kernel), (by decide +kernel), (by decide +kernel)⟩,
   ⟨dv (off tstrand) fun d => { d with sems := [(31, ⟨true, 0, 5, some 1000⟩)], tieLast := none }, 1, 31, (by decide +kernel),
     (by decide +kernel), (by decide +kernel), (by decide +kernel), (by decide +kernel), (by decide +kernel)⟩,
   ⟨dv (off tstrand) fun d => { d with sems := [(31, ⟨true, 0, 5, some 1000⟩)], tieLast := some 0 }, 1, 31, (by decide +kernel),
     (by decide +kernel), (by decide +kernel), (by decide +kernel), (by decide +kernel), (by decide +kernel)⟩,
   ⟨dv (off tstrand) fun d => { d with sems := [(31, ⟨true, 0, 5, some 1000⟩)], tieLast := some 1 }, 1, 31, (by decide +kernel),
     (by decide +kernel), (by decide +kernel), (by decide +kernel), (by decide +kernel), (by decide +kernel)⟩,
   ⟨dv (off tstrand) fun d => { d with sems := [(31, ⟨true, 1, 5, none⟩)], tieLast := none }, 1, 31, (by decide +kernel),
     (by decide +kernel), (by decide +kernel), (by decide +kernel)⟩,
   ⟨dv (off tstrand) fun d => { d with sems := [(31, ⟨true, 0, 5, none⟩)], tieLast := none }, 1, 31, (by decide +kernel),
     (by decide +kernel), (by decide +kernel)⟩⟩

theorem witness_DebugRegistersComplete :
    (∃ s : State, ∃ port : Nat, ∃ pn : Nat, let d := s.flush.dev; (pn < 8) ∧ (d.holder pn = some port) ∧
      ((d.partAt pn).configured = false)) ∧
    (∃ s : State, ∃ port : Nat, ∃ pn : Nat, let d := s.flush.dev; (d.holder pn ≠ some port ∨ (d.partAt pn).configured = true)) ∧
    (∃ s : State, ∃ port : Nat, ∃ pn : Nat, let d := s.flush.dev; (d.holder pn ≠ some port ∨ (d.partAt pn).configured = true)) ∧
    (∃ off : Nat, (0x140000 ≤ off)) ∧
    (∃ s : State, ∃ port : Nat, ∃ c : Nat, ∃ pn : Nat, ∃ v : Word, let d := s.flush.dev; (d.ownerOf (quadOf c) = some pn) ∧
      (d.holder pn = some port) ∧ (6 ≤ v.toNat / 2 ^ 8 % 32) ∧ (v.toNat / 2 ^ 8 % 32 ≤ 20) ∧ ((d.coreAt c).dbg.ctl.getLsbD 0 = false) ∧
      (v.getLsbD 0 = false)) ∧
    (∃ s : State, ∃ port : Nat, ∃ c : Nat, ∃ pn : Nat, ∃ v : Word, let d := s.flush.dev; (d.ownerOf (quadOf c) = some pn) ∧
      (d.holder pn = some port) ∧ (6 ≤ v.toNat / 2 ^ 8 % 32) ∧ (v.toNat / 2 ^ 8 % 32 ≤ 20) ∧ ((d.coreAt c).dbg.ctl.getLsbD 0 = false) ∧
      (v.getLsbD 0 = true) ∧ (tsizeOk (d.coreAt c).dbg.tsize.toNat = true) ∧
      ((d.partAt pn).bufferOk (d.coreAt c).dbg.tbase.toNat (d.coreAt c).dbg.tsize.toNat = true) ∧
      (d.paused (d.coreAt c).dbg.tbase.toNat = false)) ∧
    (∃ s : State, ∃ port : Nat, ∃ c : Nat, ∃ pn : Nat, let d := s.flush.dev; (d.ownerOf (quadOf c) = some pn) ∧ (d.holder pn ≠ some port)) ∧
    (∃ s : State, ∃ port : Nat, ∃ pn : Nat, ∃ v : Word, (pn < 8) ∧ (s.flush.dev.holder pn = some port) ∧ (v.getLsbD 0 = true)) ∧
    (∃ s : State, ∃ port : Nat, ∃ pn : Nat, ∃ v : Word, (pn < 8) ∧ (s.flush.dev.holder pn = some port) ∧ (v.getLsbD 0 = true) ∧
      ((s.flush.dev.partAt pn).stop = none)) ∧
    (∃ s : State, ∃ port : Nat, ∃ pn : Nat, ∃ v : Word, (pn < 8) ∧ (s.flush.dev.holder pn = some port) ∧ (v.getLsbD 0 = true) ∧
      ((s.flush.dev.partAt pn).stop.isSome = true) ∧ ∃ c : Nat, ∃ sl : Nat, ∃ st : Strand, ∃ i : Nat, ∃ q : Path, ((s.flush.dev.partAt pn).hasQuad (quadOf c) = true) ∧ (s.flush.strandAt c sl = some st) ∧ (tget st.paths i = some q) ∧ (q.status = .debug)) ∧
    (∃ s : State, ∃ pn : Nat, ∃ t0 : Nat, ((s.flush.dev.partAt pn).trial = some t0) ∧ (t0 ≤ s.clock)) ∧
    (∃ s : State, ∃ pn : Nat, ∃ t0 : Nat, ((s.flush.dev.partAt pn).trial = some t0) ∧ (s.clock < t0)) ∧
    (∃ s : State, ∃ u : State, ∃ p : PRef, ∃ n : Nat, (s.load p.core p.slot p.path = some u) ∧ (u.path.status = .ready) ∧
      (u.breakpoint = some n) ∧ (u.part.stop = none)) ∧
    (∃ s : State, ∃ c : Nat, ∃ sl : Nat, ∃ i : Nat, ∃ st : Strand, ∃ q : Path, let co := s.flush.dev.coreAt c; (co.dbg.on 4 = true) ∧
      (co.dbg.sampledAt + 2 ^ (co.dbg.ctl.toNat / 2 ^ 8 % 32) ≤ s.clock) ∧ (nextSlot co.dbg.sampleSlot co.sampled = some sl) ∧
      (tget co.strands sl = some st) ∧ ∃ k : Nat, ((k = (if co.dbg.sampleNext.getLsbD sl then 1 else 0) ∨ k = 1 - (if co.dbg.sampleNext.getLsbD sl then 1 else 0) ∧ ∀ e ∈ st.paths, e.2.slot ≠ some (if co.dbg.sampleNext.getLsbD sl then 1 else 0))) ∧ (st.paths.find? (fun p => p.2.slot == some k) = some (i, q))) ∧
    (∃ s : State, ∃ c : Nat, ∃ sl : Nat, ∃ i : Nat, ∃ st : Strand, ∃ q : Path, let co := s.flush.dev.coreAt c; (co.dbg.on 4 = true) ∧
      (co.dbg.sampledAt + 2 ^ (co.dbg.ctl.toNat / 2 ^ 8 % 32) ≤ s.clock) ∧ (nextSlot co.dbg.sampleSlot co.sampled = some sl) ∧
      (tget co.strands sl = some st) ∧ ∃ k : Nat, ((k = (if co.dbg.sampleNext.getLsbD sl then 1 else 0) ∨ k = 1 - (if co.dbg.sampleNext.getLsbD sl then 1 else 0) ∧ ∀ e ∈ st.paths, e.2.slot ≠ some (if co.dbg.sampleNext.getLsbD sl then 1 else 0))) ∧ (st.paths.find? (fun p => p.2.slot == some k) = some (i, q))) :=
  ⟨⟨dv (off tstrand) fun d => { d with sems := [(0, ⟨true, 1, 0, none⟩)], parts := [(0, { tpart with configured := false })] }, 1, 0, (by decide +kernel), (by decide +kernel), (by decide +kernel)⟩,
   ⟨dv (off tstrand) fun d => { d with sems := [(0, ⟨true, 1, 0, none⟩)], parts := [(0, tpart)] }, 1, 0, (.inr (by decide +kernel))⟩,
   ⟨dv (off tstrand) fun d => { d with sems := [(0, ⟨true, 1, 0, none⟩)], parts := [(0, { tpart with configured := false })] }, 0, 0, (.inl (by decide +kernel))⟩,
   ⟨0x140000, (by decide +kernel)⟩,
   ⟨dv (off tstrand) fun d => { d with sems := [(0, ⟨true, 1, 0, none⟩)], parts := [(0, tpart)], cores := [(0, { tcore with dbg := { Debug.reset with ctl := 0, tbase := 0x10000, tsize := 4096 } })] }, 1, 0, 0, 0xFFFFFFFFFFFFF4FE, (by decide +kernel), (by decide +kernel), (by decide +kernel), (by decide +kernel), (by decide +kernel), (by decide +kernel)⟩,
   ⟨dv (off tstrand) fun d => { d with sems := [(0, ⟨true, 1, 0, none⟩)], parts := [(0, tpart)], cores := [(0, { tcore with dbg := { Debug.reset with ctl := 0, tbase := 0x10000, tsize := 4096 } })] }, 1, 0, 0, 0x1F0601, (by decide +kernel), (by decide +kernel), (by decide +kernel), (by decide +kernel), (by decide +kernel), (by decide +kernel), (by decide +kernel), (by decide +kernel), (by decide +kernel)⟩,
   ⟨dv (off tstrand) fun d => { d with sems := [(0, ⟨true, 1, 0, none⟩)], parts := [(0, tpart)], cores := [(0, { tcore with dbg := { Debug.reset with ctl := 0, tbase := 0x10000, tsize := 4096 } })] }, 0, 0, 0, (by decide +kernel), (by decide +kernel)⟩,
   ⟨dv (off tstrand) fun d => { d with sems := [(0, ⟨true, 1, 0, none⟩)], parts := [(0, { tpart with ctdur := 50 })] }, 1, 0, 1, (by decide +kernel), (by decide +kernel), (by decide +kernel)⟩,
   ⟨dv (off tstrand) fun d => { d with sems := [(0, ⟨true, 1, 0, none⟩)], parts := [(0, tpart)] }, 1, 0, 1, (by decide +kernel),
     (by decide +kernel), (by decide +kernel), (by decide +kernel)⟩,
   ⟨dv (off tstrand) fun d => { d with sems := [(0, ⟨true, 1, 0, none⟩)], parts := [(0, { tpart with stop := some ⟨1, 0, 0, 0, 0, 0, false⟩ })], cores := [(0, { tcore with strands := [(0, { tstrand with paths := [(0, { tpath with status := .debug })] })] })] }, 1, 0, 1, (by decide +kernel), (by decide +kernel), (by decide +kernel), (by decide +kernel), 0, 0, { tstrand with paths := [(0, { tpath with status := .debug })] }, 0, { tpath with status := .debug }, (by decide +kernel), (by decide +kernel), (by decide +kernel), (by decide +kernel)⟩,
   ⟨dv (off tstrand) fun d => { d with sems := [(0, ⟨true, 1, 0, none⟩)], parts := [(0, { tpart with trial := some 1000, ctstat := 1 })] }, 0, 1000, (by decide +kernel), (by decide +kernel)⟩,
   ⟨dv (off tstrand) fun d => { d with sems := [(0, ⟨true, 1, 0, none⟩)], parts := [(0, { tpart with trial := some 1001, ctstat := 1 })] }, 0, 1001, (by decide +kernel), (by decide +kernel)⟩,
   ⟨dv (off tstrand) fun d => { d with sems := [(0, ⟨true, 1, 0, none⟩)], parts := [(0, { tpart with bps := [(3, 9)] })] }, loaded (dv (off tstrand) fun d => { d with sems := [(0, ⟨true, 1, 0, none⟩)], parts := [(0, { tpart with bps := [(3, 9)] })] }), ⟨0, 0, 0⟩, 3, (by decide +kernel), (by decide +kernel), (by decide +kernel), (by decide +kernel)⟩,
   ⟨dv (off tstrand) fun d => { d with sems := [(0, ⟨true, 1, 0, none⟩)], parts := [(0, tpart)], cores := [(0, { tcore with dbg := { Debug.reset with ctl := 0x611, slots := 1, tbase := 0x10000, tsize := 4096, sampleNext := 0 } })] }, 0, 0, 0, tstrand, tpath, (by decide +kernel), (by decide +kernel), (by decide +kernel), (by decide +kernel), 0, (by decide +kernel), (by decide +kernel)⟩,
   ⟨dv (off tstrand) fun d => { d with sems := [(0, ⟨true, 1, 0, none⟩)], parts := [(0, tpart)], cores := [(0, { tcore with dbg := { Debug.reset with ctl := 0x611, slots := 1, tbase := 0x10000, tsize := 4096, sampleNext := 1 } })] }, 0, 0, 0, tstrand, tpath, (by decide +kernel), (by decide +kernel), (by decide +kernel), (by decide +kernel), 0, (by decide +kernel), (by decide +kernel)⟩⟩

theorem witness_ReliabilityCompletes :
    (∃ s : State, ∃ port : Nat, (port < 2) ∧ (s.flush.dev.linkAt port = none)) ∧
    (∃ s : State, ∃ port : Nat, ∃ t0 : Nat, (s.flush.dev.linkAt port = some t0) ∧ (s.clock < t0 + 1600)) ∧
    (∃ s : State, ∃ port : Nat, ∃ t0 : Nat, (s.flush.dev.linkAt port = some t0) ∧ (t0 + 1600 ≤ s.clock)) ∧
    (∃ s : State, ∃ die : Nat, (die < 4) ∧ ((s.flush.dev.dieAt die).fenced = false)) ∧
    (∃ s : State, ∃ die : Nat, (die < 4) ∧
      ((s.flush.dev.dieAt die).fenced = false) ∧ ∃ l : Nat, ∃ x : Launch, (tget s.flush.dev.launches l = some x) ∧
      ((s.flush.dev.launches.map (·.1)).Nodup) ∧ (s.flush.dev.struck l die x = true) ∧ (x.reissuable = false) ∧ (x.ending = none)) ∧
    (∃ s : State, ∃ pn : Nat, ∃ c : Nat, ∃ m : Nat, ∃ ms : (List Nat), ((s.flush.dev.partAt pn).electing = some c) ∧
      (s.flush.dev.diesOf pn = m :: ms)) ∧
    (∃ s : State, ∃ n : Nat, ((s.flush.dev.stack n).fenced = false) ∧ (n < 16) ∧ ((s.flush.dev.stack n).refresh = none)) ∧
    (∃ s : State, ∃ n : Nat, ((s.flush.dev.stack n).fenced = false) ∧ ∃ c : Nat, ((s.flush.dev.stack n).refresh = some c)) ∧
    (∃ s : State, ∃ n : Nat, ((s.flush.dev.stack n).fenced = false) ∧ ∃ c : Nat, ((s.flush.dev.stack n).refresh = some c) ∧
      (c + 8000000 ≤ s.clock)) :=
  ⟨⟨off tstrand, 1, (by decide +kernel), (by decide +kernel)⟩,
   ⟨dv (off tstrand) fun d => { d with links := [(1, some 0)], sems := [(0, ⟨true, 0, 4, none⟩), (5, ⟨true, 1, 9, none⟩)] }, 1, 0, (by decide +kernel), (by decide +kernel)⟩,
   ⟨{ dv (off tstrand) (fun d => { d with links := [(1, some 0)], sems := [(0, ⟨true, 0, 4, none⟩), (5, ⟨true, 1, 9, none⟩)] }) with clock := 1600 }, 1, 0, (by decide +kernel), (by decide +kernel)⟩,
   ⟨dv (off tstrand) fun d => { d with parts := [(0, tpart)] }, 0, (by decide +kernel), (by decide +kernel)⟩,
   ⟨off tstrand, 0, (by decide +kernel), (by decide +kernel), 1, { Launch.empty with pmax := 3 }, (by decide +kernel),
     (by decide +kernel), (by decide +kernel), (by decide +kernel), (by decide +kernel)⟩,
   ⟨dv (off tstrand) fun d => { d with parts := [(0, { tpart with electing := some 500, quads := BitVec.ofNat 128 (2 ^ 33) })] }, 0, 500, 1, [], (by decide +kernel), (by decide +kernel)⟩,
   ⟨off tstrand, 15, (by decide +kernel), (by decide +kernel), (by decide +kernel)⟩,
   ⟨dv (off tstrand) fun d => { d with hbmStacks := [(15, ⟨some 1, false⟩)] }, 15, (by decide +kernel), 1, (by decide +kernel)⟩,
   ⟨{ dv (off tstrand) (fun d => { d with hbmStacks := [(15, ⟨some 1, false⟩)] }) with clock := 8000001 }, 15, (by decide +kernel),
     1, (by decide +kernel), (by decide +kernel)⟩⟩

theorem witness_FabricCompletes :
    (∃ s : State, ∃ port : Nat, (s.flush.dev.holder 8 = some port)) ∧
    (∃ s : State, ∃ port : Nat, (s.flush.dev.holder 8 ≠ some port)) ∧
    (∃ s : State, ∃ pn : Nat, ∃ slot : Nat, ∃ x : PodSlot, (tget (s.flush.dev.partAt pn).pods slot = some x)) ∧
    (∃ s : State, ∃ pn : Nat, ∃ dev : Nat, ∃ addr : Word, ∃ r : RemoteReq, let d := s.flush.dev; let grant := (d.partAt pn).exports.findSome? fun e => e.2.grants (d.partAt pn) dev addr.toNat r; (grant = none)) ∧
    (∃ s : State, ∃ pn : Nat, ∃ dev : Nat, ∃ addr : Word, ∃ r : RemoteReq, let d := s.flush.dev; let grant := (d.partAt pn).exports.findSome? fun e => e.2.grants (d.partAt pn) dev addr.toNat r; (grant = none)) ∧
    (∃ s : State, ∃ pn : Nat, ∃ dev : Nat, ∃ addr : Word, ∃ who : RemoteStrand, ∃ r : RemoteReq, let d := s.flush.dev; let grant := (d.partAt pn).exports.findSome? fun e => e.2.grants (d.partAt pn) dev addr.toNat r; ∃ a : Nat, (grant = some a) ∧ (∀ i < reqLen r, d.paused (a + i) = false ∧ d.lost (a + i) = false) ∧ ∃ n : Nat, (r = .load n) ∧ (¬ (who.sid ≠ 0 ∧ (reqAccs a (reqLen r)).any (s.flush.races (remoteIdentity dev who.sid) who.core (reqWrites r)) = true))) ∧
    (∃ s : State, ∃ pn : Nat, ∃ dev : Nat, ∃ addr : Word, ∃ who : RemoteStrand, ∃ r : RemoteReq, let d := s.flush.dev; let grant := (d.partAt pn).exports.findSome? fun e => e.2.grants (d.partAt pn) dev addr.toNat r; ∃ a : Nat, (grant = some a) ∧ (∀ i < reqLen r, d.paused (a + i) = false ∧ d.lost (a + i) = false) ∧ ∃ bs : (List Byte), (r = .store bs) ∧ (¬ (who.sid ≠ 0 ∧ (reqAccs a (reqLen r)).any (s.flush.races (remoteIdentity dev who.sid) who.core (reqWrites r)) = true))) ∧
    (∃ s : State, ∃ pn : Nat, ∃ dev : Nat, ∃ addr : Word, ∃ who : RemoteStrand, ∃ r : RemoteReq, let d := s.flush.dev; let grant := (d.partAt pn).exports.findSome? fun e => e.2.grants (d.partAt pn) dev addr.toNat r; ∃ a : Nat, (grant = some a) ∧ (∀ i < reqLen r, d.paused (a + i) = false ∧ d.lost (a + i) = false) ∧ (reqPlain r = true) ∧ (who.sid ≠ 0 ∧ (reqAccs a (reqLen r)).any (s.flush.races (remoteIdentity dev who.sid) who.core (reqWrites r)) = true)) ∧
    (∃ s : State, ∃ pn : Nat, ∃ dev : Nat, ∃ addr : Word, ∃ r : RemoteReq, let d := s.flush.dev; let grant := (d.partAt pn).exports.findSome? fun e => e.2.grants (d.partAt pn) dev addr.toNat r; ∃ a : Nat, (grant = some a) ∧ (∀ i < reqLen r, d.paused (a + i) = false ∧ d.lost (a + i) = false) ∧ ∃ k : AtomK, ∃ ty : Ty, ∃ v : Word, ∃ w : Word, (r = .atomic k ty v w)) :=
  ⟨⟨dv (off tstrand) fun d => { d with devt := 0, sems := [(8, ⟨true, 1, 0, none⟩)] }, 1, (by decide +kernel)⟩,
   ⟨dv (off tstrand) fun d => { d with devt := 0 }, 1, (by decide +kernel)⟩,
   ⟨dv (off tstrand) fun d => { d with sems := [(0, ⟨true, 1, 0, none⟩)], parts := [(0, { tpart with pods := [(2, ⟨9, 1, 0, [16384], false⟩)] })] }, 0, 2, ⟨9, 1, 0, [16384], false⟩, (by decide +kernel)⟩,
   ⟨dv (off tstrand) fun d => { d with sems := [(0, ⟨true, 1, 0, none⟩)], parts := [(0, { tpart with exports := [(3, ⟨true, true, true, 4096, 8192, 7, 9, 0x10000⟩)] })] }, 0, 9, 8185, .load 8, (by decide +kernel)⟩,
   ⟨dv (off tstrand) fun d => { d with sems := [(0, ⟨true, 1, 0, none⟩)], parts := [(0, { tpart with exports := [(3, ⟨true, true, true, 4096, 8192, 7, 9, 0x10000⟩)] })] }, 0, 10, 8184, .load 8, (by decide +kernel)⟩,
   ⟨dv (off tstrand) fun d => { d with sems := [(0, ⟨true, 1, 0, none⟩)], parts := [(0, { tpart with exports := [(3, ⟨true, true, true, 4096, 8192, 7, 9, 0x10000⟩)] })] }, 0, 9, 8184, ⟨0, 0, 1, []⟩, .load 8, 0x10FF8, (by decide +kernel), (by decide +kernel), 8, (by decide +kernel), (by decide +kernel)⟩,
   ⟨dv (off tstrand) fun d => { d with sems := [(0, ⟨true, 1, 0, none⟩)], parts := [(0, { tpart with exports := [(3, ⟨true, true, true, 4096, 8192, 7, 9, 0x10000⟩)] })] }, 0, 9, 4096, ⟨0, 0, 1, []⟩, .store [1, 2], 0x10000, (by decide +kernel), (by decide +kernel), [1, 2], (by decide +kernel), (by decide +kernel)⟩,
   ⟨dv (off tstrand) fun d => { d with sems := [(0, ⟨true, 1, 0, none⟩)], ctags := [(2048, { CTag.empty with writer := remoteIdentity 9 7, wmask := 3 })], remRel := [(remoteIdentity 9 7, ⟨512, []⟩)], parts := [(0, { tpart with exports := [(3, ⟨true, true, true, 4096, 8192, 7, 9, 0x10000⟩)] })] }, 0, 9, 4096, ⟨5, 512, 1, []⟩, .store [1, 2], 0x10000, (by decide +kernel), (by decide +kernel), (by decide +kernel), (by decide +kernel)⟩,
   ⟨dv (off tstrand) fun d => { d with sems := [(0, ⟨true, 1, 0, none⟩)], parts := [(0, { tpart with exports := [(3, ⟨true, true, true, 4096, 8192, 7, 9, 0x10000⟩)] })] }, 0, 9, 4100, .atomic .add .i32 3 0, 0x10004, (by decide +kernel), (by decide +kernel), .add, .i32, 3, 0, (by decide +kernel)⟩⟩

theorem witness_CountedReads :
    (∃ i : Instr, ∃ s : State, ∃ r : Form, (IntegerForm s i r ∨ MoveForm s i r ∨ FloatForm s i r) ∧ (s.path.windowOpen = false) ∧
      (s.path.hasReads (readNames r.srcs) = false)) ∧
    (∃ i : Instr, ∃ s : State, ∃ r : Form, (IntegerForm s i r ∨ MoveForm s i r ∨ FloatForm s i r) ∧ (s.path.windowOpen = false) ∧
      (s.CanRead r.srcs (s.enabled r.d r.mask)) ∧ ∃ n : Name, ∃ c : (BitVec 4), (destName r.d = some (n, c)) ∧
      (((s.afterReads r.srcs).path.get n).any Rec.live = true)) ∧
    (∃ i : Instr, ∃ s : State, ∃ r : Form, (IntegerForm s i r ∨ MoveForm s i r ∨ FloatForm s i r) ∧ (s.path.windowOpen = false) ∧
      (s.CanRun r)) :=
  ⟨⟨_, ts, _, (.inl (.add ⟨0, .i32, .vec 3 1, .vec 1, .vec 9⟩)), (by decide +kernel), (by decide +kernel)⟩,
   ⟨_, at' ts { tpath with v := tpath.v ++ [(3, vrec 1 [])] }, _, (.inl (.add ⟨0, .i32, .vec 3 1, .vec 1, .vec 2⟩)), (by decide +kernel),
     (canRead (by decide +kernel)), .vec 3, 1, (by decide +kernel), (by decide +kernel)⟩,
   ⟨_, ts, _, (.inr (.inr (.fadd ⟨0, .f32, .vec 3 1, .vec 1, .vec 2⟩))), (by decide +kernel),
     ⟨(canRead (by decide +kernel)), (canWriteV (by decide +kernel) (by decide +kernel))⟩⟩⟩

theorem witness_StepRunsDecoded :
    (∃ s : State, ∃ u : State, ∃ dt : Nat, ∃ c : Nat, ∃ sl : Nat, ∃ p : Nat, ∃ ts : (List Turn), ∃ rest : (List (Nat × Nat)), ∃ w : Word, (s.turns = ⟨dt, .core c⟩ :: ts) ∧ let v := ({ s with turns := ts } : State).tick dt; ((v.flush.dev.coreAt c).order v.clock = (sl, p) :: rest) ∧ (v.load c sl p = some u) ∧ (u.canIssue = true) ∧ (u.breakpoint = none) ∧ (u.path.blk.wordAt u.path.pc = some w) ∧ (u.path.hasWord = true) ∧ ∃ i : Instr, ∃ t : State, (decode w (u.path.blk.wordAt (u.path.pc + 8)) = .ok i) ∧ (gateOf u.path (majorOf w) (usesInstr i) = .go) ∧ (u.pipeFree i = true) ∧ (u.streamHolds i = false) ∧ (exec i u = .next t) ∧ (progressed v (t.occupied u c i) c sl p = true)) ∧
    (∃ s : State, ∃ u : State, ∃ dt : Nat, ∃ c : Nat, ∃ sl : Nat, ∃ p : Nat, ∃ ts : (List Turn), ∃ rest : (List (Nat × Nat)), ∃ w : Word, (s.turns = ⟨dt, .core c⟩ :: ts) ∧ let v := ({ s with turns := ts } : State).tick dt; ((v.flush.dev.coreAt c).order v.clock = (sl, p) :: rest) ∧ (v.load c sl p = some u) ∧ (u.canIssue = true) ∧ (u.breakpoint = none) ∧ (u.path.blk.wordAt u.path.pc = some w) ∧ (u.path.hasWord = true) ∧ ∃ i : Instr, ∃ t : State, (decode w (u.path.blk.wordAt (u.path.pc + 8)) = .ok i) ∧ (gateOf u.path (majorOf w) (usesInstr i) = .go) ∧ (u.pipeFree i = true) ∧ (u.streamHolds i = false) ∧ (exec i u = .next t) ∧ (progressed v (t.occupied u c i) c sl p = false)) ∧
    (∃ s : State, ∃ u : State, ∃ dt : Nat, ∃ c : Nat, ∃ sl : Nat, ∃ p : Nat, ∃ ts : (List Turn), ∃ rest : (List (Nat × Nat)), ∃ w : Word, (s.turns = ⟨dt, .core c⟩ :: ts) ∧ let v := ({ s with turns := ts } : State).tick dt; ((v.flush.dev.coreAt c).order v.clock = (sl, p) :: rest) ∧ (v.load c sl p = some u) ∧ (u.canIssue = true) ∧ (u.breakpoint = none) ∧ (u.path.blk.wordAt u.path.pc = some w) ∧ (u.path.hasWord = true) ∧ ∃ n : Nat, (decode w (u.path.blk.wordAt (u.path.pc + 8)) = .error n) ∧ (u.path.window = none)) :=
  ⟨⟨tissue 0x0400040290040400, inFocus (tissue 0x0400040290040400), 0, 0, 0, 0, [], [], 0x0400040290040400, (by decide +kernel),
    (by decide +kernel), (by decide +kernel), (by decide +kernel), (by decide +kernel), (by decide +kernel), (by decide +kernel),
    addI, tAdd, (okVal_eq (by decide +kernel)), (by decide +kernel), (by decide +kernel), (by decide +kernel),
    tAdd_eq, (by decide +kernel)⟩,
   ⟨tissueMissing, inFocus (tissueMissing), 0, 0, 0, 0, [], [], 0x0400040290040400, (by decide +kernel), (by decide +kernel),
     (by decide +kernel), (by decide +kernel), (by decide +kernel), (by decide +kernel), (by decide +kernel),
     addI, tStall, (okVal_eq (by decide +kernel)), (by decide +kernel), (by decide +kernel), (by decide +kernel),
     tStall_eq, (by decide +kernel)⟩,
   ⟨tissue 0, inFocus (tissue 0), 0, 0, 0, 0, [], [], 0, (by decide +kernel), (by decide +kernel), (by decide +kernel),
     (by decide +kernel), (by decide +kernel), (by decide +kernel), (by decide +kernel),
     1, (errOf_eq (by decide +kernel)), (by decide +kernel)⟩⟩

theorem witness_EncodingRoundTrip : ∃ i : Instr, (i.wf = true) ∧ (i.isEvent = false) :=
  ⟨.add ⟨0, .i32, .vec 5 2, .vec 1, .vec 2⟩, (by decide +kernel), (by decide +kernel)⟩

theorem witness_StepKeepsMemoryForm : ∃ s : State, ∃ t : State, (s.Inv) ∧ (step s = .next t) :=
  ⟨tissue 0, okNext (step (tissue 0)), (by unfold State.Inv; decide +kernel), (okNext_eq (by decide +kernel))⟩

end Sys2Proof.Tests
end

section
/-! PROOF. Decoding the bytes of an encoded instruction gives it back (O58). From the bottom up: the bytes of a word, the fields of
a word, the operand of each field, the steps of the decoder, then a lemma for each form of R55 and the case split over `Instr`. -/
namespace Sys2Proof.Encoding

/-! ## Bytes of words (R3, R45) -/

/-- The word above byte `k`, put together from the word above byte `k + 1` and byte `k`. -/
theorem shiftRight_eq_or_byte (w : Word) (k : Nat) :
    w >>> (8 * (k + 1)) <<< 8 ||| (w.extractLsb' (8 * k) 8).setWidth 64 = w >>> (8 * k) := by
  ext i hi
  by_cases h : i < 8
  · simp [h]
  · simp [h, show 8 * (k + 1) + (i - 8) = 8 * k + i by omega]

theorem wordOfBytes_range' (w : Word) (n k : Nat) (h : 8 ≤ k + n) :
    wordOfBytes ((List.range' k n).map fun i => w.extractLsb' (8 * i) 8) = w >>> (8 * k) := by
  induction n generalizing k with
  | zero => exact (BitVec.ushiftRight_eq_zero (by omega)).symm
  | succ n ih => rw [List.range'_succ, List.map_cons, wordOfBytes, ih (k + 1) (by omega), shiftRight_eq_or_byte]

@[simp] theorem wordOfBytes_bytesOfWord (w : Word) : wordOfBytes (bytesOfWord w) = w := by
  simpa [bytesOfWord, List.range_eq_range'] using wordOfBytes_range' w 8 0 (by decide)

@[simp] theorem length_bytesOfWord (w : Word) : (bytesOfWord w).length = 8 := by simp [bytesOfWord]

@[simp] theorem take_bytesOfWord_append (w : Word) (bs : List Byte) : (bytesOfWord w ++ bs).take 8 = bytesOfWord w :=
  List.take_left' (length_bytesOfWord w)

@[simp] theorem drop_bytesOfWord_append (w : Word) (bs : List Byte) : (bytesOfWord w ++ bs).drop 8 = bs :=
  List.drop_left' (length_bytesOfWord w)

/-- The bytes of the words decode to the instruction, whatever bytes follow. -/
def Decodes (ws : List Word) (i : Instr) : Prop :=
  ∀ rest, decodeBytes (ws.flatMap bytesOfWord ++ rest) = .ok (i, rest)

theorem decodes_word {w : Word} {i : Instr} (hl : isLong (fieldsOf w).maj.toNat = false) (h : decode w none = .ok i) :
    Decodes [w] i := by
  intro rest
  have hlen (n : Nat) : ¬ 8 + n < 8 := by omega
  simp only [decodeBytes, List.flatMap_cons, List.flatMap_nil, List.append_nil, List.length_append, length_bytesOfWord,
    take_bytesOfWord_append, drop_bytesOfWord_append, wordOfBytes_bytesOfWord, if_neg (hlen _), hl, Bool.false_eq_true,
    if_false, h, Except.map]

theorem decodes_words {w p : Word} {i : Instr} (hl : isLong (fieldsOf w).maj.toNat = true)
    (h : decode w (some p) = .ok i) : Decodes [w, p] i := by
  intro rest
  have hlen (n : Nat) : ¬ 8 + n < 8 := by omega
  simp only [decodeBytes, List.flatMap_cons, List.flatMap_nil, List.append_nil, List.append_assoc, List.length_append,
    length_bytesOfWord, take_bytesOfWord_append, drop_bytesOfWord_append, wordOfBytes_bytesOfWord, if_neg (hlen _), hl,
    if_true, h, Except.map]

/-! ## Fields of words (R46 to R49) -/

@[simp] theorem bv4_zero : bv4 0 = 0#4 := rfl

theorem fieldsOf_wordOf (f : Fields) : fieldsOf (wordOf f) = f := by
  simp (disch := decide) only [fieldsOf, wordOf, bitsAt, BitVec.extractLsb'_append_eq_of_add_le,
    BitVec.extractLsb'_append_eq_of_le]
  simp

@[simp] theorem fieldsOf_wA (maj min : Nat) (la mask : Fin 16) (ty : Nat) (flag : Bool) (dest : BitVec 8) (cnt : BitVec 4)
    (a b c : BitVec 9) : fieldsOf (wA maj min la mask ty flag dest cnt a b c) = ⟨BitVec.ofNat 6 maj, BitVec.ofNat 6 min,
      bv4 la, bv4 mask, BitVec.ofNat 4 ty, BitVec.ofBool flag, dest, cnt, a, b, c⟩ :=
  fieldsOf_wordOf _

@[simp] theorem fieldsOf_wL (maj min : Nat) (la mask : Fin 16) (body : BitVec 44) :
    fieldsOf (wL maj min la mask body) = ⟨BitVec.ofNat 6 maj, BitVec.ofNat 6 min, bv4 la, bv4 mask,
      body.extractLsb' 40 4, body.extractLsb' 39 1, body.extractLsb' 31 8, body.extractLsb' 27 4,
      body.extractLsb' 18 9, body.extractLsb' 9 9, body.extractLsb' 0 9⟩ := by
  simp (disch := decide) only [fieldsOf, wL, bitsAt, BitVec.extractLsb'_append_eq_of_add_le,
    BitVec.extractLsb'_append_eq_of_le]
  simp

@[simp] theorem append_fields_18 (x : BitVec 18) : x.extractLsb' 9 9 ++ x.extractLsb' 0 9 = x :=
  (BitVec.extractLsb'_append_extractLsb'_eq_extractLsb' rfl).trans BitVec.extractLsb'_eq_self

@[simp] theorem append_fields_27 (x : BitVec 27) :
    x.extractLsb' 18 9 ++ x.extractLsb' 9 9 ++ x.extractLsb' 0 9 = x := by
  have h : x.extractLsb' 18 9 ++ x.extractLsb' 9 9 = x.extractLsb' 9 (9 + 9) :=
    BitVec.extractLsb'_append_extractLsb'_eq_extractLsb' rfl
  rw [h]
  exact (BitVec.extractLsb'_append_extractLsb'_eq_extractLsb' rfl).trans BitVec.extractLsb'_eq_self

/-! ## Operand fields (R50 to R54) -/

@[simp] theorem fin16_bv4 (x : Fin 16) : fin16 (bv4 x) = x := by
  simp [fin16, bv4]

@[simp] theorem fin16_zero : fin16 0#4 = 0 := rfl

@[simp] theorem fin16_ofFin (x : Fin 16) : fin16 (BitVec.ofFin x) = x := rfl

@[simp] theorem ofBool_beq_one (b : Bool) : (BitVec.ofBool b == 1#1) = b := by cases b <;> rfl

@[simp] theorem ofBool_beq_zero (b : Bool) : (BitVec.ofBool b == 0#1) = !b := by cases b <;> rfl

theorem Ty.code_lt (t : Ty) : t.code < 16 := by cases t <;> decide

@[simp] theorem tyOf_code (t : Ty) : tyOf (BitVec.ofNat 4 t.code) = t := by cases t <;> rfl

/-- Bits of a field that holds a number. -/
theorem extractLsb'_ofNat (n x lo len : Nat) (h : x < 2 ^ n) :
    (BitVec.ofNat n x).extractLsb' lo len = BitVec.ofNat len (x / 2 ^ lo) := by
  apply BitVec.eq_of_toNat_eq
  rw [BitVec.extractLsb'_toNat, BitVec.toNat_ofNat, BitVec.toNat_ofNat, Nat.mod_eq_of_lt h, Nat.shiftRight_eq_div_pow]

@[simp] theorem srcOf_srcBits (s : Src) : srcOf (srcBits s) = some s := by
  cases s with
  | vec n =>
    have hn := n.isLt
    have hc : n.val / 128 = 0 := by omega
    simp [srcOf, srcBits, extractLsb'_ofNat 9 n.val _ _ (by omega), hc]
  | scl n =>
    have hn := n.isLt
    have hc : (128 + n.val) / 128 = 1 := by omega
    have hz : (128 + n.val) / 64 = 2 := by omega
    simp [srcOf, srcBits, extractLsb'_ofNat 9 (128 + n.val) _ _ (by omega), hc, hz, Fin.ext_iff]
    omega
  | walker n =>
    have hn := n.isLt
    have hc : (256 + n.val) / 128 = 2 := by omega
    have hk : (256 + n.val) / 16 = 16 := by omega
    have hz : (256 + n.val) / 8 = 32 := by omega
    simp [srcOf, srcBits, extractLsb'_ofNat 9 (256 + n.val) _ _ (by omega), hc, hk, hz, Fin.ext_iff]
    omega
  | special n =>
    have hn := n.isLt
    have hc : (272 + n.val) / 128 = 2 := by omega
    have hk : (272 + n.val) / 16 = 17 := by omega
    simp [srcOf, srcBits, extractLsb'_ofNat 9 (272 + n.val) _ _ (by omega), hc, hk, Fin.ext_iff]
    omega
  | const c =>
    have hn := c.isLt
    have hc : (384 + c.toNat) / 128 = 3 := by omega
    simp [srcOf, srcBits, extractLsb'_ofNat 9 (384 + c.toNat) _ _ (by omega), hc, BitVec.toNat_eq]
    omega

theorem scBits_scl (n : Fin 64) : scBits (.scl n) = srcBits (.scl n) := rfl
theorem scBits_const (c : BitVec 7) : scBits (.const c) = srcBits (.const c) := rfl

@[simp] theorem scOf_scBits (s : SC) : scOf (scBits s) = some s := by
  cases s with
  | scl n => rw [scBits_scl, scOf, srcOf_srcBits]
  | const c => rw [scBits_const, scOf, srcOf_srcBits]

theorem toNat_setWidth_seven (k : BitVec 6) : (k.setWidth 7).toNat = k.toNat :=
  BitVec.toNat_setWidth_of_le (by decide)

/-- A constant from 0 to 63 has the code of its value as a source. -/
theorem idxBits_eq_srcBits (k : BitVec 6) : idxBits k = srcBits (.const (k.setWidth 7)) := by
  rw [srcBits, toNat_setWidth_seven, idxBits]

@[simp] theorem idxOf_idxBits (k : BitVec 6) : idxOf (idxBits k) = some k := by
  have hk : (k.setWidth 7).toNat < 64 := toNat_setWidth_seven k ▸ k.isLt
  simp only [idxBits_eq_srcBits, idxOf, srcOf_srcBits, if_pos hk]
  simp

@[simp] theorem afOf_afBits (x : AField) : afOf (afBits x) = some x := by
  cases x with
  | scl n => rw [show afBits (.scl n) = srcBits (.scl n) from rfl, afOf, srcOf_srcBits]
  | const k =>
    have hk : (k.setWidth 7).toNat < 64 := toNat_setWidth_seven k ▸ k.isLt
    rw [show afBits (.const k) = idxBits k from rfl]
    simp only [idxBits_eq_srcBits, afOf, srcOf_srcBits, if_pos hk]
    simp

@[simp] theorem vecOf_ofNat (n : Fin 128) : vecOf (BitVec.ofNat 9 n.val) = some n := by
  rw [show BitVec.ofNat 9 n.val = srcBits (.vec n) from rfl, vecOf, srcOf_srcBits]

@[simp] theorem maskOf_maskBits (m : Fin 16) : maskOf (maskBits m) = some m := by
  have hm := m.isLt
  have hz : m.val / 16 = 0 := by omega
  simp [maskOf, maskBits, extractLsb'_ofNat 9 m.val _ _ (by omega), hz]

@[simp] theorem mdestOf_mdestBits {m : Fin 16} (h : (m != 0) = true) : mdestOf (mdestBits m) 1#4 = some m := by
  have hm := m.isLt
  have hb (lo len : Nat) : (mdestBits m).extractLsb' lo len = BitVec.ofNat len (m.val / 2 ^ lo) :=
    extractLsb'_ofNat 8 m.val lo len (by omega)
  have hz : mdestBits m ≠ 0 := by
    rw [mdestBits, ne_eq, BitVec.toNat_eq, BitVec.toNat_ofNat, Nat.mod_eq_of_lt (by omega)]
    exact fun h0 => bne_iff_ne.mp h (Fin.ext h0)
  rw [mdestOf, if_pos ⟨rfl, by rw [hb, show m.val / 2 ^ 4 = 0 by omega]; rfl, hz⟩, hb]
  simp

/-- The bit that tells a vector name from a scalar name (R51). -/
theorem classBit_vec (n : Fin 128) : (nameBits (.vec n)).extractLsb' 7 1 = 0#1 := by
  have hn := n.isLt
  rw [nameBits, extractLsb'_ofNat 8 n.val _ _ (by omega), show n.val / 2 ^ 7 = 0 by omega]

@[simp] theorem nameOf_nameBits (x : Name) : nameOf (nameBits x) = some x := by
  cases x with
  | vec n =>
    have hn := n.isLt
    simp only [nameOf, classBit_vec]
    simp [nameBits, extractLsb'_ofNat 8 n.val _ _ (by omega)]
  | scl n =>
    have hn := n.isLt
    have hc : (128 + n.val) / 128 = 1 := by omega
    have hz : (128 + n.val) / 64 = 2 := by omega
    simp [nameOf, nameBits, extractLsb'_ofNat 8 (128 + n.val) _ _ (by omega), hc, hz, Fin.ext_iff]
    omega

/-- A destination field with a count that is not 0 holds a name. -/
theorem destOf_of_count_ne_zero (d : BitVec 8) {c : BitVec 4} (h : c ≠ 0) : destOf d c =
    match nameOf d with
    | some (.vec n) => some (.vec n c)
    | some (.scl n) => some (.scl n c)
    | none => none := by
  by_cases hv : d.extractLsb' 7 1 = 0
  · simp only [destOf, nameOf, if_neg h, if_pos hv]
  · by_cases hs : d.extractLsb' 6 1 = 0
    · simp only [destOf, nameOf, if_neg h, if_neg hv, if_pos hs]
    · simp only [destOf, nameOf, if_neg h, if_neg hv, if_neg hs]

theorem destBits_vec (n : Fin 128) (c : BitVec 4) : destBits (.vec n c) = nameBits (.vec n) := rfl
theorem destBits_scl (n : Fin 64) (c : BitVec 4) : destBits (.scl n c) = nameBits (.scl n) := rfl

@[simp] theorem destOf_destBits {d : Dest} (h : d.ok = true) : destOf (destBits d) (cntBits d) = some d := by
  cases d with
  | sink => rfl
  | vec n c =>
    rw [destBits_vec, cntBits, destOf_of_count_ne_zero _ (by simpa [Dest.ok] using h), nameOf_nameBits]
  | scl n c =>
    rw [destBits_scl, cntBits, destOf_of_count_ne_zero _ (by simpa [Dest.ok] using h), nameOf_nameBits]

theorem ok_of_okScl {d : Dest} (h : d.okScl = true) : d.ok = true := by
  cases d with
  | vec n c => exact nomatch h
  | sink | scl n c => exact h

theorem ok_of_okVec {d : Dest} (h : d.okVec = true) : d.ok = true := by
  cases d with
  | scl n c => exact nomatch h
  | sink | vec n c => exact h

@[simp] theorem destScl_destBits {d : Dest} (h : d.okScl = true) : destScl (destBits d) (cntBits d) = some d := by
  rw [destScl, destOf_destBits (ok_of_okScl h)]
  cases d with
  | vec n c => exact nomatch h
  | sink | scl n c => rfl

@[simp] theorem sclDest_nameBits (n : Fin 64) : sclDest (nameBits (.scl n)) 0#4 = some n := by
  simp [sclDest]

/-- R69: a scalar destination goes with mask field 0. -/
@[simp] theorem maskField_destBits {d : Dest} {m : Fin 16} (h : maskOk d m = true) (maj min la ty flag cnt a b c) :
    Fields.maskField ⟨maj, min, la, bv4 m, ty, flag, destBits d, cnt, a, b, c⟩ = true := by
  cases d with
  | sink => simp [Fields.maskField, destBits]
  | vec n c => simp [Fields.maskField, destBits_vec, classBit_vec]
  | scl n c =>
    obtain rfl : m = 0 := by simpa [maskOk, Dest.isScl] using h
    simp [Fields.maskField]

/-- R240: a scalar data name goes with mask field 0. -/
@[simp] theorem maskField_nameBits {x : Name} {m : Fin 16} (h : x.isScl = true → m = 0) (maj min la ty flag cnt a b c) :
    Fields.maskField ⟨maj, min, la, bv4 m, ty, flag, nameBits x, cnt, a, b, c⟩ = true := by
  cases x with
  | vec n => simp [Fields.maskField, classBit_vec]
  | scl n =>
    obtain rfl : m = 0 := h rfl
    simp [Fields.maskField]

/-! ## Steps of the decoder (R59) -/

@[simp] theorem chk_true (n : Nat) : chk n true = .ok () := rfl
@[simp] theorem need_some (n : Nat) {α : Type} (x : α) : need n (some x) = .ok x := rfl
@[simp] theorem ok_bind {α β : Type} (x : α) (g : α → Dec β) : ((.ok x : Dec α) >>= g) = g x := rfl
@[simp] theorem pure_eq_ok {α : Type} (x : α) : (pure x : Dec α) = .ok x := rfl

section register
variable {tyOk : Ty → Bool} {tb tc : Ty → Ty} {maj min : BitVec 6}

theorem decAlu_one {mk : Op1 → Instr} {o : Op1} (h : o.wf tyOk = true) :
    decAlu tyOk tb tc (.one mk) ⟨maj, min, 0#4, bv4 o.mask, BitVec.ofNat 4 o.ty.code, 0#1, destBits o.d, cntBits o.d,
      srcBits o.a, 0#9, 0#9⟩ = .ok (mk o) := by
  simp only [Op1.wf, Bool.and_eq_true] at h
  obtain ⟨⟨⟨hty, hd⟩, hm⟩, ha⟩ := h
  simp [decAlu, hty, hd, hm, ha]

theorem decAlu_two {mk : Op2 → Instr} {o : Op2} (h : o.wf tyOk = true) :
    decAlu tyOk id tc (.two mk) ⟨maj, min, 0#4, bv4 o.mask, BitVec.ofNat 4 o.ty.code, 0#1, destBits o.d, cntBits o.d,
      srcBits o.a, srcBits o.b, 0#9⟩ = .ok (mk o) := by
  simp only [Op2.wf, Bool.and_eq_true] at h
  obtain ⟨⟨⟨⟨hty, hd⟩, hm⟩, ha⟩, hb⟩ := h
  simp [decAlu, hty, hd, hm, ha, hb]

/-- The addend of a dot product is read in its own type (R163), every other third source in the type of the instruction. -/
theorem decAlu_three {mk : Op3 → Instr} {o : Op3} (hty : tyOk o.ty = true) (hd : o.d.ok = true)
    (hm : maskOk o.d o.mask = true) (ha : srcOk o.d o.ty o.a = true) (hb : srcOk o.d o.ty o.b = true)
    (hc : srcOk o.d (tc o.ty) o.c = true) :
    decAlu tyOk id tc (.three mk) ⟨maj, min, 0#4, bv4 o.mask, BitVec.ofNat 4 o.ty.code, 0#1, destBits o.d, cntBits o.d,
      srcBits o.a, srcBits o.b, srcBits o.c⟩ = .ok (mk o) := by
  simp [decAlu, hty, hd, hm, ha, hb, hc]

theorem decAlu_three_of_wf {mk : Op3 → Instr} {o : Op3} (h : o.wf tyOk = true) :
    decAlu tyOk id id (.three mk) ⟨maj, min, 0#4, bv4 o.mask, BitVec.ofNat 4 o.ty.code, 0#1, destBits o.d, cntBits o.d,
      srcBits o.a, srcBits o.b, srcBits o.c⟩ = .ok (mk o) := by
  simp only [Op3.wf, Bool.and_eq_true] at h
  obtain ⟨⟨⟨⟨⟨hty, hd⟩, hm⟩, ha⟩, hb⟩, hc⟩ := h
  exact decAlu_three hty hd hm ha hb hc

theorem decAlu_three_of_dotWf {mk : Op3 → Instr} {o : Op3} (h : o.dotWf tyOk = true) :
    decAlu tyOk id dotC (.three mk) ⟨maj, min, 0#4, bv4 o.mask, BitVec.ofNat 4 o.ty.code, 0#1, destBits o.d, cntBits o.d,
      srcBits o.a, srcBits o.b, srcBits o.c⟩ = .ok (mk o) := by
  simp only [Op3.dotWf, Bool.and_eq_true] at h
  obtain ⟨⟨⟨⟨⟨hty, hd⟩, hm⟩, ha⟩, hb⟩, hc⟩ := h
  exact decAlu_three hty hd hm ha hb hc

end register

/-! ## The decoder of each major (R55), as a rule for `Decodes` -/

section majors
variable {w p : Word} {i : Instr}

theorem decodes_of_major01 (hm : (fieldsOf w).maj.toNat = 0x01)
    (h : (need 2 (alu01 (fieldsOf w).min.toNat) >>= fun x => decAlu Ty.isInt id id x (fieldsOf w)) = .ok i) : Decodes [w] i :=
  decodes_word (by rw [hm]; rfl) (by simpa only [decode, hm] using h)

theorem decodes_of_major02 (hm : (fieldsOf w).maj.toNat = 0x02)
    (h : (need 2 (imm02 (fieldsOf w).min.toNat) >>= fun x => decImm x.1 x.2 (fieldsOf w)) = .ok i) : Decodes [w] i :=
  decodes_word (by rw [hm]; rfl) (by simpa only [decode, hm] using h)

theorem decodes_of_major03 (hm : (fieldsOf w).maj.toNat = 0x03)
    (h : (need 2 (cmp03 (fieldsOf w).min.toNat) >>= fun x => decCmp x (fieldsOf w)) = .ok i) : Decodes [w] i :=
  decodes_word (by rw [hm]; rfl) (by simpa only [decode, hm] using h)

theorem decodes_of_major04 (hm : (fieldsOf w).maj.toNat = 0x04)
    (h : (need 2 (cmp04 (fieldsOf w).min.toNat) >>= fun x => decCmpI x (fieldsOf w)) = .ok i) : Decodes [w] i :=
  decodes_word (by rw [hm]; rfl) (by simpa only [decode, hm] using h)

theorem decodes_of_major05 (hm : (fieldsOf w).maj.toNat = 0x05) (h : dec05 (fieldsOf w) = .ok i) : Decodes [w] i :=
  decodes_word (by rw [hm]; rfl) (by simpa only [decode, hm] using h)

theorem decodes_of_major08 (hm : (fieldsOf w).maj.toNat = 0x08) (h : dec08 (fieldsOf w) = .ok i) : Decodes [w] i :=
  decodes_word (by rw [hm]; rfl) (by simpa only [decode, hm] using h)

theorem decodes_of_major09 (hm : (fieldsOf w).maj.toNat = 0x09) (h : dec09 (fieldsOf w) = .ok i) : Decodes [w] i :=
  decodes_word (by rw [hm]; rfl) (by simpa only [decode, hm] using h)

theorem decodes_of_major10 (hm : (fieldsOf w).maj.toNat = 0x10)
    (h : (need 2 (alu10 (fieldsOf w).min.toNat) >>= fun x => decAlu Ty.isFp id id x (fieldsOf w)) = .ok i) : Decodes [w] i :=
  decodes_word (by rw [hm]; rfl) (by simpa only [decode, hm] using h)

theorem decodes_of_major11 (hm : (fieldsOf w).maj.toNat = 0x11) (h : dec11 (fieldsOf w) = .ok i) : Decodes [w] i :=
  decodes_word (by rw [hm]; rfl) (by simpa only [decode, hm] using h)

theorem decodes_of_major12 (hm : (fieldsOf w).maj.toNat = 0x12) (h : dec12 (fieldsOf w) = .ok i) : Decodes [w] i :=
  decodes_word (by rw [hm]; rfl) (by simpa only [decode, hm] using h)

theorem decodes_of_major13 (hm : (fieldsOf w).maj.toNat = 0x13) (h : dec13 (fieldsOf w) = .ok i) : Decodes [w] i :=
  decodes_word (by rw [hm]; rfl) (by simpa only [decode, hm] using h)

theorem decodes_of_major14 (hm : (fieldsOf w).maj.toNat = 0x14) (h : dec14 (fieldsOf w) = .ok i) : Decodes [w] i :=
  decodes_word (by rw [hm]; rfl) (by simpa only [decode, hm] using h)

theorem decodes_of_major20 (hm : (fieldsOf w).maj.toNat = 0x20) (h : dec20 (fieldsOf w) = .ok i) : Decodes [w] i :=
  decodes_word (by rw [hm]; rfl) (by simpa only [decode, hm] using h)

theorem decodes_of_major21 (hm : (fieldsOf w).maj.toNat = 0x21) (h : dec21 (fieldsOf w) = .ok i) : Decodes [w] i :=
  decodes_word (by rw [hm]; rfl) (by simpa only [decode, hm] using h)

theorem decodes_of_major22 (hm : (fieldsOf w).maj.toNat = 0x22) (h : dec22 (fieldsOf w) = .ok i) : Decodes [w] i :=
  decodes_word (by rw [hm]; rfl) (by simpa only [decode, hm] using h)

theorem decodes_of_major23 (hm : (fieldsOf w).maj.toNat = 0x23) (h : dec23 (fieldsOf w) = .ok i) : Decodes [w] i :=
  decodes_word (by rw [hm]; rfl) (by simpa only [decode, hm] using h)

theorem decodes_of_major28 (hm : (fieldsOf w).maj.toNat = 0x28)
    (h : (need 2 (ld28 (fieldsOf w).min.toNat) >>= fun x => decLoad notE2m1 false x (fieldsOf w)) = .ok i) : Decodes [w] i :=
  decodes_word (by rw [hm]; rfl) (by simpa only [decode, hm] using h)

theorem decodes_of_major29 (hm : (fieldsOf w).maj.toNat = 0x29)
    (h : (need 2 (st29 (fieldsOf w).min.toNat) >>= fun x => decStore notE2m1 false x (fieldsOf w)) = .ok i) : Decodes [w] i :=
  decodes_word (by rw [hm]; rfl) (by simpa only [decode, hm] using h)

theorem decodes_of_major2C (hm : (fieldsOf w).maj.toNat = 0x2C) (h : decAtom (fieldsOf w) = .ok i) : Decodes [w] i :=
  decodes_word (by rw [hm]; rfl) (by simpa only [decode, hm] using h)

theorem decodes_of_major2D (hm : (fieldsOf w).maj.toNat = 0x2D) (h : dec2D (fieldsOf w) = .ok i) : Decodes [w] i :=
  decodes_word (by rw [hm]; rfl) (by simpa only [decode, hm] using h)

theorem decodes_of_major2E (hm : (fieldsOf w).maj.toNat = 0x2E) (h : dec2E (fieldsOf w) = .ok i) : Decodes [w] i :=
  decodes_word (by rw [hm]; rfl) (by simpa only [decode, hm] using h)

theorem decodes_of_major30 (hm : (fieldsOf w).maj.toNat = 0x30) (h : dec30 (fieldsOf w) = .ok i) : Decodes [w] i :=
  decodes_word (by rw [hm]; rfl) (by simpa only [decode, hm] using h)

theorem decodes_of_major31 (hm : (fieldsOf w).maj.toNat = 0x31) (h : dec31 (fieldsOf w) = .ok i) : Decodes [w] i :=
  decodes_word (by rw [hm]; rfl) (by simpa only [decode, hm] using h)

theorem decodes_of_major32 (hm : (fieldsOf w).maj.toNat = 0x32) (h : dec32 (fieldsOf w) = .ok i) : Decodes [w] i :=
  decodes_word (by rw [hm]; rfl) (by simpa only [decode, hm] using h)

theorem decodes_of_major3C (hm : (fieldsOf w).maj.toNat = 0x3C) (h : dec3C (fieldsOf w) = .ok i) : Decodes [w] i :=
  decodes_word (by rw [hm]; rfl) (by simpa only [decode, hm] using h)

theorem decodes_of_major07 (hm : (fieldsOf w).maj.toNat = 0x07) (hn : (fieldsOf w).min = 0)
    (h : dec07 (fieldsOf w) p = .ok i) : Decodes [w, p] i :=
  decodes_words (by rw [hm]; rfl) (by simpa [decode, hm, hn] using h)

theorem decodes_of_major0A (hm : (fieldsOf w).maj.toNat = 0x0A) (hn : (fieldsOf w).min.toNat < 3)
    (h : dec0A (fieldsOf w) w p = .ok i) : Decodes [w, p] i :=
  decodes_words (by rw [hm]; rfl) (by simpa [decode, hm, hn] using h)

theorem decodes_of_major15 (hm : (fieldsOf w).maj.toNat = 0x15) (hn : (fieldsOf w).min.toNat < 8)
    (h : dec15 (fieldsOf w) w p = .ok i) : Decodes [w, p] i :=
  decodes_words (by rw [hm]; rfl) (by simpa [decode, hm, hn] using h)

theorem decodes_of_major36 (hm : (fieldsOf w).maj.toNat = 0x36) (hn : (fieldsOf w).min.toNat < 4)
    (h : dec36 (fieldsOf w) w p = .ok i) : Decodes [w, p] i :=
  decodes_words (by rw [hm]; rfl) (by simpa [decode, hm, hn] using h)

theorem decodes_of_major37 (hm : (fieldsOf w).maj.toNat = 0x37) (hn : (fieldsOf w).min.toNat < 4)
    (h : dec37 (fieldsOf w) w p = .ok i) : Decodes [w, p] i :=
  decodes_words (by rw [hm]; rfl) (by simpa [decode, hm, hn] using h)

theorem decodes_of_major38 (hm : (fieldsOf w).maj.toNat = 0x38) (hn : (fieldsOf w).min.toNat < 2)
    (h : dec38 (fieldsOf w) w p = .ok i) : Decodes [w, p] i :=
  decodes_words (by rw [hm]; rfl) (by simpa [decode, hm, hn] using h)

theorem decodes_of_major39 (hm : (fieldsOf w).maj.toNat = 0x39) (hn : (fieldsOf w).min.toNat < 2)
    (h : dec39 (fieldsOf w) w p = .ok i) : Decodes [w, p] i :=
  decodes_words (by rw [hm]; rfl) (by simpa [decode, hm, hn] using h)

end majors

/-! ## Majors 0x01 to 0x05 and 0x10 (R74 to R82, R154) -/

section alu
variable {x : Nat}

theorem decodes_enc1_01 {mk : Op1 → Instr} (hx : alu01 (x % 64) = some (.one mk)) {o : Op1} (h : o.wf Ty.isInt = true) :
    Decodes (enc1 0x01 x o) (mk o) :=
  decodes_of_major01 (by simp) (by simp [hx, decAlu_one h])

theorem decodes_enc2_01 {mk : Op2 → Instr} (hx : alu01 (x % 64) = some (.two mk)) {o : Op2} (h : o.wf Ty.isInt = true) :
    Decodes (enc2 0x01 x o) (mk o) :=
  decodes_of_major01 (by simp) (by simp [hx, decAlu_two h])

theorem decodes_enc3_01 {mk : Op3 → Instr} (hx : alu01 (x % 64) = some (.three mk)) {o : Op3} (h : o.wf Ty.isInt = true) :
    Decodes (enc3 0x01 x o) (mk o) :=
  decodes_of_major01 (by simp) (by simp [hx, decAlu_three_of_wf h])

theorem decodes_enc1_10 {mk : Op1 → Instr} (hx : alu10 (x % 64) = some (.one mk)) {o : Op1} (h : o.wf Ty.isFp = true) :
    Decodes (enc1 0x10 x o) (mk o) :=
  decodes_of_major10 (by simp) (by simp [hx, decAlu_one h])

theorem decodes_enc2_10 {mk : Op2 → Instr} (hx : alu10 (x % 64) = some (.two mk)) {o : Op2} (h : o.wf Ty.isFp = true) :
    Decodes (enc2 0x10 x o) (mk o) :=
  decodes_of_major10 (by simp) (by simp [hx, decAlu_two h])

theorem decodes_enc3_10 {mk : Op3 → Instr} (hx : alu10 (x % 64) = some (.three mk)) {o : Op3} (h : o.wf Ty.isFp = true) :
    Decodes (enc3 0x10 x o) (mk o) :=
  decodes_of_major10 (by simp) (by simp [hx, decAlu_three_of_wf h])

theorem decodes_encI {shift : Bool} {mk : OpI → Instr} (hx : imm02 (x % 64) = some (shift, mk)) {o : OpI}
    (h : o.wf shift = true) : Decodes (encI x o) (mk o) := by
  have hwf := h
  simp only [OpI.wf, Bool.and_eq_true] at h
  obtain ⟨⟨⟨⟨hty, hd⟩, hm⟩, -⟩, -⟩ := h
  exact decodes_of_major02 (by simp [wI]) (by simp [wI, hx, decImm, Fields.imm18, hty, hd, hm, hwf])

theorem decodes_encCmp {mk : CmpOp → Instr} (hx : cmp03 (x % 64) = some mk) {o : CmpOp} (h : o.wf = true) :
    Decodes (encCmp x o) (mk o) := by
  have hwf := h
  simp only [CmpOp.wf, Bool.and_eq_true] at h
  obtain ⟨⟨⟨⟨hty, hu⟩, hmd⟩, -⟩, -⟩ := h
  exact decodes_of_major03 (by simp) (by simp [hx, decCmp, hty, hu, hmd, hwf])

theorem decodes_encCmpI {mk : CmpIOp → Instr} (hx : cmp04 (x % 64) = some mk) {o : CmpIOp} (h : o.wf = true) :
    Decodes (encCmpI x o) (mk o) := by
  have hwf := h
  simp only [CmpIOp.wf, Bool.and_eq_true] at h
  obtain ⟨⟨⟨hty, hu⟩, hmd⟩, -⟩ := h
  exact decodes_of_major04 (by simp [wI]) (by simp [wI, hx, decCmpI, Fields.imm18, hty, hu, hmd, hwf])

end alu

theorem decodes_mov {o : Op1} (h : o.wf Ty.isMov = true) : Decodes (encode (.mov o)) (.mov o) :=
  decodes_of_major05 (by simp) (by simp [dec05, decAlu_one h])

theorem decodes_movi {o : MoviOp} (h : o.wf = true) : Decodes (encode (.movi o)) (.movi o) := by
  simp only [MoviOp.wf, Bool.and_eq_true] at h
  obtain ⟨⟨⟨hmov, hint⟩, hd⟩, hm⟩ := h
  exact decodes_of_major05 (by simp [wB]) (by simp [wB, dec05, Fields.off27, hmov, hint, hd, hm])

theorem decodes_drop {x : Name} {c : BitVec 4} (h : (c != 0#4) = true) : Decodes (encode (.drop x c)) (.drop x c) :=
  decodes_of_major05 (by simp) (by simp [dec05, h])

theorem decodes_hold {x : Name} {c : BitVec 4} (h : (c != 0#4) = true) : Decodes (encode (.hold x c)) (.hold x c) :=
  decodes_of_major05 (by simp) (by simp [dec05, h])

theorem decodes_mmov {m md : Fin 16} {a : MSrc} (hmd : (md != 0) = true) (ha : a.wf = true) :
    Decodes (encode (.mmov m md a)) (.mmov m md a) := by
  cases a with
  | mask ms => exact decodes_of_major05 (by simp) (by simp [dec05, hmd])
  | value t a =>
    simp only [MSrc.wf, Bool.and_eq_true] at ha
    obtain ⟨hty, hsrc⟩ := ha
    exact decodes_of_major05 (by simp) (by simp [dec05, hmd, hty, hsrc])

theorem decodes_msel {o : MselOp} (h : o.wf = true) : Decodes (encode (.msel o)) (.msel o) := by
  simp only [MselOp.wf, Bool.and_eq_true] at h
  obtain ⟨⟨⟨hty, hd⟩, ha⟩, hb⟩ := h
  exact decodes_of_major05 (by simp) (by simp [dec05, hty, hd, ok_of_okVec hd, ha, hb])

/-! ## Majors 0x06 to 0x0A (R84 to R93) -/

theorem decLea_of_leaWf {mk : Op3 → Instr} {o : Op3} (h : o.leaWf = true) (maj min : BitVec 6) :
    decLea mk ⟨maj, min, 0#4, bv4 o.mask, BitVec.ofNat 4 o.ty.code, 0#1, destBits o.d, cntBits o.d, srcBits o.a, srcBits o.b,
      srcBits o.c⟩ = .ok (mk o) := by
  have hwf := h
  simp only [Op3.leaWf, Bool.and_eq_true] at h
  obtain ⟨⟨⟨⟨⟨hty, hd⟩, hm⟩, -⟩, -⟩, -⟩ := h
  simp [decLea, notE2m1, hty, hd, hm, hwf]

theorem decodes_lea {o : Op3} (h : o.leaWf = true) : Decodes (encode (.lea o)) (.lea o) :=
  decodes_word (by simp [isLong]) (by simp [decode, decLea_of_leaWf h])

theorem decodes_leax {o : Op3} (h : o.leaWf = true) : Decodes (encode (.leax o)) (.leax o) :=
  decodes_word (by simp [isLong]) (by simp [decode, decLea_of_leaWf h])

theorem decodes_br (off : BitVec 27) : Decodes (encode (.br off)) (.br off) :=
  decodes_of_major08 (by simp [wB]) (by simp [wB, dec08, Fields.off27])

theorem decodes_brd (mc : Fin 16) (neg : Bool) (off : BitVec 27) : Decodes (encode (.brd mc neg off)) (.brd mc neg off) :=
  decodes_of_major08 (by simp [wB]) (by simp [wB, dec08, Fields.off27])

theorem decodes_brnz (x : Fin 64) (off : BitVec 27) : Decodes (encode (.brnz x off)) (.brnz x off) :=
  decodes_of_major08 (by simp [wB]) (by simp [wB, dec08, Fields.off27])

theorem decodes_brz (x : Fin 64) (off : BitVec 27) : Decodes (encode (.brz x off)) (.brz x off) :=
  decodes_of_major08 (by simp [wB]) (by simp [wB, dec08, Fields.off27])

theorem decodes_call {d : Dest} (h : d.okScl = true) (off : BitVec 27) : Decodes (encode (.call d off)) (.call d off) :=
  decodes_of_major08 (by simp [wB]) (by simp [wB, dec08, Fields.off27, h])

theorem decodes_callx {d : Dest} (h : d.okScl = true) (t : Fin 64) : Decodes (encode (.callx d t)) (.callx d t) :=
  decodes_of_major08 (by simp) (by simp [dec08, h])

theorem decodes_ret (x : Fin 64) : Decodes (encode (.ret x)) (.ret x) :=
  decodes_of_major08 (by simp [wB]) (by simp [wB, dec08, Fields.off27])

theorem decodes_exit : Decodes (encode .exit) .exit :=
  decodes_of_major08 (by simp [wB]) (by simp [wB, dec08, Fields.off27])

/-- D stands in cond bits 3:2 (R91). -/
theorem brw_cond (e : Fin 3) : (BitVec.ofNat 4 (4 * e.val)).extractLsb' 0 2 = 0#2 ∧
    ((BitVec.ofNat 4 (4 * e.val)).extractLsb' 2 2).toNat = e.val := by
  revert e; decide

theorem brw_walker (w : Fin 8) : (BitVec.ofNat 8 w.val).extractLsb' 3 5 = 0#5 ∧
    ((BitVec.ofNat 8 w.val).extractLsb' 0 3).toFin = w := by
  revert w; decide

theorem decodes_brw (w : Fin 8) (e : Fin 3) (s : Bool) (off : BitVec 27) :
    Decodes (encode (.brw w e s off)) (.brw w e s off) := by
  obtain ⟨hz, he⟩ := brw_cond e
  obtain ⟨hw, hf⟩ := brw_walker w
  exact decodes_of_major09 (by simp [wB])
    (by simp [-BitVec.extractLsb'_toNat, -BitVec.toFin_extractLsb', wB, dec09, Fields.off27, hz, he, hw, hf])

theorem decodes_movl {o : MovlOp} (h : o.wf = true) : Decodes (encode (.movl o)) (.movl o) := by
  simp only [MovlOp.wf, Bool.and_eq_true, Nat.reducePow] at h
  obtain ⟨⟨⟨hty, hd⟩, hm⟩, himm⟩ := h
  refine decodes_of_major07 (by simp) (by simp) ?_
  simp (disch := decide) only [fieldsOf_wL, BitVec.extractLsb'_append_eq_of_add_le,
    BitVec.extractLsb'_append_eq_of_le]
  simp [dec07, Fields.off27, hty, hd, hm, himm]

theorem decodes_wset (o : WsetOp) : Decodes (encode (.wset o)) (.wset o) := by
  refine decodes_of_major0A (by simp) (by simp) ?_
  simp (disch := decide) only [dec0A, fieldsOf, wL, bitsAt, BitVec.extractLsb'_append_eq_of_add_le,
    BitVec.extractLsb'_append_eq_of_le]
  simp

theorem decodes_wrd {d : Dest} (h : d.okScl = true) (w : Fin 8) (sel : BitVec 2) :
    Decodes (encode (.wrd d w sel)) (.wrd d w sel) := by
  refine decodes_of_major0A (by simp) (by simp) ?_
  simp (disch := decide) only [dec0A, fieldsOf, wL, bitsAt, BitVec.extractLsb'_append_eq_of_add_le,
    BitVec.extractLsb'_append_eq_of_le]
  simp [h, Fields.off27]

theorem decodes_wend (w : Fin 8) : Decodes (encode (.wend w)) (.wend w) := by
  refine decodes_of_major0A (by simp) (by simp) ?_
  simp (disch := decide) only [dec0A, fieldsOf, wL, bitsAt, BitVec.extractLsb'_append_eq_of_add_le,
    BitVec.extractLsb'_append_eq_of_le]
  simp

/-! ## Majors 0x11 to 0x15 (R155 to R167) -/

theorem decodes_fdiv {o : Fn2} (h : o.wf = true) : Decodes (encode (.fdiv o)) (.fdiv o) := by
  simp only [Fn2.wf, Bool.and_eq_true] at h
  obtain ⟨⟨⟨⟨hty, hd⟩, hm⟩, ha⟩, hb⟩ := h
  exact decodes_of_major11 (by simp) (by simp [dec11, hty, hd, hm, ha, hb])

theorem decodes_encFn1 {x : Nat} {tyOk : Ty → Bool} {mk : Fn1 → Instr} (hx : fn11 (x % 64) = some (tyOk, mk)) {o : Fn1}
    (h : o.wf tyOk = true) : Decodes (encFn1 x o) (mk o) := by
  simp only [Fn1.wf, Bool.and_eq_true] at h
  obtain ⟨⟨⟨hty, hd⟩, hm⟩, ha⟩ := h
  have hne : BitVec.ofNat 6 x ≠ 0#6 := by
    intro h0
    rw [show x % 64 = 0 from congrArg BitVec.toNat h0] at hx
    exact nomatch hx
  exact decodes_of_major11 (by simp) (by simp [dec11, hne, hx, hty, hd, hm, ha])

theorem RMode.code_lt (m : RMode) : m.code < 4 := by cases m <;> decide

@[simp] theorem modeOf_code (m : RMode) : modeOf (BitVec.ofNat 2 m.code) = m := by cases m <;> rfl

/-- Bits of a control field whose content is `x` (R157, R256, R261). -/
theorem extractLsb'_ctlBits {x lo len : Nat} {v : BitVec len} (h : x < 128) (hv : (384 + x) / 2 ^ lo % 2 ^ len = v.toNat) :
    (ctlBits x).extractLsb' lo len = v := by
  apply BitVec.eq_of_toNat_eq
  rw [ctlBits, extractLsb'_ofNat 9 (384 + x) lo len (by omega), BitVec.toNat_ofNat, hv]

/-- What the control field of a conversion holds (R157). -/
theorem cvtCtl_fields (sat : Bool) (mode : RMode) (sty : Ty) :
    (cvtCtl sat mode sty).extractLsb' 0 4 = BitVec.ofNat 4 sty.code ∧
    (cvtCtl sat mode sty).extractLsb' 4 2 = BitVec.ofNat 2 mode.code ∧
    (cvtCtl sat mode sty).extractLsb' 6 1 = BitVec.ofBool sat ∧ (cvtCtl sat mode sty).extractLsb' 7 2 = 3#2 := by
  have hs := Ty.code_lt sty
  have hm := RMode.code_lt mode
  have hc : (if sat then 64 else 0) + 16 * mode.code + sty.code < 128 := by cases sat <;> simp <;> omega
  refine ⟨extractLsb'_ctlBits hc ?_, extractLsb'_ctlBits hc ?_, extractLsb'_ctlBits hc ?_, extractLsb'_ctlBits hc ?_⟩ <;>
    cases sat <;> simp <;> omega

theorem decodes_cvt {o : CvtOp} (h : o.wf = true) : Decodes (encode (.cvt o)) (.cvt o) := by
  simp only [CvtOp.wf, Bool.and_eq_true] at h
  obtain ⟨⟨hd, hm⟩, ha⟩ := h
  obtain ⟨hty, hmode, hsat, hctl⟩ := cvtCtl_fields o.sat o.mode o.sty
  exact decodes_of_major12 (by simp) (by simp [dec12, hty, hmode, hsat, hctl, hd, hm, ha])

theorem decodes_cvtsc {o : Cvt2Op} (h : o.scWf = true) : Decodes (encode (.cvtsc o)) (.cvtsc o) := by
  have hwf := h
  simp only [Cvt2Op.scWf, Bool.and_eq_true] at h
  obtain ⟨⟨⟨⟨⟨hd, -⟩, hok⟩, hm⟩, ha⟩, -⟩ := h
  obtain ⟨hty, hmode, hsat, hctl⟩ := cvtCtl_fields o.sat o.mode o.sty
  exact decodes_of_major12 (by simp) (by simp [dec12, hty, hmode, hsat, hctl, hd, hok, hm, ha, hwf])

/-- The result type of a pair of `cvtpk` (R160). -/
theorem isPk_of_pkPair {d s : Ty} (h : pkPair d s = true) : d.isPk = true := by
  unfold pkPair at h
  split at h
  case h_9 => exact nomatch h
  all_goals rfl

theorem decodes_cvtpk {o : Cvt2Op} (h : o.pkWf = true) : Decodes (encode (.cvtpk o)) (.cvtpk o) := by
  have hwf := h
  simp only [Cvt2Op.pkWf, Bool.and_eq_true] at h
  obtain ⟨⟨⟨⟨hp, hok⟩, hm⟩, ha⟩, -⟩ := h
  obtain ⟨hty, hmode, hsat, hctl⟩ := cvtCtl_fields o.sat o.mode o.sty
  exact decodes_of_major12 (by simp) (by simp [dec12, hty, hmode, hsat, hctl, isPk_of_pkPair hp, hok, hm, ha, hwf])

theorem FCond.code_lt (c : FCond) : c.code < 8 := by cases c <;> decide

@[simp] theorem fcondOf_code (c : FCond) : fcondOf (BitVec.ofNat 3 c.code) = c := by cases c <;> rfl

/-- What the control field of `fcmp` holds (R161). -/
theorem fcmpCtl_fields (e : BitVec 2) (c : FCond) :
    (ctlBits (16 * e.toNat + c.code)).extractLsb' 0 3 = BitVec.ofNat 3 c.code ∧
    (ctlBits (16 * e.toNat + c.code)).extractLsb' 3 1 = 0#1 ∧
    (ctlBits (16 * e.toNat + c.code)).extractLsb' 4 2 = e ∧
    (ctlBits (16 * e.toNat + c.code)).extractLsb' 6 3 = 6#3 := by
  have he := e.isLt
  have hc := FCond.code_lt c
  have hx : 16 * e.toNat + c.code < 128 := by omega
  refine ⟨extractLsb'_ctlBits hx ?_, extractLsb'_ctlBits hx ?_, extractLsb'_ctlBits hx ?_, extractLsb'_ctlBits hx ?_⟩ <;>
    simp <;> omega

theorem decodes_fcmp {o : FcmpOp} (h : o.wf = true) : Decodes (encode (.fcmp o)) (.fcmp o) := by
  have hwf := h
  simp only [FcmpOp.wf, Bool.and_eq_true] at h
  obtain ⟨⟨⟨⟨hty, hmd⟩, -⟩, -⟩, -⟩ := h
  obtain ⟨hcc, hz, he, hctl⟩ := fcmpCtl_fields o.e o.cc
  exact decodes_of_major13 (by simp) (by simp [dec13, hcc, hz, he, hctl, hty, hmd, hwf])

@[simp] theorem elemOf_elemBits (e : Option (BitVec 3)) : elemOf (elemBits e) = some e := by
  cases e with
  | none => rfl
  | some k => revert k; decide

theorem decodes_fclass {o : FclassOp} (h : o.wf = true) : Decodes (encode (.fclass o)) (.fclass o) := by
  have hwf := h
  simp only [FclassOp.wf, Bool.and_eq_true] at h
  obtain ⟨⟨⟨⟨hty, hd⟩, hm⟩, -⟩, -⟩ := h
  exact decodes_of_major13 (by simp) (by simp [dec13, hty, hd, hm, hwf])

theorem decodes_fisnan {o : FisnanOp} (h : o.wf = true) : Decodes (encode (.fisnan o)) (.fisnan o) := by
  have hwf := h
  simp only [FisnanOp.wf, Bool.and_eq_true] at h
  obtain ⟨⟨⟨hty, hmd⟩, -⟩, -⟩ := h
  exact decodes_of_major13 (by simp) (by simp [dec13, hty, hmd, hwf])

theorem decodes_dot2 {o : Op3} (h : o.dotWf (fun t => t == .f16 || t == .bf16) = true) :
    Decodes (encode (.dot2 o)) (.dot2 o) :=
  decodes_of_major14 (by simp) (by simp only [dec14, fieldsOf_wA]; exact decAlu_three_of_dotWf h)

theorem decodes_dot4 {o : Op3} (h : o.dotWf (fun t => t == .e4m3 || t == .e5m2 || t == .i8 || t == .n8) = true) :
    Decodes (encode (.dot4 o)) (.dot4 o) :=
  decodes_of_major14 (by simp) (by simp only [dec14, fieldsOf_wA]; exact decAlu_three_of_dotWf h)

theorem decodes_dot8 {o : Op3} (h : o.dotWf (fun t => t == .e2m1) = true) : Decodes (encode (.dot8 o)) (.dot8 o) :=
  decodes_of_major14 (by simp) (by simp only [dec14, fieldsOf_wA]; exact decAlu_three_of_dotWf h)

theorem sx15_lt {x : Nat} {mk : SxOp → Instr} (h : sx15 x = some mk) : x < 5 := by
  unfold sx15 at h
  split at h
  case h_6 => exact nomatch h
  all_goals decide

/-- Bits within two zero fields at the end of a payload. -/
theorem extractLsb'_append_two_zeros {v a b lo len : Nat} {x : BitVec v} (h : lo + len ≤ a + b) :
    (x ++ (0 : BitVec a) ++ (0 : BitVec b)).extractLsb' lo len = 0#len := by
  ext i hi
  simp [BitVec.getLsbD_append]
  intro hb ha
  omega

/-- Bits within three zero fields at the end of a payload. -/
theorem extractLsb'_append_three_zeros {v a b c lo len : Nat} {x : BitVec v} (h : lo + len ≤ a + b + c) :
    (x ++ (0 : BitVec a) ++ (0 : BitVec b) ++ (0 : BitVec c)).extractLsb' lo len = 0#len := by
  ext i hi
  simp [BitVec.getLsbD_append]
  intro hc hb ha
  omega

theorem decodes_encSx {x : Nat} {mk : SxOp → Instr} (hx : sx15 (x % 64) = some mk) {o : SxOp} (h : o.wf = true) :
    Decodes (encSx x o) (mk o) := by
  have hlt := sx15_lt hx
  have hn : x % 64 < 8 := by omega
  have hne {n : Nat} (h5 : 5 ≤ n) : x % 64 ≠ n := by omega
  replace h : o.ty.isFp = true := h
  refine decodes_of_major15 (by simp) (by simp [hn]) ?_
  simp (disch := decide) only [dec15, fieldsOf, wL, bitsAt, BitVec.extractLsb'_append_eq_of_add_le,
    BitVec.extractLsb'_append_eq_of_le, extractLsb'_append_two_zeros]
  simp [hn, hne, hx, h]

theorem decodes_sxCvt {o : SxCvtOp} (h : o.wf = true) : Decodes (encode (.sxCvt o)) (.sxCvt o) := by
  simp only [SxCvtOp.wf, Bool.and_eq_true] at h
  obtain ⟨hd, hs⟩ := h
  obtain ⟨hty, hmode, hsat, -⟩ := cvtCtl_fields o.sat o.mode o.sty
  refine decodes_of_major15 (by simp) (by simp) ?_
  simp (disch := decide) only [dec15, fieldsOf, wL, bitsAt, BitVec.extractLsb'_append_eq_of_add_le,
    BitVec.extractLsb'_append_eq_of_le, extractLsb'_append_two_zeros, BitVec.extractLsb'_setWidth_of_le]
  simp [hty, hmode, hsat, hd, hs]

theorem decodes_sxExp2 {o : SxUnOp} (h : o.wf = true) : Decodes (encode (.sxExp2 o)) (.sxExp2 o) := by
  replace h : o.ty.isFn = true := h
  refine decodes_of_major15 (by simp) (by simp) ?_
  simp (disch := decide) only [dec15, fieldsOf, wL, bitsAt, BitVec.extractLsb'_append_eq_of_add_le,
    BitVec.extractLsb'_append_eq_of_le, extractLsb'_append_two_zeros, extractLsb'_append_three_zeros]
  simp [h]

theorem decodes_sxSum {o : SxSumOp} (h : o.wf = true) : Decodes (encode (.sxSum o)) (.sxSum o) := by
  replace h : o.ty.isFp = true := h
  refine decodes_of_major15 (by simp) (by simp) ?_
  simp (disch := decide) only [dec15, fieldsOf, wL, bitsAt, BitVec.extractLsb'_append_eq_of_add_le,
    BitVec.extractLsb'_append_eq_of_le, extractLsb'_append_two_zeros, extractLsb'_append_three_zeros]
  simp [h]

/-! ## Majors 0x20 to 0x23 (R168 to R179, R303) -/

theorem shfl20_lt {x : Nat} {mk : ShflOp → Instr} (h : shfl20 x = some mk) : x < 4 := by
  unfold shfl20 at h
  split at h
  case h_5 => exact nomatch h
  all_goals decide

theorem decodes_encShfl {x : Nat} {mk : ShflOp → Instr} (hx : shfl20 (x % 64) = some mk) {o : ShflOp} (h : o.wf = true) :
    Decodes (encShfl x o) (mk o) := by
  have hlt := shfl20_lt hx
  simp only [ShflOp.wf, Bool.and_eq_true] at h
  obtain ⟨hd, hb⟩ := h
  have hn : x % 64 < 12 := by omega
  have hne {n : Nat} (h4 : 4 ≤ n) : x % 64 ≠ n := by omega
  exact decodes_of_major20 (by simp) (by simp [dec20, hn, hne, hx, hd, ok_of_okVec hd, hb])

theorem decodes_bcast {o : ShflOp} (h : o.bcastWf = true) : Decodes (encode (.bcast o)) (.bcast o) := by
  have hwf := h
  simp only [ShflOp.bcastWf, Bool.and_eq_true] at h
  obtain ⟨⟨hd, hm⟩, -⟩ := h
  exact decodes_of_major20 (by simp) (by simp [dec20, hd, hm, hwf])

theorem decodes_matchLanes {o : MatchOp} (h : o.d.okVec = true) : Decodes (encode (.matchLanes o)) (.matchLanes o) :=
  decodes_of_major20 (by simp) (by simp [dec20, h, ok_of_okVec h])

theorem decodes_ballot {d : Dest} (h : d.okScl = true) (ms : Fin 16) (b : Option SC) :
    Decodes (encode (.ballot d ms b)) (.ballot d ms b) := by
  cases b with
  | none => exact decodes_of_major20 (by simp) (by simp [dec20, h])
  | some b => exact decodes_of_major20 (by simp) (by simp [dec20, h])

theorem decodes_any {d : Dest} (h : d.okScl = true) (ms : Fin 16) : Decodes (encode (.any d ms)) (.any d ms) :=
  decodes_of_major20 (by simp) (by simp [dec20, h])

theorem decodes_all {d : Dest} (h : d.okScl = true) (ms : Fin 16) : Decodes (encode (.all d ms)) (.all d ms) :=
  decodes_of_major20 (by simp) (by simp [dec20, h])

/-- What the control field of `scan` and `reduce` holds (R172). -/
theorem scanCtl_fields (excl : Bool) (op : Comb) :
    combOf ((ctlBits ((if excl then 4 else 0) + op.code)).extractLsb' 0 2).toNat = some op ∧
    (ctlBits ((if excl then 4 else 0) + op.code)).extractLsb' 2 1 = BitVec.ofBool excl ∧
    (ctlBits ((if excl then 4 else 0) + op.code)).extractLsb' 3 6 = 48#6 := by
  cases excl <;> cases op <;> decide

theorem decodes_scan {o : ScanOp} (h : o.wf = true) : Decodes (encode (.scan o)) (.scan o) := by
  simp only [ScanOp.wf, Bool.and_eq_true] at h
  obtain ⟨hty, hd⟩ := h
  obtain ⟨hop, hex, hctl⟩ := scanCtl_fields o.excl o.op
  exact decodes_of_major20 (by simp) (by simp [-BitVec.extractLsb'_toNat, dec20, hop, hex, hctl, hty, hd, ok_of_okVec hd])

theorem decodes_reduce {o : ReduceOp} (h : o.wf = true) : Decodes (encode (.reduce o)) (.reduce o) := by
  simp only [ReduceOp.wf, Bool.and_eq_true] at h
  obtain ⟨⟨hty, hd⟩, hm⟩ := h
  obtain ⟨hop, hex, hctl⟩ := scanCtl_fields false o.op
  simp only [Bool.false_eq_true, if_false, Nat.zero_add] at hop hex hctl
  exact decodes_of_major20 (by simp) (by simp [-BitVec.extractLsb'_toNat, dec20, hop, hex, hctl, hty, hd, hm])

theorem decodes_mrank {o : MrankOp} (h : o.d.okVec = true) : Decodes (encode (.mrank o)) (.mrank o) :=
  decodes_of_major20 (by simp) (by simp [dec20, h, ok_of_okVec h])

theorem mask21_lt {x : Nat} {mk : Fin 16 → Fin 16 → Fin 16 → Fin 16 → Instr} (h : mask21 x = some mk) : x < 3 := by
  unfold mask21 at h
  split at h
  case h_4 => exact nomatch h
  all_goals decide

theorem decodes_encMask {x : Nat} {mk : Fin 16 → Fin 16 → Fin 16 → Fin 16 → Instr} (hx : mask21 (x % 64) = some mk)
    {md : Fin 16} (h : (md != 0) = true) (m ma mb : Fin 16) : Decodes (encMask x m md ma (maskBits mb)) (mk m md ma mb) := by
  have hlt := mask21_lt hx
  have hn : x % 64 < 7 := by omega
  have hne {n : Nat} (h3 : 3 ≤ n) : x % 64 ≠ n := by omega
  exact decodes_of_major21 (by simp) (by simp [dec21, hn, hne, hx, h])

theorem decodes_mnot {md : Fin 16} (h : (md != 0) = true) (m ma : Fin 16) :
    Decodes (encode (.mnot m md ma)) (.mnot m md ma) :=
  decodes_of_major21 (by simp) (by simp [dec21, h])

theorem decodes_mpop {d : Dest} (h : d.okScl = true) (ma : Fin 16) : Decodes (encode (.mpop d ma)) (.mpop d ma) :=
  decodes_of_major21 (by simp) (by simp [dec21, smask21, h])

theorem decodes_mfirst {d : Dest} (h : d.okScl = true) (ma : Fin 16) : Decodes (encode (.mfirst d ma)) (.mfirst d ma) :=
  decodes_of_major21 (by simp) (by simp [dec21, smask21, h])

theorem decodes_mlast {d : Dest} (h : d.okScl = true) (ma : Fin 16) : Decodes (encode (.mlast d ma)) (.mlast d ma) :=
  decodes_of_major21 (by simp) (by simp [dec21, smask21, h])

@[simp] theorem queueOf_queueBits (q : Fin 16) : queueOf (queueBits q) = some q := by
  revert q; decide

theorem queueBits_ne_zero (q : Fin 16) : queueBits q ≠ 0#9 := by
  revert q; decide

theorem decodes_cattach (quad : Bool) (t : SC) : Decodes (encode (.cattach quad t)) (.cattach quad t) :=
  decodes_of_major22 (by simp) (by simp [dec22])

theorem decodes_cdetach (quad : Bool) (t : SC) : Decodes (encode (.cdetach quad t)) (.cdetach quad t) :=
  decodes_of_major22 (by simp) (by simp [dec22])

theorem decodes_cgrow {d : Dest} (h : d.okScl = true) (n : SC) : Decodes (encode (.cgrow d n)) (.cgrow d n) :=
  decodes_of_major22 (by simp) (by simp [dec22, h])

theorem decodes_rolesw (r : SC) (q : Option (Fin 16)) : Decodes (encode (.rolesw r q)) (.rolesw r q) := by
  cases q with
  | none => exact decodes_of_major22 (by simp) (by simp [dec22])
  | some q => exact decodes_of_major22 (by simp) (by simp [dec22, queueBits_ne_zero])

theorem decodes_cwidth (n : SC) : Decodes (encode (.cwidth n)) (.cwidth n) :=
  decodes_of_major22 (by simp) (by simp [dec22])

theorem decodes_cprio (p : SC) : Decodes (encode (.cprio p)) (.cprio p) :=
  decodes_of_major22 (by simp) (by simp [dec22])

theorem decodes_qsend (y : Bool) (q : Fin 16) (a : SC) : Decodes (encode (.qsend y q a)) (.qsend y q a) :=
  decodes_of_major23 (by simp) (by simp [dec23])

theorem decodes_qrecv {d : Dest} (h : d.okScl = true) (y : Bool) (q : Fin 16) :
    Decodes (encode (.qrecv y d q)) (.qrecv y d q) :=
  decodes_of_major23 (by simp) (by simp [dec23, h])

theorem decodes_tspawn (m q : Fin 16) (e : Fin 64) (a : Name) : Decodes (encode (.tspawn m q e a)) (.tspawn m q e a) := by
  cases a with
  | scl a => exact decodes_of_major23 (by simp) (by simp [dec23])
  | vec a => exact decodes_of_major23 (by simp) (by simp [dec23])

theorem decodes_qstat {d : Dest} (h : d.okScl = true) (c : Bool) (q : Fin 16) :
    Decodes (encode (.qstat c d q)) (.qstat c d q) :=
  decodes_of_major23 (by simp) (by simp [dec23, h])

/-! ## Majors 0x28 to 0x2E (R240 to R255) -/

@[simp] theorem ctr_append (k : BitVec 4) (low : BitVec 5) (maj min la mask ty flag dest cnt a b) :
    Fields.ctr ⟨maj, min, la, mask, ty, flag, dest, cnt, a, b, k ++ low⟩ = k :=
  BitVec.extractLsb'_append_eq_left

@[simp] theorem low5_append (k : BitVec 4) (low : BitVec 5) (maj min la mask ty flag dest cnt a b) :
    Fields.low5 ⟨maj, min, la, mask, ty, flag, dest, cnt, a, b, k ++ low⟩ = low :=
  BitVec.extractLsb'_append_eq_right

/-- R240: what a scalar destination or data name asks of the mask field. -/
theorem mask_of_memScl {scl : Bool} {m : Fin 16} {base index : Src} (h : memScl scl m base index = true) :
    scl = true → m = 0 := by
  rintro rfl
  simp only [memScl, Bool.not_true, Bool.false_or, Bool.and_eq_true, beq_iff_eq] at h
  exact h.2

theorem maskOk_of_memScl {d : Dest} {m : Fin 16} {base index : Src} (h : memScl d.isScl m base index = true) :
    maskOk d m = true := by
  cases hs : d.isScl with
  | false => simp [maskOk, hs]
  | true => simp [maskOk, mask_of_memScl h hs]

section memory
variable {tyOk : Ty → Bool} {short : Bool} {maj min : BitVec 6}

theorem decLoad_of_wf {mk : LoadOp → Instr} {o : LoadOp} (h : o.wf tyOk = true) (hla : (!short || bv4 o.la == 0#4) = true) :
    decLoad tyOk short mk ⟨maj, min, bv4 o.la, bv4 o.mask, BitVec.ofNat 4 o.ty.code, BitVec.ofBool o.scaled, destBits o.d,
      cntBits o.d, srcBits o.base, srcBits o.index, bv4 o.k ++ o.disp⟩ = .ok (mk o) := by
  have hwf := h
  simp only [LoadOp.wf, Bool.and_eq_true] at h
  obtain ⟨⟨⟨⟨hty, hd⟩, -⟩, -⟩, hm⟩ := h
  simp [decLoad, hla, hty, hd, maskOk_of_memScl hm, hwf]

theorem decStore_of_wf {mk : StoreOp → Instr} {o : StoreOp} (h : o.wf tyOk = true) (hla : (!short || bv4 o.la == 0#4) = true) :
    decStore tyOk short mk ⟨maj, min, bv4 o.la, bv4 o.mask, BitVec.ofNat 4 o.ty.code, BitVec.ofBool o.scaled,
      nameBits o.data, 0#4, srcBits o.base, srcBits o.index, bv4 o.k ++ o.disp⟩ = .ok (mk o) := by
  have hwf := h
  simp only [StoreOp.wf, Bool.and_eq_true] at h
  obtain ⟨⟨⟨hty, -⟩, -⟩, hm⟩ := h
  simp [decStore, hla, hty, maskField_nameBits (mask_of_memScl hm), hwf]

end memory

theorem decodes_encLoad_28 {x : Nat} {mk : LoadOp → Instr} (hx : ld28 (x % 64) = some mk) {o : LoadOp}
    (h : o.wf notE2m1 = true) : Decodes (encLoad 0x28 x o) (mk o) :=
  decodes_of_major28 (by simp [wM]) (by simp [wM, hx, decLoad_of_wf h])

theorem decodes_encStore_29 {x : Nat} {mk : StoreOp → Instr} (hx : st29 (x % 64) = some mk) {o : StoreOp}
    (h : o.wf notE2m1 = true) : Decodes (encStore 0x29 x o) (mk o) :=
  decodes_of_major29 (by simp [wM]) (by simp [wM, hx, decStore_of_wf h])

theorem decLoad_of_wfShort {tyOk : Ty → Bool} {mk : LoadOp → Instr} {o : LoadOp} (h : o.wfShort tyOk = true)
    (maj min : BitVec 6) : decLoad tyOk true mk ⟨maj, min, bv4 o.la, bv4 o.mask, BitVec.ofNat 4 o.ty.code,
      BitVec.ofBool o.scaled, destBits o.d, cntBits o.d, srcBits o.base, srcBits o.index, bv4 o.k ++ o.disp⟩ = .ok (mk o) := by
  simp only [LoadOp.wfShort, Bool.and_eq_true, beq_iff_eq] at h
  obtain ⟨hla, hwf⟩ := h
  exact decLoad_of_wf hwf (by simp [hla])

theorem decStore_of_wfShort {tyOk : Ty → Bool} {mk : StoreOp → Instr} {o : StoreOp} (h : o.wfShort tyOk = true)
    (maj min : BitVec 6) : decStore tyOk true mk ⟨maj, min, bv4 o.la, bv4 o.mask, BitVec.ofNat 4 o.ty.code,
      BitVec.ofBool o.scaled, nameBits o.data, 0#4, srcBits o.base, srcBits o.index, bv4 o.k ++ o.disp⟩ = .ok (mk o) := by
  simp only [StoreOp.wfShort, Bool.and_eq_true, beq_iff_eq] at h
  obtain ⟨hla, hwf⟩ := h
  exact decStore_of_wf hwf (by simp [hla])

theorem decodes_ldA {o : LoadOp} (h : o.wfShort notE2m1 = true) : Decodes (encode (.ldA o)) (.ldA o) :=
  decodes_word (by simp [wM, isLong]) (by simp [wM, decode, decLoad_of_wfShort h])

theorem decodes_stA {o : StoreOp} (h : o.wfShort notE2m1 = true) : Decodes (encode (.stA o)) (.stA o) :=
  decodes_word (by simp [wM, isLong]) (by simp [wM, decode, decStore_of_wfShort h])

theorem decodes_ldxA {o : LoadOp} (h : o.wfShort notE2m1 = true) : Decodes (encode (.ldxA o)) (.ldxA o) :=
  decodes_word (by simp [wM, isLong]) (by simp [wM, decode, decLoad_of_wfShort h])

theorem decodes_stxA {o : StoreOp} (h : o.wfShort notE2m1 = true) : Decodes (encode (.stxA o)) (.stxA o) :=
  decodes_word (by simp [wM, isLong]) (by simp [wM, decode, decStore_of_wfShort h])

theorem decodes_ldW {o : LoadOp} (h : o.wfShort notE2m1 = true) : Decodes (encode (.ldW o)) (.ldW o) :=
  decodes_word (by simp [wM, isLong]) (by simp [wM, decode, decLoad_of_wfShort h])

theorem decodes_crpop {o : LoadOp} (h : o.wfShort crTy = true) : Decodes (encode (.crpop o)) (.crpop o) :=
  decodes_word (by simp [wM, isLong]) (by simp [wM, decode, decLoad_of_wfShort h])

theorem decodes_crpeek {o : LoadOp} (h : o.wfShort crTy = true) : Decodes (encode (.crpeek o)) (.crpeek o) :=
  decodes_word (by simp [wM, isLong]) (by simp [wM, decode, decLoad_of_wfShort h])

@[simp] theorem scopeOf_code (s : Scope) : scopeOf s.code = some s := by cases s <;> rfl

@[simp] theorem semOf_code (s : Sem) : semOf s.code = s := by cases s <;> rfl

theorem Scope.code_lt (s : Scope) : s.code < 8 := by cases s <;> decide

theorem Sem.code_lt (s : Sem) : s.code < 4 := by cases s <;> decide

/-- What the control field of an atomic holds below its counter (R250). -/
theorem atomCtl_fields (k : BitVec 4) (sem : Sem) (scope : Scope) :
    ((k ++ BitVec.ofNat 5 (8 * sem.code + scope.code)).extractLsb' 0 3).toNat = scope.code ∧
    ((k ++ BitVec.ofNat 5 (8 * sem.code + scope.code)).extractLsb' 3 2).toNat = sem.code := by
  have hs := Scope.code_lt scope
  have hm := Sem.code_lt sem
  constructor <;> rw [BitVec.extractLsb'_append_eq_of_add_le (by decide), extractLsb'_ofNat _ _ _ _ (by omega)] <;>
    simp <;> omega

/-- Minor 7, `cas`, has conditions of its own beside those of every atomic (R250). -/
theorem decodes_encAtom {x : Nat} {tyOk : Ty → Bool} {mk : AtomOp → Instr} (hx : atom2C (x % 64) = some (tyOk, mk))
    {o : AtomOp} (h : o.wf tyOk = true) (hcas : (if BitVec.ofNat 6 x = 7#6 then o.casWf else o.wf tyOk) = true) :
    Decodes (encAtom x o) (mk o) := by
  simp only [AtomOp.wf, Bool.and_eq_true] at h
  obtain ⟨⟨⟨⟨hty, hd⟩, -⟩, -⟩, hm⟩ := h
  obtain ⟨hscope, hsem⟩ := atomCtl_fields (bv4 o.k) o.sem o.scope
  exact decodes_of_major2C (by simp [wM]) (by
    simp [-BitVec.extractLsb'_toNat, wM, decAtom, hx, hty, hd, maskOk_of_memScl hm, hscope, hsem, hcas])

theorem decodes_atomCas {o : AtomOp} (h : o.casWf = true) : Decodes (encode (.atomCas o)) (.atomCas o) :=
  decodes_encAtom rfl (Bool.and_eq_true_iff.mp h).1 h

theorem decodes_redAdd {o : StoreOp} (h : o.wf atomTy = true) : Decodes (encode (.redAdd o)) (.redAdd o) :=
  decodes_of_major2D (by simp [wM]) (by simp [wM, dec2D, decStore_of_wf h])

theorem decodes_redMin {o : StoreOp} (h : o.wf atomTy = true) : Decodes (encode (.redMin o)) (.redMin o) :=
  decodes_of_major2D (by simp [wM]) (by simp [wM, dec2D, decStore_of_wf h])

theorem decodes_redMax {o : StoreOp} (h : o.wf atomTy = true) : Decodes (encode (.redMax o)) (.redMax o) :=
  decodes_of_major2D (by simp [wM]) (by simp [wM, dec2D, decStore_of_wf h])

theorem decodes_rflush (la k : Fin 16) : Decodes (encode (.rflush la k)) (.rflush la k) :=
  decodes_of_major2D (by simp) (by simp [dec2D])

theorem decodes_pfG {o : PfOp} (h : o.wf = true) : Decodes (encode (.pfG o)) (.pfG o) := by
  have hwf := h
  simp only [PfOp.wf, Bool.and_eq_true] at h
  obtain ⟨⟨hty, -⟩, -⟩ := h
  exact decodes_of_major2E (by simp) (by simp [dec2E, hty, hwf])

theorem decodes_pfCode {la : Fin 16} {b : Src} (h : (Instr.pfCode la b).wf = true) :
    Decodes (encode (.pfCode la b)) (.pfCode la b) := by
  cases b with
  | scl n | walker n => exact decodes_of_major2E (by simp) (by simp [dec2E])
  | vec n | special n | const c => exact nomatch h

/-! ## Majors 0x30 to 0x32 (R256 to R271) -/

theorem ctlOf_ctlBits {x : Nat} (h : x < 128) : ctlOf (ctlBits x) = some (BitVec.ofNat 7 x) := by
  have hctl : (ctlBits x).extractLsb' 7 2 = 3 := extractLsb'_ctlBits h (by simp; omega)
  have hval : (ctlBits x).extractLsb' 0 7 = BitVec.ofNat 7 x := extractLsb'_ctlBits h (by simp; omega)
  rw [ctlOf, if_pos hctl, hval]

theorem decodes_fence (sc : Scope) : Decodes (encode (.fence sc)) (.fence sc) := by
  have hs := Scope.code_lt sc
  have hz : (BitVec.ofNat 7 sc.code).extractLsb' 3 4 = 0#4 := by
    rw [extractLsb'_ofNat _ _ _ _ (by omega), show sc.code / 2 ^ 3 = 0 by omega]
  have hc : ((BitVec.ofNat 7 sc.code).extractLsb' 0 3).toNat = sc.code := by
    rw [extractLsb'_ofNat _ _ _ _ (by omega)]; simp; omega
  exact decodes_of_major30 (by simp) (by
    simp [-BitVec.extractLsb'_toNat, dec30, ctlOf_ctlBits (show sc.code < 128 by omega), hz, hc])

/-- What the control field of `wait` and `seal` holds (R256). -/
theorem counterCtl_fields (k : Fin 16) : ctlOf (ctlBits k.val) = some (BitVec.ofNat 7 k.val) ∧
    (BitVec.ofNat 7 k.val).extractLsb' 4 3 = 0#3 ∧ ((BitVec.ofNat 7 k.val).extractLsb' 0 4).toFin = k := by
  have hk := k.isLt
  refine ⟨ctlOf_ctlBits (by omega), ?_, ?_⟩ <;> rw [extractLsb'_ofNat _ _ _ _ (by omega)]
  · rw [show k.val / 2 ^ 4 = 0 by omega]
  · simp

theorem decodes_wait {t : SC} (h : t.nonneg = true) (k : Fin 16) : Decodes (encode (.wait k t)) (.wait k t) := by
  obtain ⟨hctl, hz, hk⟩ := counterCtl_fields k
  exact decodes_of_major30 (by simp) (by simp [-BitVec.toFin_extractLsb', dec30, hctl, hz, hk, h])

theorem decodes_waitall : Decodes (encode .waitall) .waitall :=
  decodes_of_major30 (by simp) (by simp [dec30])

theorem decodes_seal (k : Fin 16) : Decodes (encode (.seal k)) (.seal k) := by
  obtain ⟨hctl, hz, hk⟩ := counterCtl_fields k
  exact decodes_of_major30 (by simp) (by simp [-BitVec.toFin_extractLsb', dec30, hctl, hz, hk])

theorem decodes_ifence : Decodes (encode .ifence) .ifence :=
  decodes_of_major30 (by simp) (by simp [dec30])

theorem Level.code_lt (l : Level) : l.code < 8 := by cases l <;> decide

@[simp] theorem levelOf_code (l : Level) : levelOf l.code = some l := by cases l <;> rfl

/-- What the control field of a barrier holds (R261). -/
theorem barCtl_fields (t : Fin 8) (l : Level) :
    ctlOf (ctlBits (16 * t.val + l.code)) = some (BitVec.ofNat 7 (16 * t.val + l.code)) ∧
    (BitVec.ofNat 7 (16 * t.val + l.code)).extractLsb' 3 1 = 0#1 ∧
    ((BitVec.ofNat 7 (16 * t.val + l.code)).extractLsb' 0 3).toNat = l.code ∧
    ((BitVec.ofNat 7 (16 * t.val + l.code)).extractLsb' 4 3).toFin = t := by
  have ht := t.isLt
  have hl := Level.code_lt l
  refine ⟨ctlOf_ctlBits (by omega), ?_, ?_, ?_⟩ <;> rw [extractLsb'_ofNat _ _ _ _ (by omega)]
  · rw [show (16 * t.val + l.code) / 2 ^ 3 = 2 * t.val by omega]
    apply BitVec.eq_of_toNat_eq
    simp
  · simp; omega
  · rw [show (16 * t.val + l.code) / 2 ^ 4 = t.val by omega]
    simp

theorem scBits_ne_zero (s : SC) : scBits s ≠ 0#9 := by
  cases s with
  | scl n =>
    rw [scBits, ne_eq, BitVec.toNat_eq]; simp; omega
  | const c =>
    rw [scBits, ne_eq, BitVec.toNat_eq]; simp; omega

@[simp] theorem barNOf_optScBits (n : Option SC) : barNOf (optScBits n) = some n := by
  cases n with
  | none => rfl
  | some x => simp [barNOf, optScBits, scBits_ne_zero]

theorem decodes_bar {o : BarOp} (h : barN o.level o.n = true) : Decodes (encode (.bar o)) (.bar o) := by
  obtain ⟨hctl, hz, hl, ht⟩ := barCtl_fields o.tag o.level
  exact decodes_of_major31 (by simp) (by
    simp [-BitVec.extractLsb'_toNat, -BitVec.toFin_extractLsb', dec31, hctl, hz, hl, ht, h])

theorem decodes_barv {o : BarvOp} (hn : barN o.level o.n = true) (hd : o.d.okScl = true) :
    Decodes (encode (.barv o)) (.barv o) := by
  obtain ⟨hctl, hz, hl, ht⟩ := barCtl_fields o.tag o.level
  exact decodes_of_major31 (by simp) (by
    simp [-BitVec.extractLsb'_toNat, -BitVec.toFin_extractLsb', dec31, hctl, hz, hl, ht, hn, hd])

theorem decodes_bararr {o : BarOp} (h : barN o.level o.n = true) : Decodes (encode (.bararr o)) (.bararr o) := by
  obtain ⟨hctl, hz, hl, ht⟩ := barCtl_fields o.tag o.level
  exact decodes_of_major31 (by simp) (by
    simp [-BitVec.extractLsb'_toNat, -BitVec.toFin_extractLsb', dec31, hctl, hz, hl, ht, h])

theorem decodes_bardrop {l : Level} (h : (l == .core || l == .quad) = true) (t : Fin 8) :
    Decodes (encode (.bardrop l t)) (.bardrop l t) := by
  obtain ⟨hctl, hz, hl, ht⟩ := barCtl_fields t l
  have hn : barNOf 0#9 = some none := rfl
  exact decodes_of_major31 (by simp) (by
    simp [-BitVec.extractLsb'_toNat, -BitVec.toFin_extractLsb', dec31, hctl, hz, hl, ht, hn, h])

theorem decodes_abinit {a n b : SC} (ha : abAddr a = true) (hn : n.nonneg = true) (hb : b.nonneg = true) :
    Decodes (encode (.abinit a n b)) (.abinit a n b) :=
  decodes_of_major32 (by simp) (by simp [dec32, ha, hn, hb])

theorem decodes_abarrive {o : AbarriveOp} (h : o.wf = true) : Decodes (encode (.abarrive o)) (.abarrive o) := by
  cases o with
  | arrive a c =>
    cases c with
    | none => exact decodes_of_major32 (by simp) (by simp [dec32, optScBits, show abAddr a = true from h])
    | some c =>
      obtain ⟨ha, hc⟩ := Bool.and_eq_true_iff.mp h
      exact decodes_of_major32 (by simp) (by simp [dec32, optScBits, scBits_ne_zero, ha, hc])
  | expect a b =>
    obtain ⟨ha, hb⟩ := Bool.and_eq_true_iff.mp h
    exact decodes_of_major32 (by simp) (by simp [dec32, ha, hb])

theorem decodes_abexpect {a b : SC} (ha : abAddr a = true) (hb : b.nonneg = true) :
    Decodes (encode (.abexpect a b)) (.abexpect a b) :=
  decodes_of_major32 (by simp) (by simp [dec32, ha, hb])

theorem decodes_abwait {a p : SC} (ha : abAddr a = true) (hp : p.nonneg = true) :
    Decodes (encode (.abwait a p)) (.abwait a p) :=
  decodes_of_major32 (by simp) (by simp [dec32, ha, hp])

/-! ## Majors 0x36 to 0x39 (R300 to R320) -/

theorem afBits_ne_zero (x : AField) : afBits x ≠ 0#9 := by
  cases x with
  | scl n => rw [afBits, ne_eq, BitVec.toNat_eq]; simp; omega
  | const k => rw [afBits, ne_eq, BitVec.toNat_eq]; simp; omega

@[simp] theorem optAf_optAfBits (x : Option AField) : optAf (optAfBits x) = some x := by
  cases x with
  | none => rfl
  | some x => simp [optAf, optAfBits, afBits_ne_zero]

/-- The word for absence is no scalar name (R309, R310). -/
theorem coOf_coBits {z : BitVec 9} (hz : z = 0x180 ∨ z = 0) (c : Option (Fin 64)) : coOf z (coBits z c) = some c := by
  cases c with
  | none => simp [coOf, coBits]
  | some n =>
    have hn := n.isLt
    have hne : coBits z (some n) ≠ z := by
      rw [coBits, ne_eq, BitVec.toNat_eq]; rcases hz with rfl | rfl <;> simp <;> omega
    rw [coOf, if_neg hne, show coBits z (some n) = srcBits (.scl n) from rfl, srcOf_srcBits]

theorem copy36_lt {x : Nat} {r : (CopyOp → Bool) × (CopyOp → Instr)} (h : copy36 x = some r) : x < 4 := by
  unfold copy36 at h
  split at h
  case h_5 => exact nomatch h
  all_goals decide

/-- Every copy has the conditions of R309, among them a scalar destination or none. -/
theorem okScl_of_copy36 {x : Nat} {wf : CopyOp → Bool} {mk : CopyOp → Instr} (hx : copy36 x = some (wf, mk)) {o : CopyOp}
    (h : wf o = true) : o.d.okScl = true := by
  have hc : o.wfCommon = true := by
    unfold copy36 at hx
    split at hx
    case h_5 => exact nomatch hx
    all_goals
      obtain ⟨rfl, -⟩ := Prod.mk.inj (Option.some.inj hx)
      simp only [CopyOp.cpyWf, CopyOp.mcWf, CopyOp.stWf, CopyOp.fillWf, Bool.and_eq_true] at h
      simp only [h]
  exact (Bool.and_eq_true_iff.mp hc).1

theorem decodes_encCopy {x : Nat} {wf : CopyOp → Bool} {mk : CopyOp → Instr} (hx : copy36 x = some (wf, mk)) {o : CopyOp}
    (h : wf o = true) : Decodes (encCopy x o) (mk o) := by
  have hd := okScl_of_copy36 hx h
  have hlt := copy36_lt hx
  have hmod : x % 64 = x := Nat.mod_eq_of_lt (by omega)
  have h3 : BitVec.ofNat 6 x = 3#6 ↔ x = 3 := by rw [BitVec.toNat_eq, BitVec.toNat_ofNat, hmod]; rfl
  have hco := coOf_coBits (z := if x = 3 then 0#9 else 384#9) (by split <;> simp)
  refine decodes_of_major36 (by simp) (by simp [hmod, hlt]) ?_
  simp (disch := decide) only [dec36, fieldsOf, wL, bitsAt, BitVec.extractLsb'_append_eq_of_add_le,
    BitVec.extractLsb'_append_eq_of_le]
  simp [hmod, hx, h3, hco, hd, h]

theorem acc37_range {x : Nat} {mk : AccOp → Instr} (h : acc37 x = some mk) : x ≠ 0 ∧ x < 4 := by
  unfold acc37 at h
  split at h
  case h_4 => exact nomatch h
  all_goals decide

theorem decodes_encAcc {x : Nat} {mk : AccOp → Instr} (hx : acc37 (x % 64) = some mk) (o : AccOp) :
    Decodes (encAcc x o) (mk o) := by
  obtain ⟨h0, hlt⟩ := acc37_range hx
  have hne : BitVec.ofNat 6 x ≠ 0#6 := fun h => h0 (congrArg BitVec.toNat h)
  refine decodes_of_major37 (by simp) (by simpa using hlt) ?_
  simp (disch := decide) only [dec37, fieldsOf, wL, bitsAt, BitVec.extractLsb'_append_eq_of_add_le,
    BitVec.extractLsb'_append_eq_of_le]
  simp [hx, hlt, hne]

theorem vecPair_vecPairBits {used : Bool} {x : Option (Fin 128 × Fin 128)} (h : x.isSome = used) :
    vecPair used (vecPairBits1 x) (vecPairBits2 x) = some x := by
  subst h
  cases x with
  | none => rfl
  | some x => simp [vecPair, vecPairBits1, vecPairBits2]

theorem decodes_mma {o : MmaOp} (h : o.wf = true) : Decodes (encode (.mma o)) (.mma o) := by
  have hwf := h
  simp only [MmaOp.wf, Bool.and_eq_true, beq_iff_eq] at h
  obtain ⟨-, hs⟩ := h
  refine decodes_of_major37 (by simp) (by simp) ?_
  simp (disch := decide) only [dec37, fieldsOf, wL, bitsAt, BitVec.extractLsb'_append_eq_of_add_le,
    BitVec.extractLsb'_append_eq_of_le]
  simp [tyBits, vecPair_vecPairBits rfl, vecPair_vecPairBits hs, hwf]

theorem decodes_epi (la m k : Fin 16) : Decodes (encode (.epi la m k)) (.epi la m k) := by
  refine decodes_of_major38 (by simp) (by simp) ?_
  simp (disch := decide) only [dec38, fieldsOf, wL, bitsAt, BitVec.extractLsb'_append_eq_of_add_le,
    BitVec.extractLsb'_append_eq_of_le]
  simp

@[simp] theorem payload_clamp_lo (lo hi : BitVec 32) : (Act.clamp lo hi).payload.extractLsb' 32 32 = lo :=
  BitVec.extractLsb'_append_eq_left

@[simp] theorem payload_clamp_hi (lo hi : BitVec 32) : (Act.clamp lo hi).payload.extractLsb' 0 32 = hi :=
  BitVec.extractLsb'_append_eq_right

theorem decodes_epicfg {o : EpicfgOp} (h : o.wf = true) : Decodes (encode (.epicfg o)) (.epicfg o) := by
  obtain ⟨la, mask, oty, act, scale, bias, dest, side⟩ := o
  refine decodes_of_major38 (by simp) (by simp) ?_
  simp (disch := decide) only [dec38, fieldsOf, wL, bitsAt, BitVec.extractLsb'_append_eq_of_add_le,
    BitVec.extractLsb'_append_eq_of_le]
  cases act with
  | none | relu => cases oty <;> simp [OTy.code, Act.code, Act.payload, h]
  | clamp lo hi => cases oty <;> simp [OTy.code, Act.code, h]

@[simp] theorem sclOf_srcBits (n : Fin 64) : dec39.sclOf (srcBits (.scl n)) = some n := by
  rw [dec39.sclOf, srcOf_srcBits]

theorem decodes_coll {o : CollOp} (h : o.wf = true) : Decodes (encode (.coll o)) (.coll o) := by
  obtain ⟨la, mask, kind, ty, k, dst, src, count, group⟩ := o
  obtain ⟨-, hg⟩ := Bool.and_eq_true_iff.mp h
  refine decodes_of_major39 (by simp) (by simp) ?_
  simp (disch := decide) only [dec39, fieldsOf, wL, bitsAt, BitVec.extractLsb'_append_eq_of_add_le,
    BitVec.extractLsb'_append_eq_of_le]
  cases kind with
  | allred op | redsc op => cases op <;> simp [CollKind.codes, Comb.code, combOf, tyBits, hg, h]
  | allgat => simp [CollKind.codes, tyBits, hg, h]

theorem decodes_collwait {g : SC} (h : g.nonneg = true) (la m k : Fin 16) :
    Decodes (encode (.collwait la m k g)) (.collwait la m k g) := by
  refine decodes_of_major39 (by simp) (by simp) ?_
  simp (disch := decide) only [dec39, fieldsOf, wL, bitsAt, BitVec.extractLsb'_append_eq_of_add_le,
    BitVec.extractLsb'_append_eq_of_le]
  simp [h]

/-! ## Major 0x3C (R94) -/

theorem decodes_trap (n : BitVec 6) : Decodes (encode (.trap n)) (.trap n) :=
  decodes_of_major3C (by simp) (by simp [dec3C, destBits, cntBits])

theorem decodes_tret (skip : Bool) : Decodes (encode (.tret skip)) (.tret skip) :=
  decodes_of_major3C (by simp) (by simp [dec3C, destBits, cntBits])

theorem decodes_brk (n : BitVec 6) : Decodes (encode (.brk n)) (.brk n) :=
  decodes_of_major3C (by simp) (by simp [dec3C, destBits, cntBits])

/-- The code of a system register stands as an inline constant (R97). -/
theorem sysRegOf_ctlBits (r : SysReg) :
    ∃ n, idxOf (ctlBits r.code) = some n ∧ sysRegOf n.toNat = some r := by
  refine ⟨BitVec.ofNat 6 r.code, ?_⟩
  cases r <;> decide

theorem decodes_rdsr {m : Fin 16} {d : Dest} (hd : d.ok = true) (hm : maskOk d m = true) (r : SysReg) :
    Decodes (encode (.rdsr m d r)) (.rdsr m d r) := by
  obtain ⟨n, hn, hr⟩ := sysRegOf_ctlBits r
  exact decodes_of_major3C (by simp) (by simp [dec3C, hd, hm, hn, hr])

theorem decodes_wrsr {r : SysReg} (h : (r == .fdone) = true) (a : SC) : Decodes (encode (.wrsr r a)) (.wrsr r a) := by
  obtain ⟨n, hn, hr⟩ := sysRegOf_ctlBits r
  exact decodes_of_major3C (by simp) (by simp [dec3C, destBits, cntBits, hn, hr, h])

theorem decodes_feat {d : Dest} (h : d.okScl = true) (n : BitVec 6) : Decodes (encode (.feat d n)) (.feat d n) :=
  decodes_of_major3C (by simp) (by simp [dec3C, h])

theorem decodes_nop : Decodes (encode .nop) .nop :=
  decodes_of_major3C (by simp) (by simp [dec3C, destBits, cntBits])

theorem decodes_sleep (a : SC) : Decodes (encode (.sleep a)) (.sleep a) :=
  decodes_of_major3C (by simp) (by simp [dec3C, destBits, cntBits])

theorem decodes_prog (n : Fin 16) : Decodes (encode (.prog n)) (.prog n) :=
  decodes_of_major3C (by simp) (by simp [dec3C, destBits, cntBits])

theorem decodes_tstamp {d : Dest} (h : d.okScl = true) : Decodes (encode (.tstamp d)) (.tstamp d) :=
  decodes_of_major3C (by simp) (by simp [dec3C, h])

/-! ## The round trip -/

/-- The words of a well-formed instruction decode to it, whatever bytes follow; each constructor by the lemma of its form. -/
theorem decodes_encode (i : Instr) (hwf : i.wf = true) (hev : i.isEvent = false) : Decodes (encode i) i := by
  cases i
  case iabs | ineg | inot | popc | clz | ctz | brev => exact decodes_enc1_01 rfl hwf
  case add | sub | mul | mulhi | imin | imax | iand | ior | ixor | iandn | shl | shr | sar | rotl | bfx | divq | remq
      | addsat | subsat => exact decodes_enc2_01 rfl hwf
  case mad | bfi | sel => exact decodes_enc3_01 rfl hwf
  case addi | muli | andi | ori | xori | shli | shri | sari | mini | maxi => exact decodes_encI rfl hwf
  case cmpEq | cmpNe | cmpLt | cmpLe | cmpGt | cmpGe => exact decodes_encCmp rfl hwf
  case cmpiEq | cmpiNe | cmpiLt | cmpiLe | cmpiGt | cmpiGe => exact decodes_encCmpI rfl hwf
  case mov => exact decodes_mov hwf
  case movi => exact decodes_movi hwf
  case drop => exact decodes_drop hwf
  case hold => exact decodes_hold hwf
  case mmov =>
    obtain ⟨hmd, ha⟩ := Bool.and_eq_true_iff.mp hwf
    exact decodes_mmov hmd ha
  case msel => exact decodes_msel hwf
  case lea => exact decodes_lea hwf
  case leax => exact decodes_leax hwf
  case movl => exact decodes_movl hwf
  case br => exact decodes_br _
  case brd => exact decodes_brd _ _ _
  case brnz => exact decodes_brnz _ _
  case brz => exact decodes_brz _ _
  case call => exact decodes_call hwf _
  case callx => exact decodes_callx hwf _
  case ret => exact decodes_ret _
  case exit => exact decodes_exit
  case brw => exact decodes_brw _ _ _ _
  case wset => exact decodes_wset _
  case wrd => exact decodes_wrd hwf _ _
  case wend => exact decodes_wend _
  case fabs | fneg => exact decodes_enc1_10 rfl hwf
  case fadd | fsub | fmul | fmin | fmax | fcopysign => exact decodes_enc2_10 rfl hwf
  case fma | fclamp | fmax3 | fmin3 => exact decodes_enc3_10 rfl hwf
  case fdiv => exact decodes_fdiv hwf
  case frcp | frsq | fsqrt => exact decodes_encFn1 rfl hwf
  case fexp2 | flog2 | fsin | fcos | ftanh => exact decodes_encFn1 (tyOk := Ty.isFn) rfl hwf
  case cvt => exact decodes_cvt hwf
  case cvtsc => exact decodes_cvtsc hwf
  case cvtpk => exact decodes_cvtpk hwf
  case fcmp => exact decodes_fcmp hwf
  case fclass => exact decodes_fclass hwf
  case fisnan => exact decodes_fisnan hwf
  case dot2 => exact decodes_dot2 hwf
  case dot4 => exact decodes_dot4 hwf
  case dot8 => exact decodes_dot8 hwf
  case sxAdd | sxMul | sxFma | sxMax | sxMin => exact decodes_encSx rfl hwf
  case sxCvt => exact decodes_sxCvt hwf
  case sxExp2 => exact decodes_sxExp2 hwf
  case sxSum => exact decodes_sxSum hwf
  case shflIdx | shflUp | shflDn | shflXor => exact decodes_encShfl rfl hwf
  case bcast => exact decodes_bcast hwf
  case matchLanes => exact decodes_matchLanes hwf
  case ballot => exact decodes_ballot hwf _ _
  case any => exact decodes_any hwf _
  case all => exact decodes_all hwf _
  case scan => exact decodes_scan hwf
  case reduce => exact decodes_reduce hwf
  case mrank => exact decodes_mrank hwf
  case mand | mor | mxor => exact decodes_encMask rfl hwf _ _ _
  case mnot => exact decodes_mnot hwf _ _
  case mpop => exact decodes_mpop hwf _
  case mfirst => exact decodes_mfirst hwf _
  case mlast => exact decodes_mlast hwf _
  case cattach => exact decodes_cattach _ _
  case cdetach => exact decodes_cdetach _ _
  case cgrow => exact decodes_cgrow hwf _
  case rolesw => exact decodes_rolesw _ _
  case cwidth => exact decodes_cwidth _
  case cprio => exact decodes_cprio _
  case qsend => exact decodes_qsend _ _ _
  case qrecv => exact decodes_qrecv hwf _ _
  case tspawn => exact decodes_tspawn _ _ _ _
  case qstat => exact decodes_qstat hwf _ _
  case ldG | ldR | ldH | ldC => exact decodes_encLoad_28 rfl hwf
  case stG | stR | stH => exact decodes_encStore_29 rfl hwf
  case ldA => exact decodes_ldA hwf
  case stA => exact decodes_stA hwf
  case ldxA => exact decodes_ldxA hwf
  case stxA => exact decodes_stxA hwf
  case ldW => exact decodes_ldW hwf
  case crpop => exact decodes_crpop hwf
  case crpeek => exact decodes_crpeek hwf
  case atomAdd | atomMin | atomMax | atomAnd | atomOr | atomXor | atomExch | atomInc =>
    exact decodes_encAtom rfl hwf hwf
  case atomCas => exact decodes_atomCas hwf
  case redAdd => exact decodes_redAdd hwf
  case redMin => exact decodes_redMin hwf
  case redMax => exact decodes_redMax hwf
  case rflush => exact decodes_rflush _ _
  case pfG => exact decodes_pfG hwf
  case pfCode => exact decodes_pfCode hwf
  case fence => exact decodes_fence _
  case wait => exact decodes_wait hwf _
  case waitall => exact decodes_waitall
  case ifence => exact decodes_ifence
  case bar => exact decodes_bar hwf
  case barv =>
    obtain ⟨hn, hd⟩ := Bool.and_eq_true_iff.mp hwf
    exact decodes_barv hn hd
  case bararr => exact decodes_bararr hwf
  case bardrop => exact decodes_bardrop hwf _
  case abinit =>
    simp only [Instr.wf, Bool.and_eq_true] at hwf
    obtain ⟨⟨ha, hn⟩, hb⟩ := hwf
    exact decodes_abinit ha hn hb
  case abarrive => exact decodes_abarrive hwf
  case abexpect =>
    obtain ⟨ha, hb⟩ := Bool.and_eq_true_iff.mp hwf
    exact decodes_abexpect ha hb
  case abwait =>
    obtain ⟨ha, hp⟩ := Bool.and_eq_true_iff.mp hwf
    exact decodes_abwait ha hp
  case cpy | cpyMc | cpyst | cpyfill => exact decodes_encCopy rfl hwf
  case mma => exact decodes_mma hwf
  case mcl | mclr | mrd => exact decodes_encAcc rfl _
  case epi => exact decodes_epi _ _ _
  case epicfg => exact decodes_epicfg hwf
  case coll => exact decodes_coll hwf
  case collwait => exact decodes_collwait hwf _ _ _
  case trap => exact decodes_trap _
  case tret => exact decodes_tret _
  case brk => exact decodes_brk _
  case rdsr =>
    obtain ⟨hd, hm⟩ := Bool.and_eq_true_iff.mp hwf
    exact decodes_rdsr hd hm _
  case wrsr => exact decodes_wrsr hwf _
  case feat => exact decodes_feat hwf _
  case nop => exact decodes_nop
  case sleep => exact decodes_sleep _
  case prog => exact decodes_prog _
  case tstamp => exact decodes_tstamp hwf
  -- `seal` is a keyword and cannot name a case: it is the first goal left, before those of the events.
  · exact decodes_seal _
  all_goals exact nomatch hev

end Sys2Proof.Encoding

namespace Sys2Proof.Machine

/-- Settles O58: each word of format A, I, B, M or L holds its fields apart (`fieldsOf_wordOf`, `fieldsOf_wL`), each field gives
its operand back, and the decoder's checks are the conditions of `Instr.wf`. -/
theorem encodingRoundTrip : Obligations.EncodingRoundTrip := by
  intro i rest hwf hev
  exact Encoding.decodes_encode i hwf hev rest

end Sys2Proof.Machine
end

section
/-! PROOF. The privileged commands of a partition's own resources (O45: R17, R18, R377 to R385). From the bottom up: what a signal, the
head of queue 0 and a status leave alone; the outcome of `runCmd`, done, rejected or waiting; what a halt and a configuration leave alone;
then a lemma for each command. -/
namespace Sys2Proof.Machine

/-! ## Tables of the package -/

@[simp] theorem Device.partAt_setPart_same (d : Device) (pn : Nat) (x : Partition) : (d.setPart pn x).partAt pn = x := by
  simp [Device.partAt, tgetD]

theorem Device.partAt_congr {d e : Device} (h : e.parts = d.parts) (pn : Nat) : e.partAt pn = d.partAt pn := by
  rw [Device.partAt, Device.partAt, h]

@[simp] theorem Partition.hq_setHq_same (p : Partition) (q : Nat) (x : HQueue) : (p.setHq q x).hq q = x := by
  simp [Partition.hq, tgetD]

theorem Partition.hq_setHq_other (p : Partition) {q r : Nat} (x : HQueue) (h : r ≠ q) : (p.setHq q x).hq r = p.hq r := by
  simp [Partition.hq, tgetD, tget_tset_other _ _ h]

theorem mem_of_tget {α : Type} {t : Tbl α} {n : Nat} {x : α} (h : tget t n = some x) : (n, x) ∈ t := by
  induction t with
  | nil => simp at h
  | cons e r ih =>
    obtain ⟨k, y⟩ := e
    by_cases hk : k = n
    · simp_all [tget]
    · exact List.mem_cons_of_mem _ (ih (by simpa [tget, hk] using h))

/-! ## Putting the focus back -/

@[simp] theorem State.flush_mem (s : State) : s.flush.dev.mem = s.dev.mem := by
  unfold State.flush
  split <;> rfl

@[simp] theorem State.flush_parts (s : State) : s.flush.dev.parts = s.dev.parts := by
  unfold State.flush
  split <;> rfl

@[simp] theorem State.flush_partAt (s : State) (pn : Nat) : s.flush.dev.partAt pn = s.dev.partAt pn :=
  Device.partAt_congr s.flush_parts pn

theorem State.load_dev {s t : State} {c sl p : Nat} (h : s.load c sl p = some t) : t.dev = s.flush.dev := by
  unfold State.load at h
  dsimp only at h
  split at h
  · cases h
  · split at h
    · cases h
    · cases h; rfl

/-! ## Signals and the head of queue 0 (R378, R381) -/

theorem Device.signal_eq (d : Device) (p q : Nat) :
    d.signal p q = { d with vectors := (d.signal p q).vectors, msix := (d.signal p q).msix } := by
  unfold Device.signal Device.send
  cases d.holder p with
  | none => rfl
  | some port =>
    dsimp only
    split <;> rfl

@[simp] theorem Device.signal_mem (d : Device) (p q : Nat) : (d.signal p q).mem = d.mem := by rw [Device.signal_eq]
@[simp] theorem Device.signal_parts (d : Device) (p q : Nat) : (d.signal p q).parts = d.parts := by rw [Device.signal_eq]
@[simp] theorem Device.signal_asids (d : Device) (p q : Nat) : (d.signal p q).asids = d.asids := by rw [Device.signal_eq]
@[simp] theorem Device.signal_partAt (d : Device) (p q pn : Nat) : (d.signal p q).partAt pn = d.partAt pn :=
  Device.partAt_congr (d.signal_parts p q) pn

@[simp] theorem Device.advance_mem (d : Device) (pn q : Nat) : (d.advance pn q).mem = d.mem := by
  unfold Device.advance
  split <;> rfl

@[simp] theorem Device.advance_asids (d : Device) (pn q : Nat) : (d.advance pn q).asids = d.asids := by
  unfold Device.advance
  split <;> rfl

theorem Device.advance_partAt (d : Device) (pn q : Nat) :
    ∃ h, (d.advance pn q).partAt pn = (d.partAt pn).setHq q { d.hq pn q with head := h } ∨ d.advance pn q = d := by
  unfold Device.advance
  split
  · exact ⟨_, .inl (Device.partAt_setPart_same ..)⟩
  · exact ⟨0, .inr rfl⟩

/-! ## The end of a command (R378) -/

/-- What the end of a command leaves of the device `d` that the command made: the address spaces, and of the partition all but the head
of queue 0. -/
structure Device.Ended (d e : Device) (pn : Nat) : Prop where
  asids : e.asids = d.asids
  part : ∃ qs, e.partAt pn = { d.partAt pn with queues := qs }
  head : ∃ h, e.hq pn 0 = { d.hq pn 0 with head := h }
  others : ∀ q, q ≠ 0 → e.hq pn q = d.hq pn q

theorem Device.ended_self {d e : Device} {pn : Nat} (ha : e.asids = d.asids) (hp : e.partAt pn = d.partAt pn) : d.Ended e pn where
  asids := ha
  part := ⟨_, hp⟩
  head := ⟨_, by rw [Device.hq, hp]; rfl⟩
  others q _ := by rw [Device.hq, hp]; rfl

theorem Device.ended_head {d e : Device} {pn h : Nat} (ha : e.asids = d.asids)
    (hp : e.partAt pn = (d.partAt pn).setHq 0 { d.hq pn 0 with head := h }) : d.Ended e pn where
  asids := ha
  part := ⟨_, hp⟩
  head := ⟨h, by rw [Device.hq, hp, Partition.hq_setHq_same]⟩
  others q hq := by rw [Device.hq, hp, Partition.hq_setHq_other _ _ hq]; rfl

theorem Device.ended_advance_signal (d : Device) (pn : Nat) : d.Ended ((d.advance pn 0).signal pn 0) pn := by
  obtain ⟨h, hp | he⟩ := d.advance_partAt pn 0
  · exact Device.ended_head (h := h) (by simp) (by rw [Device.signal_partAt, hp])
  · exact Device.ended_self (by simp) (by rw [Device.signal_partAt, he])

theorem Device.ended_finishCmd (d0 d : Device) (pn status detail st : Nat) : d.Ended (d0.finishCmd d pn status detail st) pn := by
  unfold Device.finishCmd
  dsimp only
  split
  · exact d.ended_advance_signal pn
  · have h := Device.ended_advance_signal { d with mem := d.mem.write (d0.locPlace pn st) (leBytes 8 (status + 2 ^ 8 * detail)) } pn
    exact ⟨h.asids, h.part, h.head, h.others⟩

theorem Device.Ended.inPairs {d e : Device} {pn : Nat} (h : d.Ended e pn) (a n : Nat) :
    (e.partAt pn).inPairs a n = (d.partAt pn).inPairs a n := by
  obtain ⟨qs, hp⟩ := h.part
  rw [hp]; rfl

/-- A status that is written reads back. -/
theorem Device.finishCmd_status (d0 d : Device) (pn status detail st : Nat)
    (h : (d0.partAt pn).loc = true → (d.partAt pn).inPairs st 8 = true) :
    (d0.finishCmd d pn status detail st).mem.nat (d0.locPlace pn st) 8 = (status + 256 * detail) % 2 ^ 64 := by
  have hw : ((d0.partAt pn).loc && !(d.partAt pn).inPairs st 8) = false := by
    cases hl : (d0.partAt pn).loc with
    | false => rfl
    | true => rw [h hl]; rfl
  unfold Device.finishCmd
  rw [hw]
  simp [Memory.nat_write]

theorem State.told_finishCmd (s u : State) (d : Device) (pn status detail st : Nat) (hw : status + 256 * detail < 2 ^ 64) :
    s.Told { u with dev := s.flush.dev.finishCmd d pn status detail st } pn st (status + 256 * detail) := by
  intro hl
  have hp := (Device.ended_finishCmd s.flush.dev d pn status detail st).inPairs st 8
  rw [Device.finishCmd_status _ _ _ _ _ _ fun h => hp ▸ hl (by rwa [State.flush_partAt] at h), Nat.mod_eq_of_lt hw]

/-! ## The halt (R345) -/

/-- Memory and partitions are as they were. -/
def State.SameStore (s t : State) : Prop := t.dev.mem = s.dev.mem ∧ t.dev.parts = s.dev.parts

theorem State.SameStore.trans {s t u : State} (h : s.SameStore t) (k : t.SameStore u) : s.SameStore u :=
  ⟨k.1.trans h.1, k.2.trans h.2⟩

theorem State.sameStore_of_dev {s t : State} (h : t.dev = s.dev) : s.SameStore t := ⟨by rw [h], by rw [h]⟩

theorem State.sameStore_flush (s : State) : s.SameStore s.flush := ⟨s.flush_mem, s.flush_parts⟩

theorem State.sameStore_setTag (s : State) (l : Level) (t : Nat) (x : Tag) : s.SameStore (s.setTag l t x) := by
  cases l with
  | pod =>
    unfold State.setTag
    dsimp only
    split <;> exact ⟨rfl, rfl⟩
  | _ => exact ⟨rfl, rfl⟩

theorem State.sameStore_unwait (s : State) : s.SameStore s.unwait := by
  unfold State.unwait
  dsimp only
  split
  · exact s.sameStore_setTag ..
  · exact ⟨rfl, rfl⟩

theorem State.unstream_dev (s : State) : s.unstream.dev = s.dev := by
  unfold State.unstream
  split
  · split <;> rfl
  · rfl

theorem State.sameStore_haltWindow (s : State) : s.SameStore s.haltWindow := by
  unfold State.haltWindow
  split
  · split
    · exact ⟨rfl, rfl⟩
    · split
      · exact s.sameStore_unwait
      · exact s.sameStore_unwait.trans (State.sameStore_of_dev s.unwait.unstream_dev)
  · exact ⟨rfl, rfl⟩

theorem State.sameStore_haltPath (s : State) : s.SameStore s.haltPath := by
  unfold State.haltPath
  dsimp only
  split
  · next n hs =>
    have hadv : s.SameStore ({ s with path := { s.path with status := .ready } }).advance :=
      State.sameStore_of_dev (by rw [advance_eq])
    exact hadv.trans (State.sameStore_haltWindow _)
  · exact s.sameStore_haltWindow

theorem State.sameStore_haltAll (s : State) (pn : Nat) : s.SameStore (s.haltAll pn) := by
  unfold State.haltAll
  refine List.foldlRecOn _ _ s.sameStore_flush fun u hu r _ => ?_
  split
  · next t ht =>
    have hload : u.SameStore t := u.sameStore_flush.trans (State.sameStore_of_dev (State.load_dev ht))
    exact (hu.trans hload).trans (t.sameStore_haltPath.trans t.haltPath.sameStore_flush)
  · exact hu

/-- A command that begins to halt its partition leaves the memory and the partitions of its outcome. -/
theorem halting_sameStore (pn : Nat) (s t : State) : ∃ u, halting pn s (.next t) = .next u ∧ t.SameStore u := by
  unfold halting
  dsimp only
  split
  · exact ⟨_, rfl, t.sameStore_haltAll pn⟩
  · exact ⟨t, rfl, rfl, rfl⟩

/-- No partition halts at a command after which it is not being pre-empted. -/
theorem halting_of_none (pn : Nat) (s t : State) (h : (t.dev.partAt pn).preempt = none) : halting pn s (.next t) = .next t := by
  simp [halting, h]

/-! ## Running a command (R378, R380) -/

/-- The outcome of a command that is accepted, from what comes of it: with its status and detail, or waiting. -/
def Cmd.outcome (s : State) (pn st : Nat) : Cmd → Out
  | .ok d => .next { s.flush with dev := s.flush.dev.finishCmd d pn 0 0 st }
  | .bad n => .next { s.flush with dev := s.flush.dev.finishCmd s.flush.dev pn 1 n st }
  | .wait d => .next { s.flush with dev := d }

section run
variable {op pn a st : Nat} {check : Opnd → Bool → Bool} {body : Opnd → Device → Cmd} {s : State}

/-- A command at the head of queue 0 whose operand is well formed comes to what its body says. -/
theorem runCmd_of_commanded (h : s.Commanded pn op a st) (hc : check (s.opnd pn a) (a = 0) = true) :
    runCmd op pn check body s = (body (s.opnd pn a) s.flush.dev).outcome s pn st := by
  obtain ⟨head, align, conf⟩ := h
  have hf : (fun o n => s.flush.dev.mem.nat (s.flush.dev.locPlace pn a + o) n) = s.opnd pn a := by
    rw [State.flush_mem]; rfl
  have hconf : (op ≠ 0x10 && !(s.flush.dev.partAt pn).configured) = false := by
    rw [State.flush_partAt]
    rcases conf with h | h <;> simp [h]
  have hbad : (a % 8 ≠ 0 || !check (s.opnd pn a) (a = 0)) = false := by simp [align, hc]
  unfold runCmd
  simp only [head, hf]
  rw [if_neg (by simpa using hbad), if_neg (by simpa using hconf)]
  rfl

theorem runCmd_ok {d : Device} (h : s.Commanded pn op a st) (hc : check (s.opnd pn a) (a = 0) = true)
    (hb : body (s.opnd pn a) s.flush.dev = .ok d) :
    runCmd op pn check body s = .next { s.flush with dev := s.flush.dev.finishCmd d pn 0 0 st } := by
  rw [runCmd_of_commanded h hc, hb]
  rfl

theorem runCmd_bad {n : Nat} (h : s.Commanded pn op a st) (hc : check (s.opnd pn a) (a = 0) = true)
    (hb : body (s.opnd pn a) s.flush.dev = .bad n) :
    runCmd op pn check body s = .next { s.flush with dev := s.flush.dev.finishCmd s.flush.dev pn 1 n st } := by
  rw [runCmd_of_commanded h hc, hb]
  rfl

theorem runCmd_wait {d : Device} (h : s.Commanded pn op a st) (hc : check (s.opnd pn a) (a = 0) = true)
    (hb : body (s.opnd pn a) s.flush.dev = .wait d) : runCmd op pn check body s = .next { s.flush with dev := d } := by
  rw [runCmd_of_commanded h hc, hb]
  rfl

/-- An instruction that is such a command runs: what holds of every end of the device that the body makes, holds after it. -/
theorem runs_of_ok {i : Instr} {d : Device} {P : State → Prop} (hx : exec i s = runCmd op pn check body s) (h : s.Commanded pn op a st)
    (hc : check (s.opnd pn a) (a = 0) = true) (hb : body (s.opnd pn a) s.flush.dev = .ok d)
    (hP : ∀ t : State, d.Ended t.dev pn → P t) : Runs i s pn st P :=
  ⟨_, hx.trans (runCmd_ok h hc hb), s.told_finishCmd s.flush d pn 0 0 st (by decide), hP _ (Device.ended_finishCmd ..)⟩

/-- A command that halts its partition when it is first met runs the same where the partition is not being pre-empted afterwards. -/
theorem runs_of_halting {i : Instr} {d : Device} {P : State → Prop} (hx : exec i s = halting pn s (runCmd op pn check body s))
    (h : s.Commanded pn op a st) (hc : check (s.opnd pn a) (a = 0) = true) (hb : body (s.opnd pn a) s.flush.dev = .ok d)
    (hpre : (d.partAt pn).preempt = none) (hP : ∀ t : State, d.Ended t.dev pn → P t) : Runs i s pn st P := by
  have hend := Device.ended_finishCmd s.flush.dev d pn 0 0 st
  obtain ⟨qs, hp⟩ := hend.part
  refine ⟨_, ?_, s.told_finishCmd s.flush d pn 0 0 st (by decide), hP _ hend⟩
  rw [hx, runCmd_ok h hc hb, halting_of_none _ _ _ (by rw [hp]; exact hpre)]

end run

/-! ## Giving up resources (R384, R385) -/

@[simp] theorem Device.zeroQuad_parts (d : Device) (q : Nat) : (d.zeroQuad q).parts = d.parts := rfl
@[simp] theorem Device.zeroL2_parts (d : Device) (pn die : Nat) : (d.zeroL2 pn die).parts = d.parts := rfl
@[simp] theorem Device.zeroBridge_parts (d : Device) (b : Nat) (x : Bridge) (clock : Nat) : (d.zeroBridge b x clock).parts = d.parts := rfl

theorem Device.zeroPair_configured (d : Device) (pn i : Nat) : ((d.zeroPair pn i).partAt pn).configured = (d.partAt pn).configured := by
  unfold Device.zeroPair
  dsimp only
  split
  · simp [Device.partAt, tgetD, Device.dropTags]
  · rfl

/-- What every step of a fold keeps of a partition, the fold keeps. -/
theorem foldl_keeps {α β : Type} (g : Device → α) (f : Device → β → Device) (hf : ∀ d b, g (f d b) = g d) (l : List β) (d : Device) :
    g (l.foldl f d) = g d :=
  List.foldlRecOn (motive := fun e => g e = g d) l f rfl fun e he b _ => (hf e b).trans he

theorem Device.giveUp_configured (d : Device) (pn : Nat) (quads : BitVec 128) (pairs : BitVec 8) (shares : List Nat) :
    ((d.giveUp pn quads pairs shares).partAt pn).configured = (d.partAt pn).configured := by
  unfold Device.giveUp
  dsimp only
  rw [Device.partAt_congr (foldl_keeps Device.parts _ (fun e i => e.zeroL2_parts pn i) _ _),
    foldl_keeps (fun e => (e.partAt pn).configured) _ (fun e i => e.zeroPair_configured pn i) _ _,
    Device.partAt_congr (foldl_keeps Device.parts _ Device.zeroQuad_parts _ _)]

theorem Device.changeOwner_configured (d : Device) (clock pn port : Nat) :
    ((d.changeOwner clock pn port).partAt pn).configured = (d.partAt pn).configured := by
  unfold Device.changeOwner
  dsimp only
  rw [Device.partAt_setPart_same]
  dsimp only
  refine congrArg Partition.configured (Device.partAt_congr (foldl_keeps Device.parts _ (fun e b => ?_) _ _) pn)
  split <;> rfl

theorem Device.settleOwner_configured (d : Device) (clock pn : Nat) :
    ((d.settleOwner clock pn).partAt pn).configured = (d.partAt pn).configured := by
  unfold Device.settleOwner
  split
  · split
    · rfl
    · exact d.changeOwner_configured ..
  · rfl

/-- The device that CONFIGURE makes, with the resources that the partition then has (R17, R18). -/
def Device.configure (d : Device) (clock pn : Nat) (quads : BitVec 128) (pairs : BitVec 8) (shares : List Nat) : Device :=
  let d := (d.giveUp pn quads pairs shares).settleOwner clock pn
  let p := d.partAt pn
  let p := { p with
    quads := quads, pairs := pairs, shares := shares, configured := true, clock0 := if p.configured then p.clock0 else clock
    ahead := if p.configured then p.ahead else 0
    ordinals := if p.configured then p.ordinals else 0 }
  let d := d.setPart pn p
  d.setPart pn { p with master := (d.diesOf pn).headD 0 }

theorem Device.configure_partAt (d : Device) (clock pn : Nat) (quads : BitVec 128) (pairs : BitVec 8) (shares : List Nat) :
    let p := (d.configure clock pn quads pairs shares).partAt pn
    p.configured = true ∧ p.quads = quads ∧ p.pairs = pairs ∧ p.shares = shares ∧
      ((d.partAt pn).configured = false → p.clock0 = clock) := by
  intro p
  have hp : p = _ := Device.partAt_setPart_same ..
  rw [hp]
  refine ⟨rfl, rfl, rfl, rfl, fun hconf => ?_⟩
  rw [← d.giveUp_configured pn quads pairs shares, ← Device.settleOwner_configured _ clock] at hconf
  exact if_neg (by rw [hconf]; decide)

/-- The shares of the dies' L2 that a partition holds of those that it asks for (R18). -/
def heldShares (quads : BitVec 128) (pairs : BitVec 8) (asked : List Nat) : List Nat :=
  (List.range 4).map fun i => if needsL2 quads pairs i then asked.getD i 0 else 0

theorem heldShares_needed (quads : BitVec 128) (pairs : BitVec 8) (asked : List Nat)
    (h : ∀ i < 4, needsL2 quads pairs i = true → asked.getD i 0 ≠ 0) :
    ((List.range 4).any fun i => needsL2 quads pairs i && (heldShares quads pairs asked).getD i 0 = 0) = false := by
  simp only [List.any_eq_false, List.mem_range]
  intro i hi hn
  obtain ⟨hn, h0⟩ := Bool.and_eq_true_iff.mp hn
  exact h i hi hn (by simpa [heldShares, hi, hn] using h0)

/-! ## Release (R382) -/

theorem Device.freePart_partAt (d : Device) (clock pn : Nat) :
    ((d.freePart clock pn).partAt pn).configured = false ∧ ((d.freePart clock pn).partAt pn).quads = 0 ∧
      ((d.freePart clock pn).partAt pn).pairs = 0 ∧ ((d.freePart clock pn).partAt pn).preempt = none := by
  unfold Device.freePart
  dsimp only
  rw [Device.partAt_setPart_same]
  exact ⟨rfl, rfl, rfl, rfl⟩

theorem Device.freePart_asids (d : Device) (clock pn k : Nat) (x : Asid) (h : tget (d.freePart clock pn).asids k = some x) :
    x.part ≠ pn := by
  unfold Device.freePart at h
  dsimp only [Device.setPart_asids] at h
  simpa using (List.mem_filter.mp (mem_of_tget h)).2

/-! ## The commands -/

section commands
variable {s : State} {pn a st : Nat}

/-- Whatever a partition that is configured already runs (log entry 51). -/
theorem configure_runs (h : s.Commanded pn 0x10 a st) : let d := s.flush.dev
    let f := s.opnd pn a
    let quads := BitVec.ofNat 128 (f 0 16)
    let pairs := BitVec.ofNat 8 (f 0x10 1)
    let shares := (List.range 4).map fun i => f (0x14 + i) 1
    f 0x11 3 = 0 → f 0x18 8 = 0 → (∀ i < 4, shares.getD i 0 ≤ 16) → (d.partAt pn).sealed = false → quads ≠ 0 → pairs ≠ 0 →
    (∀ x ∈ d.parts, x.1 ≠ pn → x.2.quads &&& quads = 0 ∧ x.2.pairs &&& pairs = 0) →
    (∀ i < 4, (d.parts.filter fun x => x.1 != pn).foldl (fun n x => n + shareOf x.2 i) (shares.getD i 0) ≤ 16) →
    (∀ i < 4, needsL2 quads pairs i = true → shares.getD i 0 ≠ 0) →
    Runs (.configure pn) s pn st fun t => (t.dev.partAt pn).configured = true ∧ (t.dev.partAt pn).quads = quads ∧
      (t.dev.partAt pn).pairs = pairs ∧
      (t.dev.partAt pn).shares = (List.range 4).map (fun i => if needsL2 quads pairs i then shares.getD i 0 else 0) ∧
      ((d.partAt pn).configured = false → (t.dev.partAt pn).clock0 = s.clock) := by
  intro d f quads pairs shares hz hz' h16 hseal hq hp hfree hsum hneed
  have hshares : ∀ i < 4, shares.getD i 0 = f (0x14 + i) 1 := fun i hi => by simp [shares, hi]
  have hcheck : (f 0x11 3 = 0 && f 0x18 8 = 0 && (List.range 4).all fun i => f (0x14 + i) 1 ≤ 16) = true := by
    simp only [hz, hz', decide_true, Bool.true_and, List.all_eq_true, List.mem_range, decide_eq_true_eq]
    exact fun i hi => hshares i hi ▸ h16 i hi
  have hfree' : ((d.parts.filter fun x => x.1 != pn).any fun x => x.2.quads &&& quads != 0 || x.2.pairs &&& pairs != 0) = false := by
    simp only [List.any_eq_false, List.mem_filter, and_imp]
    intro x hx hne
    obtain ⟨h1, h2⟩ := hfree x hx (by simpa using hne)
    simp [h1, h2]
  have hsum' : ((List.range 4).any fun i => 16 <
      (d.parts.filter fun x => x.1 != pn).foldl (fun n x => n + shareOf x.2 i) (shares.getD i 0)) = false := by
    simp only [List.any_eq_false, List.mem_range, decide_eq_true_eq, Nat.not_lt]
    exact hsum
  have hneed' := heldShares_needed quads pairs shares hneed
  have hx := exec_configure pn s
  unfold execConfigure at hx
  extract_lets clock at hx
  refine runs_of_ok (d := d.configure s.clock pn quads pairs (heldShares quads pairs shares)) hx h hcheck ?_ fun t ht => ?_
  · dsimp only
    rw [if_neg (by rw [hseal]; decide), if_neg (by rw [hfree', hsum']; decide), if_neg (by simpa using And.intro hq hp),
      if_neg (by rw [heldShares] at hneed'; rw [hneed']; decide)]
    rfl
  · obtain ⟨qs, hpart⟩ := ht.part
    rw [hpart]
    exact d.configure_partAt s.clock pn quads pairs _

theorem sealPartition_runs (h : s.Commanded pn 0x11 a st) (ha : a = 0) (hs : (s.flush.dev.partAt pn).sealed = false) :
    Runs (.sealPartition pn) s pn st fun t => (t.dev.partAt pn).sealed = true := by
  refine runs_of_ok (d := s.flush.dev.setPart pn { s.flush.dev.partAt pn with sealed := true })
    (exec_sealPartition pn s) h (by simpa using ha) ?_ fun t ht => ?_
  · dsimp only
    rw [if_neg (by rw [hs]; decide)]
  · obtain ⟨qs, hp⟩ := ht.part
    rw [hp, Device.partAt_setPart_same]

/-- The first turn of RELEASE_PARTITION begins the pre-emption and halts the partition's paths (R345, R382). -/
theorem releasePartition_waits (h : s.Commanded pn 0x12 a st) (ha : a = 0) (hp : (s.flush.dev.partAt pn).preempt = none)
    (hs : (s.flush.dev.partAt pn).saved = false) : ∃ t, exec (.releasePartition pn) s = .next t ∧
      (t.dev.partAt pn).preempt = some (0, 0) ∧ t.dev.mem = s.dev.mem := by
  obtain ⟨u, hu, hmem, hparts⟩ := halting_sameStore pn s
    { s.flush with dev := s.flush.dev.setPart pn { s.flush.dev.partAt pn with preempt := some (0, 0) } }
  refine ⟨u, ((exec_releasePartition pn s).trans (congrArg (halting pn s) (runCmd_wait h ?_ ?_))).trans hu, ?_,
    hmem.trans s.flush_mem⟩
  · simpa using ha
  · dsimp only
    rw [if_pos (by rw [hp, hs]; rfl)]
  · rw [Device.partAt_congr hparts, Device.partAt_setPart_same]

theorem releasePartition_runs (h : s.Commanded pn 0x12 a st) (ha : a = 0)
    (hp : (s.flush.dev.partAt pn).preempt.isSome = true ∨ (s.flush.dev.partAt pn).saved = true) (hd : s.flush.dev.drained pn = true) :
    Runs (.releasePartition pn) s pn st fun t => (t.dev.partAt pn).configured = false ∧ (t.dev.partAt pn).quads = 0 ∧
      (t.dev.partAt pn).pairs = 0 ∧ ∀ k x, tget t.dev.asids k = some x → x.part ≠ pn := by
  have hbegun : ¬ ((s.flush.dev.partAt pn).preempt.isNone && !(s.flush.dev.partAt pn).saved) = true := by
    rcases hp with hp | hp
    · rw [← Option.not_isSome, hp, Bool.not_true, Bool.false_and]; decide
    · rw [hp, Bool.not_true, Bool.and_false]; decide
  obtain ⟨hconf, hquads, hpairs, hpre⟩ := s.flush.dev.freePart_partAt s.clock pn
  refine runs_of_halting (d := s.flush.dev.freePart s.clock pn) (exec_releasePartition pn s) h (by simpa using ha) ?_ hpre fun t ht => ?_
  · dsimp only
    rw [if_neg hbegun, if_pos hd]
  · obtain ⟨qs, hp⟩ := ht.part
    rw [hp, ht.asids]
    dsimp only
    exact ⟨hconf, hquads, hpairs, s.flush.dev.freePart_asids s.clock pn⟩

theorem setOverflowArea_runs (h : s.Commanded pn 0x28 a st) (hb : s.opnd pn a 0 8 % 4096 = 0) (hs : s.opnd pn a 8 8 % 4096 = 0)
    (hl : ∀ l ∈ s.flush.dev.launches, l.2.part ≠ pn)
    (hin : s.opnd pn a 8 8 = 0 ∨ (s.flush.dev.partAt pn).inPairs (s.opnd pn a 0 8) (s.opnd pn a 8 8) = true) :
    Runs (.setOverflowArea pn) s pn st fun t =>
      (t.dev.partAt pn).ovfBase = s.opnd pn a 0 8 ∧ (t.dev.partAt pn).ovfSize = s.opnd pn a 8 8 := by
  have hbad : ¬ (s.opnd pn a 8 8 ≠ 0 && !(s.flush.dev.partAt pn).inPairs (s.opnd pn a 0 8) (s.opnd pn a 8 8)) = true := by
    rcases hin with hin | hin
    · simp [hin]
    · rw [hin, Bool.not_true, Bool.and_false]; decide
  refine runs_of_ok (d := s.flush.dev.setPart pn { s.flush.dev.partAt pn with
    ovfBase := s.opnd pn a 0 8, ovfSize := s.opnd pn a 8 8, ovfOrder := [], ovfTickets := [] }) (exec_setOverflowArea pn s) h
    (by simp [hb, hs]) ?_ fun t ht => ?_
  · dsimp only
    rw [if_neg (by simpa using fun k x hx => hl (k, x) hx), if_neg hbad]
  · obtain ⟨qs, hp⟩ := ht.part
    rw [hp, Device.partAt_setPart_same]
    exact ⟨rfl, rfl⟩

theorem setQueue_runs {x : Asid} (h : s.Commanded pn 0x27 a st) : let d := s.flush.dev
    let f := s.opnd pn a
    f 0 1 ≠ 0 → f 0 1 < 8 → f 1 1 ≤ 1 → f 2 2 < 4096 → f 5 3 = 0 → f 0x10 8 = 0 → 4 ≤ f 4 1 → f 4 1 ≤ 12 →
    f 8 8 % 64 = 0 → d.unfetched pn (f 0 1) = 0 → d.asidIn pn (f 2 2) = some x →
    (f 1 1 = 1 → (d.partAt pn).inPairs (f 8 8) (64 * 2 ^ f 4 1) = true) → Runs (.setQueue pn) s pn st fun t =>
      t.dev.hq pn (f 0 1) = { d.hq pn (f 0 1) with
        set_ := true, dev := decide (f 1 1 = 1), base := f 8 8, logc := f 4 1, asid := some (f 2 2), head := 0, tail := 0 } := by
  intro d f hq hq8 hdev hasid hz hz' hlo hhi hbase hun hx hin
  have hbad : ¬ ((d.asidIn pn (f 2 2)).isNone ||
      (f 0 1 ≠ 0 && f 1 1 = 1 && !(d.partAt pn).inPairs (f 8 8) (64 * 2 ^ f 4 1))) = true := by
    rw [hx]
    simpa [d] using fun _ => hin
  refine runs_of_ok (d := d.setHq pn (f 0 1) { d.hq pn (f 0 1) with
    set_ := true, dev := decide (f 1 1 = 1), base := f 8 8, logc := f 4 1, asid := some (f 2 2), head := 0, tail := 0 })
    (exec_setQueue pn s) h ?_ ?_ fun t ht => ?_
  · simp [f, hq8, hdev, hasid, hz, hz', hlo, hhi, hbase]
  · dsimp only
    rw [if_neg (by rw [if_neg hq]; exact fun hne => hne hun), if_neg hbad, if_neg hq]
  · rw [ht.others _ hq]
    exact (congrArg (Partition.hq · _) (Device.partAt_setPart_same ..)).trans (Partition.hq_setHq_same ..)

theorem setQueue_zero_runs {x : Asid} (h : s.Commanded pn 0x27 a st) (hq : s.opnd pn a 0 1 = 0) (hdev : s.opnd pn a 1 1 ≤ 1)
    (hasid : s.opnd pn a 2 2 < 4096) (hz : s.opnd pn a 5 3 = 0) (hz' : s.opnd pn a 0x10 8 = 0) (hun : s.flush.dev.unfetched pn 0 ≤ 1)
    (hx : s.flush.dev.asidIn pn (s.opnd pn a 2 2) = some x) :
    Runs (.setQueue pn) s pn st fun t => (t.dev.hq pn 0).asid = some (s.opnd pn a 2 2) := by
  refine runs_of_ok (d := s.flush.dev.setHq pn 0 { s.flush.dev.hq pn 0 with asid := some (s.opnd pn a 2 2) })
    (exec_setQueue pn s) h (by simp [hq, hdev, hasid, hz, hz']) ?_ fun t ht => ?_
  · dsimp only
    rw [if_neg (by rw [if_pos hq]; omega), if_neg (by simp [hx, hq]), if_pos hq, hq]
  · obtain ⟨n, hn⟩ := ht.head
    rw [hn]
    exact (congrArg (fun p => (Partition.hq p 0).asid) (Device.partAt_setPart_same ..)).trans
      (congrArg HQueue.asid (Partition.hq_setHq_same ..))

theorem enrolKey_runs (h : s.Commanded pn 0x31 a st) (hslot : s.opnd pn a 0 1 < 8) (hz : s.opnd pn a 2 6 = 0)
    (hact : s.opnd pn a 1 1 = 0) : Runs (.enrolKey pn) s pn st fun t =>
      tget (t.dev.partAt pn).keys (s.opnd pn a 0 1) = some (leBytes 48 (s.opnd pn a 8 48)) := by
  have hx := exec_enrolKey pn s
  unfold execEnrolKey keyCmd at hx
  refine runs_of_ok (d := s.flush.dev.setPart pn { s.flush.dev.partAt pn with
    keys := tset (s.flush.dev.partAt pn).keys (s.opnd pn a 0 1) (leBytes 48 (s.opnd pn a 8 48)) })
    hx h (by simp [hslot, hz, hact]) ?_ fun t ht => ?_
  · dsimp only
    rw [if_neg (by simp [hact])]
  · obtain ⟨qs, hp⟩ := ht.part
    rw [hp, Device.partAt_setPart_same]
    exact tget_tset_same ..

theorem withdrawKey_runs (h : s.Commanded pn 0x31 a st) (hslot : s.opnd pn a 0 1 < 8) (hz : s.opnd pn a 2 6 = 0)
    (hact : s.opnd pn a 1 1 = 1) (hkey : (tget (s.flush.dev.partAt pn).keys (s.opnd pn a 0 1)).isSome = true) :
    Runs (.withdrawKey pn) s pn st fun t => tget (t.dev.partAt pn).keys (s.opnd pn a 0 1) = none := by
  have hx := exec_withdrawKey pn s
  unfold execWithdrawKey keyCmd at hx
  refine runs_of_ok (d := s.flush.dev.setPart pn { s.flush.dev.partAt pn with
    keys := tdel (s.flush.dev.partAt pn).keys (s.opnd pn a 0 1) }) hx h (by simp [hslot, hz, hact]) ?_ fun t ht => ?_
  · dsimp only
    rw [if_neg (by simp [hact]), if_neg (by rw [← Option.not_isSome, hkey]; decide)]
  · obtain ⟨qs, hp⟩ := ht.part
    rw [hp, Device.partAt_setPart_same]
    exact tget_tdel_same ..

theorem setPowerCap_runs (h : s.Commanded pn 0x32 a st) (hz : s.opnd pn a 2 6 = 0)
    (hlow : s.opnd pn a 0 2 < (s.flush.dev.partAt pn).cap) :
    Runs (.setPowerCap pn) s pn st fun t => (t.dev.partAt pn).cap = s.opnd pn a 0 2 := by
  refine runs_of_ok (d := s.flush.dev.setPart pn { s.flush.dev.partAt pn with cap := s.opnd pn a 0 2 }) (exec_setPowerCap pn s) h
    (by simp [hz]) ?_ fun t ht => ?_
  · exact if_neg (by omega)
  · obtain ⟨qs, hp⟩ := ht.part
    rw [hp, Device.partAt_setPart_same]

/-- A cap that is not lowered stays (R383). -/
theorem setPowerCap_rejects (h : s.Commanded pn 0x32 a st) (hz : s.opnd pn a 2 6 = 0)
    (hhigh : (s.flush.dev.partAt pn).cap ≤ s.opnd pn a 0 2) : ∃ t, exec (.setPowerCap pn) s = .next t ∧ s.Told t pn st 0x301 ∧
      (t.dev.partAt pn).cap = (s.flush.dev.partAt pn).cap := by
  obtain ⟨qs, hp⟩ := (Device.ended_finishCmd s.flush.dev s.flush.dev pn 1 3 st).part
  refine ⟨_, (exec_setPowerCap pn s).trans (runCmd_bad h (by simp [hz]) (if_pos hhigh)),
    s.told_finishCmd s.flush s.flush.dev pn 1 3 st (by decide), ?_⟩
  rw [hp]

end commands

/-- Settles O45: each command's operand passes the checks of `runCmd`, its body then makes the device that `runs_of_ok` is given, and the
end of the command keeps of the partition all but the head of queue 0 (`Device.ended_finishCmd`). -/
theorem partitionCommandsComplete : Obligations.PartitionCommandsComplete := by
  intro s pn a st
  exact ⟨configure_runs, sealPartition_runs, releasePartition_waits, releasePartition_runs, setOverflowArea_runs,
    fun _ => setQueue_runs, fun _ => setQueue_zero_runs,
    fun h hslot hz => ⟨enrolKey_runs h hslot hz, withdrawKey_runs h hslot hz⟩,
    fun h hz => ⟨setPowerCap_runs h hz, setPowerCap_rejects h hz⟩⟩

end Sys2Proof.Machine
end

section
/-! PROOF. No instruction, event or step ends a run (O55: R59, R339, R340, R380), and what words of the manual decode to (O57). From the
bottom up: the outcomes that answer a next state by their shape, a command of queue 0, the instructions and events that branch, the
meaning of every constructor, then what a core, a controller and an agent do in a step. -/
namespace Sys2Proof.Machine

/-! ## Outcomes that answer by their shape -/

/-- The outcome is a next state: neither a fault nor a refusal. -/
def Answers (o : Out) : Prop := ∃ t, o = .next t

theorem answers_next (t : State) : Answers (.next t) := ⟨t, rfl⟩

/-- A meaning that ends early, by a stall or a trap, answers the state it leaves (R21, R339). -/
theorem answers_out (e : Ex State) : Answers e.out := by
  cases e with
  | ok t => exact answers_next t
  | error t => exact answers_next t

theorem answers_ite {c : Prop} [Decidable c] {o p : Out} (ho : Answers o) (hp : Answers p) : Answers (if c then o else p) := by
  split
  · exact ho
  · exact hp

theorem answers_andThen {f : State → Out} (hf : ∀ s, Answers (f s)) {o : Out} (ho : Answers o) : Answers (andThen f o) := by
  obtain ⟨s, rfl⟩ := ho
  exact hf s

/-! ## Commands of queue 0 (R378, R380) -/

/-- A command is done, rejected with a detail, or waits: each leaves a state. -/
theorem answers_runCmd (op pn : Nat) (check : Opnd → Bool → Bool) (body : Opnd → Device → Cmd) (s : State) :
    Answers (runCmd op pn check body s) := by
  unfold runCmd
  dsimp only
  split
  · exact answers_next _
  · split <;> exact answers_next _

theorem answers_halting (pn : Nat) (s : State) {o : Out} (ho : Answers o) : Answers (halting pn s o) := by
  obtain ⟨t, rfl⟩ := ho
  obtain ⟨u, hu, -⟩ := halting_sameStore pn s t
  exact ⟨u, hu⟩

theorem answers_drainEnd (pn : Nat) (s : State) : Answers (execDrainEnd pn s) := by
  unfold execDrainEnd
  dsimp only
  split
  · split <;> exact answers_next _
  · exact answers_next _

/-- A restore passes its six checks in turn, each of which rejects it or has it wait, and then brings the save back (R350). -/
theorem answers_restore (pn : Nat) (s : State) : Answers (execRestore pn s) := by
  unfold execRestore
  dsimp only
  split
  · exact answers_next _
  · iterate 4 refine answers_ite (answers_next _) ?_
    split
    · exact answers_next _
    · split <;> exact answers_next _

/-! ## Instructions and events that branch -/

/-- Where no tile is closed, the C-ring is missing, which is a fault of the lanes, or the instruction waits (R249). -/
theorem answers_crpeek (o : LoadOp) (s : State) : Answers (execCrpeek o s) := by
  unfold execCrpeek
  split
  · exact answers_ite (answers_out _) (answers_next _)
  · exact answers_out _

theorem answers_crpop (o : LoadOp) (s : State) : Answers (execCrpop o s) := by
  unfold execCrpop
  dsimp only
  split
  · exact answers_ite (answers_out _) (answers_next _)
  · exact answers_ite (answers_out _) (answers_next _)

theorem answers_abarrive (o : AbarriveOp) (s : State) : Answers (execAbarrive o s) := by
  cases o with
  | arrive a c => exact answers_out _
  | expect a b => exact answers_out _

theorem answers_mmov (mask md : Fin 16) (a : MSrc) (s : State) : Answers (execMmov mask md a s) := by
  unfold execMmov
  split <;> exact answers_out _

theorem answers_sleepExpiry (p : PRef) (s : State) : Answers (execSleepExpiry p s) := by
  unfold execSleepExpiry
  split
  · split
    · exact answers_ite (answers_next _) (answers_next _)
    · exact answers_next _
  · exact answers_next _

theorem answers_breakpointHit (p : PRef) (s : State) : Answers (execBreakpointHit p s) := by
  unfold execBreakpointHit
  split
  · split <;> exact answers_next _
  · exact answers_next _

theorem answers_insertedDelayExpiry (p : PRef) (s : State) : Answers (execInsertedDelayExpiry p s) := by
  unfold execInsertedDelayExpiry
  split
  · exact answers_ite (answers_next _) (answers_next _)
  · exact answers_next _

theorem answers_trapEntry (core slot : Nat) (s : State) : Answers (execTrapEntry core slot s) := by
  unfold execTrapEntry
  dsimp only
  split
  · exact answers_next _
  · split <;> exact answers_next _

theorem answers_doorbell (port part queue : Nat) (tail : BitVec 32) (s : State) : Answers (execDoorbell port part queue tail s) := by
  unfold execDoorbell
  dsimp only
  iterate 2 refine answers_ite (answers_next _) ?_
  split <;> exact answers_next _

/-! ## Every constructor -/

/-- Every instruction and every event answers a next state. -/
theorem answers_exec (i : Instr) (s : State) : Answers (exec i s) := by
  cases i
  case crpeek => exact answers_crpeek ..
  case crpop => exact answers_crpop ..
  case abarrive => exact answers_abarrive ..
  case mmov => exact answers_mmov ..
  case sleepExpiry => exact answers_sleepExpiry ..
  case breakpointHit => exact answers_breakpointHit ..
  case insertedDelayExpiry => exact answers_insertedDelayExpiry ..
  case trapEntry => exact answers_trapEntry ..
  case doorbell => exact answers_doorbell ..
  case drainEnd => exact answers_drainEnd ..
  case restore => exact answers_restore ..
  -- An event of a path leaves the state as it is where that path is gone.
  case translationPassed | functionResultWrite | abwaitRelease | barrierRelease | roleSwitch | cgrowAnswer =>
    simp only [exec_translationPassed, execTranslationPassed, exec_functionResultWrite, execFunctionResultWrite, exec_abwaitRelease,
      execAbwaitRelease, exec_barrierRelease, execBarrierRelease, exec_roleSwitch, execRoleSwitch, exec_cgrowAnswer, execCgrowAnswer]
    split <;> exact answers_next _
  case linkDown | dieFence | shanovLinkFailure => exact answers_ite (answers_next _) (answers_next _)
  case configure | sealPartition | asidCreate | asidDestroy | writeRangeEntry | pagesWrite | pagesInvalidate | writeTensorRecord
      | writeGroupEntry | writeExportEntry | bindBridgeSender | bindBridgeReceiver | unbindBridge | bindPodGroup | unbindPodGroup
      | setQueue | setOverflowArea | enrolKey | withdrawKey | setPowerCap | cancelLaunch | loadCodeObject =>
    simp only [↓answers_runCmd, exec_configure, execConfigure, exec_sealPartition, execSealPartition, exec_asidCreate, execAsidCreate,
      exec_asidDestroy, execAsidDestroy, exec_writeRangeEntry, execWriteRangeEntry, exec_pagesWrite, execPagesWrite,
      exec_pagesInvalidate, execPagesInvalidate, exec_writeTensorRecord, execWriteTensorRecord, exec_writeGroupEntry,
      execWriteGroupEntry, exec_writeExportEntry, execWriteExportEntry, exec_bindBridgeSender, execBindBridgeSender,
      exec_bindBridgeReceiver, execBindBridgeReceiver, exec_unbindBridge, execUnbindBridge, exec_bindPodGroup, execBindPodGroup,
      exec_unbindPodGroup, execUnbindPodGroup, exec_setQueue, execSetQueue, exec_setOverflowArea, execSetOverflowArea,
      exec_enrolKey, execEnrolKey, exec_withdrawKey, execWithdrawKey, exec_setPowerCap, execSetPowerCap, exec_cancelLaunch,
      execCancelLaunch, exec_loadCodeObject, execLoadCodeObject, pagesCmd, bridgeCmd, podCmd, keyCmd]
  case preempt | releasePartition =>
    simp only [exec_preempt, exec_releasePartition]
    exact answers_halting _ _ (answers_runCmd ..)
  case loadDataArrival | storePerformed | atomicPerformed | copyStart | copyRowDelivery | copyComplete | latchFill | passStart
      | passEnd | tileClosed | epilogueStart | epilogueComplete | collectiveComplete | nop | prog | joinComplete | rejoin
      | pageResponse | blockFetch | spill | spillRestore | launch | chunkGrant | cohortPlacement | taskStrandForm
      | launchCompletion | quarantineRelease | mand | mor | mxor | mnot | semaphoreAcquire | semaphoreFree | controlBlockWrite
      | traceControlWrite | causalTrialGo | causalTrialEnd | stopWrite | resumeWrite | registerWrite | sample | powerOnReset
      | semaphoreLinkFree | masterElection | stackSelfRefresh | stackResume | stackFence | hbmChannelSparing
      | refreshPostponementLimit | firmwareHandover | podGroupLive | remoteAccess | wend =>
    exact answers_next _
  -- Every instruction left but `seal` may stall or trap, and is an early-ending meaning; `seal` is a keyword and cannot name a case.
  any_goals exact answers_out _
  · exact answers_next _

/-! ## Steps (R151, R378) -/

theorem answers_issuePath (c sl p : Nat) (s : State) : Answers (issuePath exec c sl p s) := by
  unfold issuePath
  split
  · exact answers_next _
  · next t _ =>
    split
    · next i _ =>
      obtain ⟨u, hu⟩ := answers_exec i t
      rw [hu]
      exact answers_next _
    · exact answers_next _

theorem answers_issueFirst (c : Nat) (l : List (Nat × Nat)) (s : State) : Answers (issueFirst exec c l s) := by
  induction l generalizing s with
  | nil => exact answers_next _
  | cons q r ih =>
    obtain ⟨sl, p⟩ := q
    obtain ⟨t, ht⟩ := answers_issuePath c sl p s
    rw [issueFirst, ht]
    exact answers_ite (answers_next _) (ih t)

/-- What the controller of a partition may do for an opcode are events of the table (R378). -/
theorem commandActs_eq_map_exec (pn op : Nat) : ∃ is : List Instr, commandActs pn op = is.map exec := by
  unfold commandActs
  split
  · exact ⟨[.configure pn], rfl⟩
  · exact ⟨[.sealPartition pn], rfl⟩
  · exact ⟨[.releasePartition pn], rfl⟩
  · exact ⟨[.preempt pn, .drainEnd pn], rfl⟩
  · exact ⟨[.restore pn], rfl⟩
  · exact ⟨[.asidCreate pn, .asidDestroy pn], rfl⟩
  · exact ⟨[.writeRangeEntry pn], rfl⟩
  · exact ⟨[.pagesWrite pn, .pagesInvalidate pn], rfl⟩
  · exact ⟨[.writeTensorRecord pn], rfl⟩
  · exact ⟨[.writeGroupEntry pn], rfl⟩
  · exact ⟨[.writeExportEntry pn], rfl⟩
  · exact ⟨[.bindBridgeSender pn, .bindBridgeReceiver pn, .unbindBridge pn], rfl⟩
  · exact ⟨[.setQueue pn], rfl⟩
  · exact ⟨[.setOverflowArea pn], rfl⟩
  · exact ⟨[.bindPodGroup pn, .unbindPodGroup pn], rfl⟩
  · exact ⟨[.loadCodeObject pn], rfl⟩
  · exact ⟨[.enrolKey pn, .withdrawKey pn], rfl⟩
  · exact ⟨[.setPowerCap pn], rfl⟩
  · exact ⟨[.cancelLaunch pn], rfl⟩
  · exact ⟨[], rfl⟩

theorem answers_foldl_exec (is : List Instr) {o : Out} (ho : Answers o) :
    Answers ((is.map exec).foldl (fun o f => andThen f o) o) := by
  induction is generalizing o with
  | nil => exact ho
  | cons i is ih => exact ih (answers_andThen (answers_exec i) ho)

theorem answers_actControl (pn : Nat) (s : State) : Answers (actControl pn s) := by
  have hrun (is : List Instr) : Answers ((is.map exec ++ [execMasterElection pn, execCausalTrialEnd pn]).foldl
      (fun o f => andThen f o) (.next s)) := by
    have hfold := answers_foldl_exec (is ++ [Instr.masterElection pn, Instr.causalTrialEnd pn]) (answers_next s)
    rwa [List.map_append] at hfold
  unfold actControl
  dsimp only
  split
  · obtain ⟨is, his⟩ := commandActs_eq_map_exec pn (s.dev.opcode _)
    rw [his]
    exact hrun is
  · exact hrun []

theorem answers_actAgent (a : Agent) (s : State) : Answers (actAgent exec a s) := by
  cases a
  case core c => exact answers_issueFirst ..
  case event i => exact answers_exec ..
  case control pn => exact answers_actControl ..
  case outside addr data => exact answers_ite (answers_next _) (answers_next _)
  case storeHeld p ls =>
    unfold actAgent
    dsimp only
    split <;> exact answers_next _
  all_goals exact answers_next _

theorem answers_step (s : State) : Answers (step s) := by
  obtain ⟨u, hu⟩ := answers_actAgent s.nextTurn.1.agent (s.nextTurn.2.tick s.nextTurn.1.dt)
  unfold step stepWith
  dsimp only
  rw [hu]
  exact answers_next _

/-- Settles O55: every meaning is an early end, a next state, or a choice between such (`answers_exec`), and a step does nothing but
meanings and changes of its own (`answers_actAgent`). -/
theorem nothingStops : Obligations.NothingStops := ⟨answers_exec, answers_step⟩

/-! ## Words of the manual -/

/-- Settles O57: on one given word the decoder is a closed computation: its fields, the row of its major and minor opcode, the operand of
each field, and for the last three words the first check of R59 that fails. -/
theorem decodesSpecWords : Obligations.DecodesSpecWords :=
  ⟨rfl, rfl, rfl, rfl, rfl, rfl, rfl, rfl, rfl, rfl, rfl, rfl, rfl, rfl⟩

end Sys2Proof.Machine
end

section
/-! PROOF. Register instructions and mask results (O1, O2, O5, O54: R21 to R27, R69 to R81, R84, R85, R93, R97, R98, R173). From the
bottom up: what states have the same surroundings, and when their paths stand at the same instruction; faults of the whole path; what a
register instruction does that completes, or that cannot be read or written; the forms of the instructions; then the instructions that
write a mask. -/
namespace Sys2Proof.Machine

/-! ## Surroundings and place of the path (R31) -/

theorem State.Quiet.trans {s t u : State} (h : s.Quiet t) (k : t.Quiet u) : s.Quiet u where
  dev := k.dev.trans h.dev
  strand := k.strand.trans h.strand
  focus := k.focus.trans h.focus
  clock := k.clock.trans h.clock
  draws := k.draws.trans h.draws
  strands := k.strands.trans h.strands
  l1 := k.l1.trans h.l1
  ibuf := k.ibuf.trans h.ibuf
  chan0 := k.chan0.trans h.chan0
  chan1 := k.chan1.trans h.chan1
  abuf := k.abuf.trans h.abuf
  queues := k.queues.trans h.queues
  rings := k.rings.trans h.rings
  epis := k.epis.trans h.epis
  prog := k.prog.trans h.prog
  dbg := k.dbg.trans h.dbg
  progStop := k.progStop.trans h.progStop
  halted := k.halted.trans h.halted
  cohort := k.cohort.trans (by rw [h.cohort])

theorem State.quiet_path (s : State) (p : Path) (n : Nat) : s.Quiet { s with path := p, uid := n } := by
  constructor <;> rfl

/-- The path of `t` stands at the instruction at which that of `s` stands, in no window where that is in none. -/
structure State.SamePlace (s t : State) : Prop where
  pc : t.path.pc = s.path.pc
  blk : t.path.blk = s.path.blk
  status : t.path.status = s.path.status
  window : s.path.window = none → t.path.window = none

theorem State.SamePlace.trans {s t u : State} (h : s.SamePlace t) (k : t.SamePlace u) : s.SamePlace u :=
  ⟨k.pc.trans h.pc, k.blk.trans h.blk, k.status.trans h.status, k.window ∘ h.window⟩

theorem State.SamePlace.nextPc {s t : State} (h : s.SamePlace t) : t.path.nextPc = s.path.nextPc := by
  rw [Path.nextPc, Path.nextPc, h.pc, h.blk]

theorem State.SamePlace.movedOn_done {s t : State} (h : s.SamePlace t) : s.MovedOn t.done := by
  intro hw he
  have he' : t.path.atEnd = false := by rw [← he, Path.atEnd, Path.atEnd, h.nextPc, h.blk]
  obtain ⟨hpc, hstatus, hblk⟩ := done_movedOn t (h.window hw) he'
  exact ⟨hpc.trans h.nextPc, hstatus.trans h.status, hblk.trans h.blk⟩

theorem afterReads_quiet (s : State) (srcs : List (Src × Ty)) : s.Quiet (s.afterReads srcs) := s.quiet_path _ s.uid

theorem afterReads_status (s : State) (srcs : List (Src × Ty)) : (s.afterReads srcs).path.status = s.path.status := by
  unfold State.afterReads
  dsimp only
  rw [Path.takeReads_status, readVals_path]

theorem afterReads_samePlace (s : State) (srcs : List (Src × Ty)) : s.SamePlace (s.afterReads srcs) :=
  ⟨afterReads_pc s srcs, afterReads_blk s srcs, afterReads_status s srcs, afterReads_window s srcs⟩

theorem writeDest_eq (d : Dest) (wide : Bool) (en : LaneSet) (f : Nat → Word) (s : State) :
    writeDest d wide en f s = { s with path := (writeDest d wide en f s).path, uid := (writeDest d wide en f s).uid } := by
  cases d <;> rfl

theorem writeDest_quiet (d : Dest) (wide : Bool) (en : LaneSet) (f : Nat → Word) (s : State) : s.Quiet (writeDest d wide en f s) := by
  rw [writeDest_eq]
  exact s.quiet_path _ _

theorem writeDest_samePlace (d : Dest) (wide : Bool) (en : LaneSet) (f : Nat → Word) (s : State) :
    s.SamePlace (writeDest d wide en f s) := by
  cases d <;> exact ⟨rfl, rfl, rfl, id⟩

/-- The destination's record is new, and every other name is as it was (R22, R27). -/
theorem writeDest_wrote (d : Dest) (wide : Bool) (en : LaneSet) (f : Nat → Word) (s : State) {q : Path}
    (hq : (writeDest d wide en f s).path.SameNames q) : s.path.Wrote q d wide (destVals d wide s.strand.width en f) := by
  refine ⟨fun n c hd => ?_, fun n hn => ?_⟩
  · exact ⟨_, (hq.get n).trans (writeDest_get_same d wide en f s n c hd), rfl, rfl, rfl, rfl, rfl, rfl⟩
  · exact (hq.get n).trans (writeDest_get_other d wide en f s n hn)

theorem done_issued (s : State) : ∃ p, s.done = { s.issued with path := p } := by
  unfold State.done
  extract_lets t
  rw [advance_eq]
  exact ⟨_, rfl⟩

theorem issued_quiet (s : State) : s.Quiet s.issued := by
  obtain ⟨p, hp⟩ := done_issued s
  have hq := done_quiet s
  rw [hp] at hq
  exact hq.trans (State.quiet_path _ s.issued.path s.issued.uid)

/-! ## Faults of the whole path (R70, R339, R340) -/

theorem raiseWith_raised (cause tcode step : Nat) (s : State) (hw : s.path.windowOpen = false) :
    ∃ t, (raiseWith cause tcode step s : Ex State).out = .next t ∧ s.Raised t cause tcode := by
  refine ⟨_, by rw [raiseWith, if_neg (by rw [hw]; decide)]; rfl, _, rfl, rfl, rfl, rfl, rfl, fun h => ?_, fun r h hpc => ?_, rfl, rfl⟩
  · show s.path.doneAt s.path.pc = 0
    rw [Path.doneAt, h]
  · show s.path.doneAt s.path.pc = r.done
    rw [Path.doneAt, h]
    exact if_pos hpc

theorem raise_raised (cause : Nat) (s : State) (hw : s.path.windowOpen = false) :
    ∃ t, (raise cause s : Ex State).out = .next t ∧ s.Raised t cause 0 :=
  raiseWith_raised cause 0 0 s hw

/-! ## Register instructions (R69, R70) -/

/-- Sources without a record, or with too few reads left, raise EXNAME before anything else (R24). -/
theorem regOpL_exname (d : Dest) (m : Fin 16) (wide : Bool) (srcs : List (Src × Ty)) (f : Nat → List Word → Word) (s : State)
    (h : s.path.hasReads (readNames srcs) = false) : regOpL d m wide srcs f s = raise cExname s := by
  unfold regOpL
  simp only [readSrcs_exname s srcs _ (by rw [h]; rfl), raise_eq, bind, Except.bind]

/-- A destination that is live once the reads are taken raises NAMEBUSY, and no read is taken (R25, R70). -/
theorem regOpL_namebusy (d : Dest) (m : Fin 16) (wide : Bool) (srcs : List (Src × Ty)) (f : Nat → List Word → Word) (s : State)
    (hr : s.CanRead srcs (s.enabled d m)) {n : Name} {c : BitVec 4} (hd : destName d = some (n, c))
    (h : ((s.afterReads srcs).path.get n).any Rec.live = true) : regOpL d m wide srcs f s = raise cNamebusy s := by
  unfold regOpL
  simp only [readSrcs_ok s srcs _ hr, checkDest_busy d wide s _ n c hd h, raise_eq, bind, Except.bind]

/-- The instruction is a register instruction of this form: it takes the form's value from the values of its sources. -/
def Form.IsMeaning (r : Form) (i : Instr) (s : State) : Prop :=
  ∃ f : Nat → List Word → Word, exec i s = (regOpL r.d r.mask r.wide r.srcs f s).out ∧ r.mo = 0 ∧
    ∀ en l, r.val en l = f l ((s.vals r.srcs).map (·.at l))

theorem Form.IsMeaning.completes {r : Form} {i : Instr} {s : State} (h : r.IsMeaning i s) (hrun : s.CanRun r) :
    ∃ t, exec i s = .next t ∧ s.RegResult t r := by
  obtain ⟨f, hx, hmo, hval⟩ := h
  obtain ⟨hread, hwrite⟩ := hrun
  let u := writeDest r.d r.wide (s.enabled r.d r.mask) (r.val (s.enabled r.d r.mask)) (s.afterReads r.srcs)
  obtain ⟨-, -, -, hmasks, hwalkers, hlanes, -⟩ : u.dev = _ ∧ _ := writeDest_fields ..
  have hsame := done_same u
  refine ⟨u.done, ?_, writeDest_wrote _ _ _ _ _ hsame, fun _ => (hsame.masks.trans hmasks).trans (afterReads_masks s r.srcs),
    fun h => absurd hmo h, hsame.walkers.trans hwalkers, (hsame.lanes.trans hlanes).trans (afterReads_lanes s r.srcs),
    ((afterReads_quiet s r.srcs).trans (writeDest_quiet ..)).trans (done_quiet u),
    ((afterReads_samePlace s r.srcs).trans (writeDest_samePlace ..)).movedOn_done⟩
  rw [hx, regOpL_ok _ _ _ _ _ _ hread hwrite, out_ok, ← funext (hval _)]

theorem Form.IsMeaning.exname {r : Form} {i : Instr} {s : State} (h : r.IsMeaning i s) (hw : s.path.windowOpen = false)
    (hs : s.path.hasReads (readNames r.srcs) = false) : ∃ t, exec i s = .next t ∧ s.Raised t 0x03 0 := by
  obtain ⟨f, hx, -, -⟩ := h
  rw [hx, regOpL_exname _ _ _ _ _ _ hs]
  exact raise_raised cExname s hw

theorem Form.IsMeaning.namebusy {r : Form} {i : Instr} {s : State} (h : r.IsMeaning i s) (hw : s.path.windowOpen = false)
    (hr : s.CanRead r.srcs (s.enabled r.d r.mask)) {n : Name} {c : BitVec 4} (hd : destName r.d = some (n, c))
    (hlive : ((s.afterReads r.srcs).path.get n).any Rec.live = true) : ∃ t, exec i s = .next t ∧ s.Raised t 0x04 0 := by
  obtain ⟨f, hx, -, -⟩ := h
  rw [hx, regOpL_namebusy _ _ _ _ _ _ hr hd hlive]
  exact raise_raised cNamebusy s hw

section meaning
variable {s : State} {i : Instr}

theorem form1_isMeaning {o : Op1} {f : Word → Word} (h : exec i s = (op1 o f s).out) : (form1 s o f).IsMeaning i s :=
  ⟨fun _ v => f (v.getD 0 0), h, rfl, fun _ _ => rfl⟩

theorem form2_isMeaning {o : Op2} {f : Word → Word → Word} (h : exec i s = (op2 o f s).out) : (form2 s o f).IsMeaning i s :=
  ⟨fun _ v => f (v.getD 0 0) (v.getD 1 0), h, rfl, fun _ _ => rfl⟩

theorem form3_isMeaning {o : Op3} {f : Word → Word → Word → Word} (h : exec i s = (op3 o f s).out) : (form3 s o f).IsMeaning i s :=
  ⟨fun _ v => f (v.getD 0 0) (v.getD 1 0) (v.getD 2 0), h, rfl, fun _ _ => rfl⟩

theorem formI_isMeaning {o : OpI} {f : Word → Word → Word} (h : exec i s = (opI o f s).out) : (formI s o f).IsMeaning i s :=
  ⟨fun _ v => f (v.getD 0 0) (o.imm.signExtend 64), h, rfl, fun _ _ => rfl⟩

theorem plain_isMeaning {d : Dest} {m : Fin 16} {wide : Bool} {srcs : List (Src × Ty)} {val : LaneSet → Nat → Word}
    (f : Nat → List Word → Word) (h : exec i s = (regOpL d m wide srcs f s).out)
    (hval : ∀ en l, val en l = f l ((s.vals srcs).map (·.at l))) : (plain d m wide srcs val).IsMeaning i s :=
  ⟨f, h, rfl, hval⟩

end meaning

/-- Each integer instruction is `op1`, `op2`, `op3` or `opI` of the value that its form gives (R74 to R77). -/
theorem IntegerForm.isMeaning {s : State} {i : Instr} {r : Form} (h : IntegerForm s i r) : r.IsMeaning i s := by
  cases h
  case iabs | ineg | inot | popc | clz | ctz | brev => exact form1_isMeaning rfl
  case mad | bfi | sel => exact form3_isMeaning rfl
  case addi | muli | andi | ori | xori | shli | shri | sari | mini | maxi => exact formI_isMeaning rfl
  all_goals exact form2_isMeaning rfl

/-- A move, a constant and an address of `lea` is its own function of the lane and its sources' values (R80, R81, R84, R85). -/
theorem MoveForm.isMeaning {s : State} {i : Instr} {r : Form} (h : MoveForm s i r) : r.IsMeaning i s := by
  cases h
  case mov => exact form1_isMeaning rfl
  case movi o => exact plain_isMeaning (fun _ _ => o.imm.signExtend 64) rfl fun _ _ => rfl
  case movl o => exact plain_isMeaning (fun _ _ => o.imm) rfl fun _ _ => rfl
  case msel o =>
    exact plain_isMeaning (fun l v => if (s.path.mask o.mc).getLsbD l then v.getD 0 0 else v.getD 1 0) rfl fun _ _ => rfl
  case lea o => exact plain_isMeaning (fun _ v => leaVal o.ty true (v.getD 0 0) (v.getD 1 0) (v.getD 2 0)) rfl fun _ _ => rfl
  case leax o => exact plain_isMeaning (fun _ v => leaVal o.ty false (v.getD 0 0) (v.getD 1 0) (v.getD 2 0)) rfl fun _ _ => rfl

/-- The arithmetic of major 0x10 is `op1`, `op2` or `op3` element by element; a conversion, `fclass` and a dot product is its own
function of the lane's values (R154, R157 to R163). -/
theorem FloatForm.isMeaning {s : State} {i : Instr} {r : Form} (h : FloatForm s i r) : r.IsMeaning i s := by
  cases h
  case fabs | fneg => exact form1_isMeaning rfl
  case fma | fclamp | fmax3 | fmin3 => exact form3_isMeaning rfl
  case cvt o => exact plain_isMeaning (fun _ v => cvtVal o.dty o.sty o.mode o.sat (v.getD 0 0)) rfl fun _ _ => rfl
  case cvtsc o =>
    exact plain_isMeaning (fun _ v => cvtscVal o.dty o.sty o.mode o.sat (v.getD 0 0) (v.getD 1 0)) rfl fun _ _ => rfl
  case cvtpk o =>
    exact plain_isMeaning (fun _ v => cvtpkVal o.dty o.sty o.mode o.sat (v.getD 0 0) (v.getD 1 0)) rfl fun _ _ => rfl
  case fclass o =>
    exact plain_isMeaning (fun _ v => BitVec.ofNat 64 (2 ^ classBit o.ty (elemOf o.ty (v.getD 0 0) (elemIdx o.e)))) rfl
      fun _ _ => rfl
  case dot2 o | dot8 o => exact plain_isMeaning (fun _ v => dotFloat o.ty (v.getD 0 0) (v.getD 1 0) (v.getD 2 0)) rfl fun _ _ => rfl
  case dot4 o =>
    exact plain_isMeaning (fun _ v =>
      if o.ty.isInt then dotInt o.ty (fillBytes o.a (v.getD 0 0)) (fillBytes o.b (v.getD 1 0)) (v.getD 2 0)
      else dotFloat o.ty (v.getD 0 0) (v.getD 1 0) (v.getD 2 0)) rfl fun _ _ => rfl
  all_goals exact form2_isMeaning rfl

/-- Of %fdone a window declares its low bits (R38, R97). -/
theorem Trap.doneMask_toNat (t : Trap) : t.doneMask.toNat = t.fdone.toNat % 2 ^ t.win := by
  apply Nat.eq_of_testBit_eq
  intro j
  simp only [Trap.doneMask, BitVec.toNat_and, BitVec.toNat_ofNat, Nat.testBit_and, Nat.testBit_mod_two_pow,
    Nat.testBit_two_pow_sub_one, BitVec.testBit_toNat]
  by_cases hj : j < 32
  · simp [hj, Bool.and_comm]
  · rw [BitVec.getLsbD_of_ge _ _ (by omega), Bool.and_false, Bool.false_and]

theorem enabled_zero (s : State) (d : Dest) : s.enabled d 0 = s.path.lanes := by
  unfold State.enabled
  split <;> rfl

/-- One value written to a destination is a register instruction without sources. -/
theorem setScalar_done (d : Dest) (wide : Bool) (x : Word) (s : State) :
    (setScalar d wide x s s).map State.done = regOpL d 0 wide [] (fun _ _ => x) s := by
  have hread : readSrcs [] [] s.path.lanes s = .ok ([], [], s) := readSrcs_ok s [] _ ⟨rfl, rfl, rfl, rfl⟩
  unfold setScalar regOpL
  simp only [hread, bind, Except.bind, without_nil, splitLanes_nil, enabled_zero]
  cases checkDest d wide s s with
  | error t => rfl
  | ok u => rfl

/-- A system register, a feature word and a walker that is set are read by register instructions without sources (R93, R97, R98). -/
theorem SystemForm.isMeaning {s : State} {i : Instr} {r : Form} (h : SystemForm s i r) : r.IsMeaning i s := by
  cases h
  case rdsr m d r =>
    refine plain_isMeaning (fun _ _ => BitVec.ofNat 64 (s.sysReg r)) rfl fun _ _ => congrArg (BitVec.ofNat 64) ?_
    cases r
    case fdone =>
      unfold State.sysReg
      cases s.path.handler with
      | none => rfl
      | some t => exact (Trap.doneMask_toNat t).symm
    all_goals rfl
  case feat d n => exact plain_isMeaning (fun _ _ => BitVec.ofNat 64 (s.feature n.toNat)) rfl fun _ _ => rfl
  case wrd d w sel x hx =>
    refine plain_isMeaning (fun _ _ => match sel.toNat with
      | 0 => x.addr | 1 => BitVec.ofNat 64 x.i0 | 2 => BitVec.ofNat 64 x.i1 | _ => BitVec.ofNat 64 x.i2) ?_ fun _ _ => rfl
    rw [exec_wrd, execWrd, ← setScalar_done]
    unfold wrdOp
    generalize tget s.path.walkers w.val = y at hx
    subst hx
    rfl

/-- Settles O1: every integer form is the meaning of its instruction, and a register instruction whose sources can be read and whose
destination can be written completes. -/
theorem integerCompletes : Obligations.IntegerCompletes :=
  fun _ _ _ h hrun => h.isMeaning.completes hrun

/-- Settles O2: every form of a move and of a system instruction is the meaning of its instruction, as for O1. -/
theorem moveSystemCompletes : Obligations.MoveSystemCompletes := by
  intro i s r h hrun
  have hm : r.IsMeaning i s := by
    rcases h with h | h <;> exact h.isMeaning
  exact hm.completes hrun

/-- Settles O54: the reads are checked first, the destination once they are taken, and both faults leave the state before the
instruction; EXNAME comes before the wait for another source's data (log entry 116). -/
theorem countedReads : Obligations.CountedReads := by
  intro i s r h hw
  have hm : r.IsMeaning i s := by
    rcases h with h | h | h <;> exact h.isMeaning
  exact ⟨hm.exname hw, fun hr n c hd hlive => hm.namebusy hw hr hd hlive, hm.completes⟩

/-! ## Mask results (R78, R79, R173) -/

/-- A mask as the path reads it lies within its lanes (R20). -/
theorem Path.lanes_of_mask {p : Path} {m : Fin 16} {l : Nat} (h : (p.mask m).getLsbD l = true) : p.lanes.getLsbD l = true := by
  unfold Path.mask at h
  split at h
  · exact h
  · exact (Bool.and_eq_true_iff.mp (BitVec.getLsbD_and .. ▸ h)).2

/-- The lanes of a mask on which a condition holds. -/
theorem State.holds_getLsbD (s : State) (m : Fin 16) (srcs : List (Src × Ty)) (f : List Word → Bool) {l : Nat}
    (hl : l < s.strand.width) (hw : s.strand.width ≤ 1024) :
    (s.holds m srcs f).getLsbD l = ((s.path.mask m).getLsbD l && f ((s.vals srcs).map (·.at l))) := by
  rw [State.holds, ofLanes_getLsbD, decide_eq_true (show l < 1024 by omega), Bool.true_and]
  simp [lanesOf, hl, Bool.and_comm]

/-- The sources of a mask form are taken, and the mask that it writes has these bits. -/
theorem maskResult_done {s : State} {r : MaskForm} {x : LaneSet}
    (hx : ∀ l, l < s.strand.width → x.getLsbD l = ((s.path.mask r.mask).getLsbD l && r.bit l)) :
    s.MaskResult (State.done { s.afterReads r.srcs with path := (s.afterReads r.srcs).path.setMask r.md x }) r := by
  let u : State := { s.afterReads r.srcs with path := (s.afterReads r.srcs).path.setMask r.md x }
  have hmasks : u.path.masks = tset s.path.masks r.md.val (x &&& s.path.lanes) := by
    rw [← afterReads_masks s r.srcs, ← afterReads_lanes s r.srcs]; rfl
  have hsame := done_same u
  have hplace : (s.afterReads r.srcs).SamePlace u := ⟨rfl, rfl, rfl, id⟩
  refine ⟨fun l hl => ?_, fun m hm => ?_, hsame.get, hsame.walkers, hsame.lanes.trans (afterReads_lanes s r.srcs),
    ((afterReads_quiet s r.srcs).trans (State.quiet_path _ _ _)).trans (done_quiet u),
    ((afterReads_samePlace s r.srcs).trans hplace).movedOn_done⟩
  · rw [hsame.masks, hmasks, tgetD, tget_tset_same, Option.getD_some, BitVec.getLsbD_and, hx l hl]
    cases hen : (s.path.mask r.mask).getLsbD l
    · rfl
    · rw [Path.lanes_of_mask hen, Bool.and_true]
  · rw [hsame.masks, hmasks, tget_tset_other _ _ hm]

/-- A meaning that writes a mask from sources, whose values give the form's bits and whose reads are those of the form. -/
theorem maskOp_completes {s : State} {i : Instr} {r : MaskForm} {srcs : List (Src × Ty)} {f : List Word → Bool}
    (hx : exec i s = (maskOp r.md r.mask srcs f s).out) (hreads : s.afterReads srcs = s.afterReads r.srcs)
    (hr : s.CanRead srcs (s.path.mask r.mask)) (hw : s.strand.width ≤ 1024)
    (hbit : ∀ l, l < s.strand.width → f ((s.vals srcs).map (·.at l)) = r.bit l) : ∃ t, exec i s = .next t ∧ s.MaskResult t r := by
  refine ⟨_, by rw [hx, maskOp_ok _ _ _ _ _ hr, out_ok, hreads], maskResult_done fun l hl => ?_⟩
  rw [State.holds_getLsbD _ _ _ _ hl hw, hbit l hl]

/-- A meaning that writes a mask from masks of the path (R173). -/
theorem maskBits_completes {s : State} {i : Instr} {md m : Fin 16} {x : LaneSet} {bit : Nat → Bool}
    (hx : exec i s = .next (maskBits m md x s)) (hbit : ∀ l, l < s.strand.width → x.getLsbD l = bit l) :
    ∃ t, exec i s = .next t ∧ s.MaskResult t ⟨md, m, [], bit⟩ := by
  have hres : s.MaskResult (State.done { s with path := s.path.setMask md (x &&& s.path.mask m) }) ⟨md, m, [], bit⟩ :=
    maskResult_done (r := ⟨md, m, [], bit⟩) fun l hl => by rw [BitVec.getLsbD_and, hbit l hl, Bool.and_comm]
  exact ⟨_, hx, hres⟩

/-- The lane number that a lane reads in `%lane` (R42). -/
theorem special_zero_at (s : State) {l : Nat} (hl : l < s.strand.width) (hw : s.strand.width ≤ 1024) :
    ((s.special 0).at l).toNat = l := by
  have hv : (s.special 0).at l = BitVec.ofNat 64 l := by simp [State.special, Val.at, hl]
  rw [hv, BitVec.toNat_ofNat]
  omega

section compare
variable {s : State} {i : Instr}

theorem cmp_completes {o : CmpOp} {c : Cond} {f : Int → Int → Bool} (hx : exec i s = (cmpOp c o s).out)
    (hr : s.CanRead [(o.a, o.ty), (o.b, o.ty)] (s.path.mask o.mask)) (hw : s.strand.width ≤ 1024)
    (hc : ∀ a b, condInt c o.ty o.uns a b = f (if o.uns then (natAt o.ty a : Int) else intAt o.ty a)
      (if o.uns then (natAt o.ty b : Int) else intAt o.ty b)) : ∃ t, exec i s = .next t ∧ s.MaskResult t (cmpForm s o f) :=
  maskOp_completes (r := cmpForm s o f) hx rfl hr hw fun _ _ => hc ..

theorem cmpI_completes {o : CmpIOp} {c : Cond} {f : Int → Int → Bool} (hx : exec i s = (cmpIOp c o s).out)
    (hr : s.CanRead [(o.a, o.ty)] (s.path.mask o.mask)) (hw : s.strand.width ≤ 1024)
    (hc : ∀ a b, condInt c o.ty o.uns a b = f (if o.uns then (natAt o.ty a : Int) else intAt o.ty a)
      (if o.uns then (natAt o.ty b : Int) else intAt o.ty b)) : ∃ t, exec i s = .next t ∧ s.MaskResult t (cmpIForm s o f) :=
  maskOp_completes (r := cmpIForm s o f) hx rfl hr hw fun _ _ => hc ..

end compare

/-- Settles O5: comparisons, class tests and `mmov` are `maskOp` of the form's bit, and the mask operations write the bits of masks within
the enabled lanes. -/
theorem maskCompletes : Obligations.MaskCompletes := by
  intro i s r h hr hw
  cases h
  case cmpEq | cmpLt | cmpLe | cmpGt | cmpGe => exact cmp_completes rfl hr hw fun _ _ => rfl
  case cmpNe => exact cmp_completes rfl hr hw fun _ _ => (decide_not ..).symm
  case cmpiEq | cmpiLt | cmpiLe | cmpiGt | cmpiGe => exact cmpI_completes rfl hr hw fun _ _ => rfl
  case cmpiNe => exact cmpI_completes rfl hr hw fun _ _ => (decide_not ..).symm
  case mmovValue | fcmp | fisnan => exact maskOp_completes rfl rfl hr hw fun _ _ => rfl
  case mmovMask mask md m =>
    have hr' : s.CanRead [(.special 0, .n32)] (s.path.mask mask) := ⟨hr.reads, hr.walkers, hr.present, hr.faults⟩
    exact maskOp_completes (srcs := [(.special 0, .n32)]) (f := fun v => (s.path.mask m).getLsbD (v.getD 0 0).toNat) rfl rfl hr' hw
      fun l hl => congrArg (s.path.mask m).getLsbD (special_zero_at s hl hw)
  case mand => exact maskBits_completes rfl fun _ _ => BitVec.getLsbD_and
  case mor => exact maskBits_completes rfl fun _ _ => BitVec.getLsbD_or
  case mxor => exact maskBits_completes rfl fun _ _ => BitVec.getLsbD_xor
  case mnot a =>
    refine maskBits_completes rfl fun l hl => ?_
    rw [BitVec.getLsbD_not, decide_eq_true (show l < 1024 by omega), Bool.true_and]

end Sys2Proof.Machine
end

section
/-! PROOF. System and timing instructions (O10, O11, O12: R95, R97, R99 to R102, R403, R410 to R412). -/
namespace Sys2Proof.Machine

/-! ## Packets of the tracer (R403, R404) -/

/-- A packet stands in the buffer of its core, and changes nothing else. -/
theorem trace_eq (s : State) (bit ty hi : Nat) (pc : Word) (new : List Nat) (rest : List Byte) :
    ∃ buf, s.trace bit ty hi pc new rest = { s with core := { s.core with dbg := { s.core.dbg with buf := buf } } } := by
  unfold State.trace State.traceAs
  dsimp only
  split
  · exact ⟨_, rfl⟩
  · exact ⟨s.core.dbg.buf, rfl⟩

/-- A packet whose kind is not traced, and that fixes no path, is not written. -/
theorem trace_off (s : State) (bit ty hi : Nat) (pc : Word) (rest : List Byte) (h : s.core.dbg.on bit = false) :
    s.trace bit ty hi pc [] rest = s := by
  simp [State.trace, State.traceAs, h]

/-! ## `nop`, `sleep` and `tstamp` (R99, R101, R102) -/

theorem nop_completes (s : State) : ∃ t, exec .nop s = .next t ∧ s.path.SameNames t.path ∧ s.Quiet t ∧ s.MovedOn t :=
  ⟨s.done, rfl, done_same s, done_quiet s, done_movedOn s⟩

theorem sleep_completes (a : SC) (s : State) (hr : s.CanRead [(scSrc a, .n32)] s.path.lanes) :
    let n := s.val [(scSrc a, .n32)] 0 0
    ∃ t, exec (.sleep a) s = .next t ∧ (∀ x, t.path.get x = (s.afterReads [(scSrc a, .n32)]).path.get x) ∧ s.Quiet t ∧
      (if n.toNat % 2 ^ 32 = 0 then s.MovedOn t
       else t.path.status = .sleep (s.clock + 1 + min (n.toNat % 2 ^ 32) 65535) ∧ t.path.pc = s.path.pc) := by
  intro n
  let u := s.afterReads [(scSrc a, .n32)]
  have hu : s.Quiet u := afterReads_quiet s _
  by_cases hn : n.toNat % 2 ^ 32 = 0
  · refine ⟨u.done, ?_, (done_same u).get, hu.trans (done_quiet u), ?_⟩
    · have hmin : min (natAt .n32 n) 65535 = 0 := by rw [show natAt .n32 n = 0 from hn]; rfl
      exact congrArg Ex.out (scalarOp_ok _ _ _ _ hr (if_pos hmin))
    · rw [if_pos hn]
      exact (afterReads_samePlace s _).movedOn_done
  · refine ⟨{ u.issued with path := { u.issued.path with status := .sleep (u.issued.clock + 1 + min (natAt .n32 n) 65535) } },
      ?_, (issued_same u).get, (hu.trans (issued_quiet u)).trans (State.quiet_path ..), ?_⟩
    · have hmin : ¬ min (natAt .n32 n) 65535 = 0 := by
        have h0 : natAt .n32 n ≠ 0 := hn
        omega
      exact congrArg Ex.out (scalarOp_ok _ _ _ _ hr (if_neg hmin))
    · rw [if_neg hn]
      exact ⟨rfl, afterReads_pc s _⟩

theorem tstamp_completes (d : Dest) (s : State) (hw : s.path.windowOpen = false) (hd : s.CanWrite d true) :
    ∃ t, exec (.tstamp d) s = .next t ∧
      s.path.Wrote t.path d true
        (destVals d true s.strand.width s.path.lanes fun _ => BitVec.ofNat 64 (s.clock + s.part.ahead - s.part.clock0)) ∧
      t.path.masks = s.path.masks ∧ s.MovedOn t ∧ (s.core.dbg.on 2 = false → s.Quiet t) := by
  let u := writeDest d true s.path.lanes (fun _ => BitVec.ofNat 64 s.now) s
  let v := u.trace 2 0x40 0 s.path.pc [] (leBytes 8 (BitVec.ofNat 64 s.now).toNat)
  obtain ⟨-, hcore, -, hmasks, -⟩ : u.dev = _ ∧ _ := writeDest_fields ..
  obtain ⟨buf, hv⟩ : ∃ buf, v = { u with core := { u.core with dbg := { u.core.dbg with buf := buf } } } := trace_eq ..
  have hpath : v.path = u.path := by rw [hv]
  have hsame : u.path.SameNames v.done.path := hpath ▸ done_same v
  have hplace : u.SamePlace v := ⟨by rw [hpath], by rw [hpath], by rw [hpath], fun h => by rw [hpath, h]⟩
  refine ⟨v.done, ?_, writeDest_wrote _ _ _ _ _ hsame, hsame.masks.trans hmasks,
    ((writeDest_samePlace ..).trans hplace).movedOn_done, fun hoff => ?_⟩
  · rw [exec_tstamp, execTstamp, tstampOp]
    simp only [waitFor, hw, Bool.not_false, if_true, setScalar_ok _ _ _ _ _ hd, bind, Except.bind, out_ok]
    rfl
  · have huv : v = u := trace_off _ _ _ _ _ _ (by rw [hcore]; exact hoff)
    rw [huv]
    exact (writeDest_quiet ..).trans (done_quiet u)

/-- Settles O10: `nop` and `sleep` complete as short instructions or leave their path asleep, and `tstamp` writes the time of its partition,
with a packet where the core traces it. -/
theorem timingCompletes : Obligations.TimingCompletes :=
  ⟨⟨nop_completes, sleep_completes⟩, tstamp_completes⟩

/-! ## `prog` (R100, R403, R410) -/

/-- The counters of a core after its `prog n`: still after a trial, and else one more in counter n. -/
def Core.counted (c : Core) (n : Nat) : Core :=
  if c.progStop then c else { c with prog := tset c.prog n ((tgetD c.prog n 0 + 1) % 2 ^ 64) }

theorem Core.counted_eq (c : Core) (n : Nat) : c.counted n = { c with prog := (c.counted n).prog } := by
  unfold Core.counted
  split <;> rfl

theorem exec_prog_eq (n : Fin 16) (s : State) : exec (.prog n) s = .next ({ s with core := s.core.counted n.val } : State).done := rfl

/-- Settles O11: `prog` completes on the core with its counter raised. -/
theorem progCompletes : Obligations.ProgCompletes := by
  intro n s
  let u : State := { s with core := s.core.counted n.val }
  have hcore : u.done.core.prog = (s.core.counted n.val).prog := (done_quiet u).prog
  have hstop : u.done.core.progStop = s.core.progStop := by
    rw [(done_quiet u).progStop, show u.core = s.core.counted n.val from rfl, Core.counted_eq]
  refine ⟨u.done, exec_prog_eq n s, done_same u, ?_, ?_, hstop, (show s.SamePlace u from ⟨rfl, rfl, rfl, id⟩).movedOn_done⟩
  · rw [hcore, Core.counted]
    by_cases h : s.core.progStop = true
    · rw [if_pos h, if_pos h]
    · rw [if_neg h, if_neg h]
      exact ⟨tget_tset_same .., fun m hm => tget_tset_other _ _ hm⟩
  · rw [hcore, hstop]
    have hu : ({ s with core := { s.core with prog := (s.core.counted n.val).prog, progStop := s.core.progStop } } : State) = u := by
      rw [show u = { s with core := s.core.counted n.val } from rfl, Core.counted_eq]
    rw [hu]
    exact done_quiet u

/-! ## `trap`, `break` and `wrsr` (R95, R97, R411, R412) -/

theorem trap_raises (n : BitVec 6) (s : State) (hw : s.path.windowOpen = false) :
    ∃ t, exec (.trap n) s = .next t ∧ s.Raised t 0x14 n.toNat :=
  raiseWith_raised cTrapi n.toNat 0 s hw

theorem break_raises (n : BitVec 6) (s : State) (hw : s.path.windowOpen = false) (ha : s.part.armed = false) :
    ∃ t, exec (.brk n) s = .next t ∧ s.Raised t 0x15 n.toNat := by
  rw [exec_brk, execBrk, breakOp, if_neg (by rw [ha]; decide)]
  exact raiseWith_raised cBreak n.toNat 0 s hw

theorem Device.pevent_stop (d : Device) (pn bit : Nat) : ((d.pevent pn bit).partAt pn).stop = (d.partAt pn).stop := by
  unfold Device.pevent
  dsimp only
  split
  · rfl
  · rw [Device.signal_partAt, Device.partAt_setPart_same]

/-- The first to meet a point stops a partition that runs, and the stop names it (R412). -/
theorem Device.meetStop_stop (d : Device) (pn src n core slot byte : Nat) (h : (d.partAt pn).stop = none) :
    ((d.meetStop pn src n core slot byte).partAt pn).stop = some ⟨src, n, core, slot, byte, if src ≤ 2 then 1 else 0, false⟩ := by
  unfold Device.meetStop
  dsimp only
  rw [h]
  dsimp only
  rw [Device.pevent_stop, Device.partAt_setPart_same]

/-- The number that the stop keeps is the low three bits of that of the `break` (log entry 40). -/
theorem break_stops (n : BitVec 6) (s : State) (ha : s.part.armed = true) (hs : s.part.stop = none) :
    ∃ t st, exec (.brk n) s = .next t ∧ s.path.SameNames t.path ∧ (t.dev.partAt s.partNo).stop = some st ∧ st.src = 3 ∧
      st.n = n.toNat % 8 := by
  let u : State := { s with dev := s.dev.meetStop s.partNo 3 (n.toNat % 8) s.coreNo s.slotNo (pathByte s.path) }
  refine ⟨u.done, ⟨3, n.toNat % 8, s.coreNo, s.slotNo, pathByte s.path, 0, false⟩, ?_, done_same u, ?_, rfl, rfl⟩
  · rw [exec_brk, execBrk, breakOp, if_pos ha, out_ok]
  · rw [done_dev]
    exact Device.meetStop_stop _ _ _ _ _ _ _ hs

/-- In a handler `wrsr %fdone` takes the bits within the declared window (R97). -/
theorem wrsr_completes (a : SC) (s : State) (tr : Trap) (hh : s.path.handler = some tr)
    (hr : s.CanRead [(scSrc a, .n32)] s.path.lanes) : ∃ t, exec (.wrsr .fdone a) s = .next t ∧
      t.path.handler = some { tr with fdone := ((s.val [(scSrc a, .n32)] 0 0).setWidth 32) &&& BitVec.ofNat 32 (2 ^ tr.win - 1) } ∧
      (∀ n, t.path.get n = (s.afterReads [(scSrc a, .n32)]).path.get n) ∧ t.path.masks = s.path.masks ∧ s.Quiet t ∧ s.MovedOn t := by
  let r := s.afterReads [(scSrc a, .n32)]
  let u : State := { r with path := { r.path with handler := some { tr with
    fdone := ((s.val [(scSrc a, .n32)] 0 0).setWidth 32) &&& BitVec.ofNat 32 (2 ^ tr.win - 1) } } }
  have hsame := done_same u
  refine ⟨u.done, ?_, hsame.handler, hsame.get, hsame.masks.trans (afterReads_masks s _),
    ((afterReads_quiet s _).trans (State.quiet_path ..)).trans (done_quiet u),
    ((afterReads_samePlace s _).trans (show r.SamePlace u from ⟨rfl, rfl, rfl, id⟩)).movedOn_done⟩
  rw [exec_wrsr, execWrsr]
  unfold wrsrOp
  rw [hh]
  exact congrArg Ex.out (scalarOp_ok _ _ _ _ hr rfl)

theorem wrsr_raises_priv (a : SC) (s : State) (hh : s.path.handler = none) (hw : s.path.windowOpen = false) :
    ∃ t, exec (.wrsr .fdone a) s = .next t ∧ s.Raised t 0x17 0 := by
  rw [exec_wrsr, execWrsr]
  unfold wrsrOp
  rw [hh]
  exact raise_raised cPriv s hw

theorem wrsr_raises_illop (r : SysReg) (a : SC) (s : State) (hr : r ≠ .fdone) (hw : s.path.windowOpen = false) :
    ∃ t, exec (.wrsr r a) s = .next t ∧ s.Raised t 0x01 0 := by
  have hop : wrsrOp r a s = raise cIllop s := by
    cases r
    case fdone => exact absurd rfl hr
    all_goals rfl
  rw [exec_wrsr, execWrsr, hop]
  exact raise_raised cIllop s hw

/-- Settles O12: `trap`, `break` with no breakpoint armed and every `wrsr` that is not allowed raise at their own address; `break` with one
armed and `wrsr %fdone` in a handler complete. -/
theorem trapWriteRegisterComplete : Obligations.TrapWriteRegisterComplete :=
  ⟨⟨trap_raises, break_raises, break_stops⟩, wrsr_completes, wrsr_raises_priv, wrsr_raises_illop⟩

end Sys2Proof.Machine
end

section
/-! PROOF. The divergent split (O8: R88, R132, R134). From the bottom up: acting on another path of the strand in focus; what a split state
is; that transfers keep it so; and that `State.split` makes one. -/
namespace Sys2Proof.Machine

/-- Another path of the strand in focus, taken into focus instead. -/
def State.turnedTo (s : State) (p : Nat) (q : Path) : State :=
  { s with strand := { s.strand with paths := s.paths }, path := q, focus := some (s.coreNo, s.slotNo, p) }

/-- Acting on another path of the strand in focus, where the action changes that path alone, changes its entry alone. -/
theorem withPath_other {s : State} {c sl me p : Nat} {q r : Path} {f : State → State} (hf : s.focus = some (c, sl, me))
    (hq : tget s.strand.paths p = some q) (hne : p ≠ me) (hr : f (s.turnedTo p q) = { s.turnedTo p q with path := r }) :
    s.withPath p f = { s with strand := { s.strand with paths := tset s.paths p r } } := by
  have hme : tgetD (tset s.paths p r) me s.path = s.path := by
    rw [tgetD, tget_tset_other _ _ hne.symm, State.paths, State.pathNo, hf, tget_tset_same]
    rfl
  rw [State.turnedTo, State.coreNo, State.slotNo, hf] at hr
  unfold State.withPath
  rw [hf, hq]
  dsimp only
  rw [if_neg hne, show f _ = _ from hr]
  show ({ s with strand := { s.strand with paths := tset s.paths p r }, path := tgetD (tset s.paths p r) me s.path
                 focus := some (c, sl, me) } : State) = _
  rw [hme, ← hf]

/-- A transfer of another path of the strand in focus changes that path alone, which keeps its names. -/
theorem withPath_goTo {s : State} {c sl me p : Nat} {q : Path} (hf : s.focus = some (c, sl, me))
    (hq : tget s.strand.paths p = some q) (hne : p ≠ me) (a : Word) (fall : Bool) (o : Word) :
    ∃ r, q.SameNames r ∧ s.withPath p (fun u => u.goTo a fall o .nothing) =
      { s with strand := { s.strand with paths := tset s.paths p r } } :=
  ⟨_, goTo_same (s.turnedTo p q) a fall o, withPath_other hf hq hne (goTo_eq ..)⟩

/-- `t` is `s` split at a reconvergence header: an open split, arm F the path itself with the lanes not taken, and arm T a new path
with those taken. -/
structure State.SplitInto (s t : State) (taken : LaneSet) (join : Word) : Prop where
  focus : t.focus = s.focus
  split : tget t.strand.splits s.strand.next = some ⟨join, s.strand.splits.isEmpty, []⟩
  next : t.strand.next = s.strand.next + 2
  lanesF : t.path.lanes = s.path.lanes &&& ~~~taken
  vF : t.path.v = s.path.v
  scF : t.path.sc = s.path.sc
  armT : ∃ q, tget t.strand.paths (s.strand.next + 1) = some q ∧ q.lanes = taken ∧ q.v = s.path.v ∧ q.sc = s.path.sc

section transfer
variable {s t : State} {taken : LaneSet} {join : Word}

theorem State.SplitInto.goTo (h : s.SplitInto t taken join) (a : Word) (fall : Bool) (o : Word) :
    s.SplitInto (t.goTo a fall o .nothing) taken join := by
  have hsame := goTo_same t a fall o
  rw [goTo_eq]
  exact ⟨h.focus, h.split, h.next, hsame.lanes.trans h.lanesF, hsame.v.trans h.vF, hsame.sc.trans h.scF, h.armT⟩

theorem State.SplitInto.transferT (h : s.SplitInto t taken join) {c sl me : Nat} (hf : s.focus = some (c, sl, me))
    (hlt : me < s.strand.next) (a : Word) (fall : Bool) (o : Word) :
    s.SplitInto (t.withPath (s.strand.next + 1) fun u => u.goTo a fall o .nothing) taken join := by
  obtain ⟨q, hq, hlanes, hv, hsc⟩ := h.armT
  obtain ⟨r, hr, heq⟩ := withPath_goTo (h.focus.trans hf) hq (by omega) a fall o
  rw [heq]
  exact ⟨h.focus, h.split, h.next, h.lanesF, h.vF, h.scF,
    ⟨r, tget_tset_same .., hr.lanes.trans hlanes, hr.v.trans hv, hr.sc.trans hsc⟩⟩

end transfer

theorem split_splitInto (s : State) (taken : LaneSet) (target join : Word) {c sl me : Nat} (hf : s.focus = some (c, sl, me))
    (hlt : me < s.strand.next) : s.SplitInto (s.split taken target join) taken join := by
  unfold State.split
  extract_lets pc id tid top inBuf after tFirst tslot cut s₁ p₁ armT armF st₁ st₂ st₃ c₁ s₂ s₃
  obtain ⟨buf, hs₁⟩ : ∃ buf, s₁ = { s.issued with core := { s.issued.core with dbg := { s.issued.core.dbg with buf := buf } } } :=
    trace_eq ..
  have h₂ : s.SplitInto s₂ taken join := by
    have hsame : s.path.SameNames s₁.path := by rw [hs₁]; exact issued_same s
    have hfocus : s₁.focus = s.focus := by rw [hs₁]; rfl
    exact ⟨hfocus, tget_tset_same .., rfl, congrArg (· &&& ~~~taken) hsame.lanes, hsame.v, hsame.sc,
      armT, tget_tset_same .., rfl, hsame.v, hsame.sc⟩
  have h₃ : s.SplitInto s₃ taken join := by
    unfold s₃
    split
    · exact h₂
    · exact h₂.goTo ..
  split
  · exact h₃.transferT hf hlt ..
  · exact h₃

/-- Settles O8: a split is made in the strand and in arm F (`split_splitInto`), and the transfers that follow change no more than where
each arm goes on. The split is nested where another of its strand is open, whichever path makes it (log entry 84). -/
theorem splitCompletes : Obligations.SplitCompletes := by
  intro mc neg off s join taken foc hend hrcv hf hlt htaken hwhole hnone
  obtain ⟨-, hsplit, hnext, hlanes, hv, hsc, q, hq, hqlanes, hqv, hqsc⟩ :=
    split_splitInto s taken (branchTo s.path.pc off) join hf hlt
  refine ⟨s.split taken (branchTo s.path.pc off) join, q, ?_, hsplit, hlanes, hq, hqlanes, hv, hsc, hqv, hqsc, hnext⟩
  rw [exec_brd, execBrd, brdOp, endsBlock, if_pos hend]
  simp only [hrcv, bind, Except.bind, ← htaken, if_neg hwhole, if_neg hnone, out_ok]

end Sys2Proof.Machine
end

section
/-! PROOF. Float, cross-lane and mask-to-scalar instructions (O3, O4: R154 to R163, R168 to R173). -/
namespace Sys2Proof.Machine

/-- Settles O3: every float form is the meaning of its instruction, as for O1. Which type a constant source of a conversion is read in is
that of the form (log entry 7). -/
theorem floatCompletes : Obligations.FloatCompletes :=
  fun _ _ _ h hrun => h.isMeaning.completes hrun

/-! ## Cross-lane instructions (R168 to R172) -/

/-- A register instruction of the form with its reads taken and its record written. -/
def Form.recorded (r : Form) (s : State) : State :=
  writeDest r.d r.wide (s.enabled r.d r.mask) (r.val (s.enabled r.d r.mask)) (s.afterReads r.srcs)

/-- The lanes in the mask of the form. -/
def Form.maskLanes (r : Form) (s : State) : LaneSet :=
  ofLanes ((lanesOf s.strand.width (s.enabled r.d r.mask)).filter (r.bit (s.enabled r.d r.mask)))

/-- The same instruction with its mask, where it writes one. -/
def Form.written (r : Form) (s : State) : State :=
  if r.mo = 0 then r.recorded s else { r.recorded s with path := (r.recorded s).path.setMask r.mo (r.maskLanes s) }

theorem Form.recorded_lanes (r : Form) (s : State) : (r.recorded s).path.lanes = s.path.lanes := by
  obtain ⟨-, -, -, -, -, hlanes, -⟩ : (r.recorded s).dev = _ ∧ _ := writeDest_fields ..
  exact hlanes.trans (afterReads_lanes s r.srcs)

theorem Form.recorded_walkers (r : Form) (s : State) : (r.recorded s).path.walkers = (s.afterReads r.srcs).path.walkers := by
  obtain ⟨-, -, -, -, hwalkers, -⟩ : (r.recorded s).dev = _ ∧ _ := writeDest_fields ..
  exact hwalkers

theorem Form.recorded_masks (r : Form) (s : State) : (r.recorded s).path.masks = s.path.masks := by
  obtain ⟨-, -, -, hmasks, -⟩ : (r.recorded s).dev = _ ∧ _ := writeDest_fields ..
  exact hmasks.trans (afterReads_masks s r.srcs)

/-- The mask is all that its writing changes. -/
theorem Form.written_eq (r : Form) (s : State) :
    ∃ masks, r.written s = { r.recorded s with path := { (r.recorded s).path with masks := masks } } := by
  unfold Form.written
  split <;> exact ⟨_, rfl⟩

theorem Form.written_masks_none {r : Form} (s : State) (h : r.mo = 0) : (r.written s).path.masks = s.path.masks := by
  rw [Form.written, if_pos h, r.recorded_masks]

theorem Form.written_masks_some {r : Form} (s : State) (h : r.mo ≠ 0) :
    (r.written s).path.masks = (s.path.setMask r.mo (r.maskLanes s)).masks := by
  rw [Form.written, if_neg h, Path.setMask_masks, Path.setMask_masks, r.recorded_masks, r.recorded_lanes]

/-- A register instruction, with a mask result or without, completes with what its form says (R69, R79). -/
theorem Form.written_done (r : Form) (s : State) : s.RegResult (r.written s).done r := by
  obtain ⟨masks, hw⟩ := r.written_eq s
  have hsame := done_same (r.written s)
  have hget : ∀ n, (r.written s).done.path.get n = (r.recorded s).path.get n := fun n => by
    rw [hsame.get, hw]; cases n <;> rfl
  have hquiet : (r.recorded s).Quiet (r.written s) := by rw [hw]; exact State.quiet_path ..
  have hplace : (r.recorded s).SamePlace (r.written s) := by rw [hw]; exact ⟨rfl, rfl, rfl, id⟩
  refine ⟨⟨fun n c hd => ?_, fun n hn => ?_⟩, fun h => hsame.masks.trans (Form.written_masks_none s h),
    fun h => hsame.masks.trans (Form.written_masks_some s h), ?_, ?_, ?_, ?_⟩
  · exact ⟨_, (hget n).trans (writeDest_get_same _ _ _ _ _ n c hd), rfl, rfl, rfl, rfl, rfl, rfl⟩
  · exact (hget n).trans (writeDest_get_other _ _ _ _ _ n hn)
  · rw [hsame.walkers, hw]; exact r.recorded_walkers s
  · rw [hsame.lanes, hw]; exact r.recorded_lanes s
  · exact (((afterReads_quiet s r.srcs).trans (writeDest_quiet ..)).trans hquiet).trans (done_quiet _)
  · exact (((afterReads_samePlace s r.srcs).trans (writeDest_samePlace ..)).trans hplace).movedOn_done

/-- The i-th source's value on a lane. -/
theorem State.val_eq (s : State) (srcs : List (Src × Ty)) (i l : Nat) : ((s.vals srcs).getD i (.one 0)).at l = s.val srcs i l := by
  unfold State.val
  rw [List.getD_eq_getElem?_getD, List.getD_eq_getElem?_getD, List.getElem?_map]
  cases (s.vals srcs)[i]? with
  | none => rfl
  | some _ => rfl

/-- A cross-lane instruction is of this form: what it makes of the enabled set and of its sources' values is the form's value on each
lane, and the form's bit where it writes a mask. -/
theorem crossOp_completes {i : Instr} {s : State} {r : Form} {sw : Bool} {a : Fin 128} {srcs : List (Src × Ty)}
    {f : LaneSet → (Nat → Word) → (Nat → Word) → (Nat → Word) × (Nat → Bool)}
    (hx : exec i s = (crossOp r.d r.mask r.wide sw a srcs r.mo f s).out) (hsrcs : r.srcs = (.vec a, if sw then .n64 else .n32) :: srcs)
    (hval : ∀ en, r.val en = (f en (fun l => fit sw (s.val r.srcs 0 l)) (s.val r.srcs 1)).1)
    (hbit : ∀ en, r.mo ≠ 0 → r.bit en = (f en (fun l => fit sw (s.val r.srcs 0 l)) (s.val r.srcs 1)).2)
    (hrun : s.CanRun r) : ∃ t, exec i s = .next t ∧ s.RegResult t r := by
  obtain ⟨hread, hwrite⟩ := hrun
  have hsecond : ((s.vals r.srcs).getD 1 (.one 0)).at = s.val r.srcs 1 := funext (s.val_eq r.srcs 1)
  refine ⟨(r.written s).done, ?_, r.written_done s⟩
  rw [hx]
  unfold crossOp
  rw [← hsrcs]
  simp only [readSrcs_ok s r.srcs _ hread, checkDest_ok _ _ s _ hwrite, bind, Except.bind, without_nil, splitLanes_nil, out_ok,
    State.val_eq, hsecond, ← hval]
  unfold Form.written Form.recorded Form.maskLanes
  by_cases hmo : r.mo = 0
  · rw [if_pos hmo, if_pos hmo]
  · rw [if_neg hmo, if_neg hmo, hbit _ hmo]

/-- A raw index is out of range beyond the lanes of the strand (R128, R169). -/
theorem srcLane_snd (w : Nat) (j : Int) : (srcLane w j).2 = decide (j < 0 ∨ (w : Int) ≤ j) := (Bool.decide_or ..).symm

/-- A shuffle takes each lane's value from its source lane where that is enabled (R169). -/
theorem shfl_completes {i : Instr} {s : State} {o : ShflOp} {raw : Int → Int → Int} (hx : exec i s = (shflOp raw o s).out)
    (hrun : s.CanRun (shflForm s o raw)) : ∃ t, exec i s = .next t ∧ s.RegResult t (shflForm s o raw) := by
  unfold shflOp at hx
  exact crossOp_completes (r := shflForm s o raw) hx rfl (fun _ => rfl) (fun _ _ => funext fun _ => (srcLane_snd ..).symm) hrun

/-! ## Scalars taken from masks (R171, R173) -/

/-- A scalar written from masks of the path is a register instruction without sources. -/
theorem maskScalar_isMeaning {i : Instr} {s : State} {d : Dest} {x : Nat} {w : Word} (hx : exec i s = (maskScalar d x s).out)
    (hw : BitVec.ofNat 64 x = w) : (plain d 0 false [] fun _ _ => w).IsMeaning i s :=
  plain_isMeaning (fun _ _ => w) (by rw [hx, ← setScalar_done, hw.symm]; rfl) fun _ _ => rfl

/-- `ballot.sum` reads the number of its word, and writes that word of the mask, or zero where the strand has none (R171). -/
theorem ballotSum_completes (s : State) (d : Dest) (ms : Fin 16) (b : SC) {val : LaneSet → Nat → Word}
    (hval : val = fun _ _ => BitVec.ofNat 64 (if natAt .n32 (s.val [(scSrc b, .n32)] 0 0) < s.strand.width / 32
      then maskWord (s.path.mask ms) (natAt .n32 (s.val [(scSrc b, .n32)] 0 0)) else 0))
    (hrun : s.CanRun (plain d 0 false [(scSrc b, .n32)] val)) :
    ∃ t, exec (.ballot d ms (some b)) s = .next t ∧ s.RegResult t (plain d 0 false [(scSrc b, .n32)] val) := by
  obtain ⟨hread, hwrite⟩ := hrun
  have hread' : s.CanRead [(scSrc b, .n32)] s.path.lanes := enabled_zero s d ▸ hread
  have hwrite' : (s.afterReads [(scSrc b, .n32)]).CanWrite d false := hwrite
  have hwritten : (plain d 0 false [(scSrc b, .n32)] val).written s =
      writeDest d false s.path.lanes (val s.path.lanes) (s.afterReads [(scSrc b, .n32)]) := by
    rw [← enabled_zero s d]; rfl
  refine ⟨_, ?_, Form.written_done _ s⟩
  rw [hwritten, hval]
  show (ballotOp d ms (some b) s).out = _
  unfold ballotOp
  simp only [readSrcs_ok s _ _ hread', setScalar_ok _ _ _ _ _ hwrite', bind, Except.bind, splitLanes_nil, out_ok, afterReads_lanes]
  rfl

/-- Settles O4: each form is what its cross-lane instruction makes of the values of its sources, and a scalar of a mask is a register
instruction. Of `reduce` into a vector no lane is enabled where the form has the identity (log entry 68). -/
theorem crossLaneCompletes : Obligations.CrossLaneCompletes := by
  intro i s r h hrun
  cases h
  case shflIdx | shflUp | shflDn | shflXor | bcast => exact shfl_completes rfl hrun
  case matchLanes | mrank | scan | reduce =>
    exact crossOp_completes rfl rfl (fun _ => rfl) (fun _ _ => rfl) hrun
  case ballotNone | mpop | mfirst | mlast => exact (maskScalar_isMeaning rfl rfl).completes hrun
  case any | all => exact (maskScalar_isMeaning rfl (by split <;> rfl)).completes hrun
  case ballotSome => exact ballotSum_completes _ _ _ _ rfl hrun

end Sys2Proof.Machine
end

section
/-! PROOF. Load data that the lanes of one load bring to each other (O15 refuted: R186, R187, R206, R207, R245). -/
namespace Sys2Proof.Machine

/-! ## Two lanes of a load at one sector (R186, R187, R207)

A sector homed on die 1 holds 7 there, and die 0 keeps an older copy of it, which holds 0. The strand at slot 0 of core 0, on die 0, loads the
sector on two lanes through two pages, of which only the first has the race-detect mark: alone lane 0 finds the 7 of the home, which
serves it without a copy, and lane 1 the 0 of the copy. Together lane 0 brings the home's bytes into the L1, and lane 1 finds them there. -/

/-- The part of a lane in a load of the sector, by a page with or without the race-detect mark. -/
def twoPageAcc (lane : Nat) (rd : Bool) : LaneAcc := { laneAcc .i32 .add lane 0 0 0 with pa := 2 ^ 38, rd := rd }

/-- The load, numbered 7, with its vector destination v5. -/
def twoPageLoad : Flight where
  kind := .load [0, 1] true
  paths := [0]
  pc := 8
  issued := 0
  ticket := 0
  ctr := some 0
  unit := 7
  ty := .i32
  d := some (.vec 5)
  lanes := ofLanes [0, 1]
  accs := [twoPageAcc 0 true, twoPageAcc 1 false]
  passed := true
  seq := 0
  pub := 0

/-- The record that waits for both lanes. -/
def twoPageRec : Rec := { newRec .reset false 1 (List.replicate 32 0) 8 with pend := [(7, ofLanes [0, 1])] }

def twoPagePath : Path := { Path.empty with lanes := ofLanes [0, 1], v := [(5, twoPageRec)] }
def twoPageStrand : Strand := { Strand.empty with paths := [(0, twoPagePath)], flights := [(7, twoPageLoad)] }

def twoPageState : State := { State.reset with dev := { Device.reset with
  mem := ⟨[(2 ^ 38, 7)]⟩
  cores := [(0, { Core.reset with strands := [(0, twoPageStrand)] })]
  dies := [(0, { Die.empty with copies := [(copyKey 0 (2 ^ 33), List.replicate 32 0)] })]
  parts := [(0, { Partition.reset with shares := [1, 0, 0, 0] })] } }

/-- What each lane finds by itself. -/
def twoPageFound (l : Nat) : Word := if l = 0 then 7 else 0

theorem twoPageFound_home : twoPageState.flush.Finds 0 0 twoPageLoad true (twoPageAcc 0 true) (twoPageFound 0) :=
  .memory rfl (by decide) (by decide) (by decide) (by decide) (by decide)

theorem twoPageFound_copy : twoPageState.flush.Finds 0 0 twoPageLoad true (twoPageAcc 1 false) (twoPageFound 1) :=
  .copy (List.replicate 32 0) rfl rfl (by decide) (by decide) (by decide) (by decide) (by decide) (by decide)

/-- The values of v5 once the load has arrived. -/
def twoPageVals (t : State) : Option (List Word) :=
  (t.strandAt 0 0).bind fun st => (tget st.paths 0).bind fun q => (tget q.v 5).map Rec.vals

/-- Lane 1 gets what lane 0 found: its sector has come into the L1. -/
theorem twoPageVals_arrived :
    twoPageVals (twoPageState.flush.arriveLoad 0 0 7 [] .done) = some (7 :: 7 :: List.replicate 30 0) := by decide +kernel

/-- Each lane of the load is whole, chosen and free to bind, and finds its own value. -/
theorem twoPageLoad_binds : ∀ a ∈ twoPageLoad.accs, a.bad = none ∧ twoPageLoad.chosen [] .done a = true ∧
    twoPageState.flush.dev.paused a.pa = false ∧ failCause twoPageState.flush.dev .done a = none ∧
    twoPageState.flush.Finds 0 0 twoPageLoad true a (twoPageFound a.lane) :=
  List.forall_mem_cons.mpr ⟨⟨rfl, rfl, by decide, by decide, twoPageFound_home⟩,
    List.forall_mem_singleton.mpr ⟨rfl, rfl, by decide, by decide, twoPageFound_copy⟩⟩

/-- Refutes O15, by LOAD_DATA_ARRIVAL: two lanes of one load that reach one sector through pages of which one has the race-detect mark
find different values by themselves, and the same one together, since the lane that binds first brings its bytes into the L1
(`twoPageVals_arrived`). -/
theorem not_resultsArrive : ¬ Obligations.ResultsArrive := by
  rintro ⟨-, hload⟩
  obtain ⟨t, st, q, ht, hst, -, hq, -, -, hvec⟩ := hload twoPageState 0 0 7 [] .done twoPageStrand twoPageLoad [0, 1] true 0 twoPagePath
    twoPageFound rfl rfl rfl rfl twoPageLoad_binds (by decide) rfl
  have hlanes : ∀ l, (ofLanes [0, 1]).getLsbD l = true → ∃ a ∈ twoPageLoad.accs, a.lane = l := fun l hl => by
    obtain rfl | rfl : l = 0 ∨ l = 1 := by
      rw [ofLanes_getLsbD, Bool.and_eq_true, decide_eq_true_eq, decide_eq_true_eq] at hl
      simpa using hl.2
    · exact ⟨twoPageAcc 0 true, .head _, rfl⟩
    · exact ⟨twoPageAcc 1 false, .tail _ (.head _), rfl⟩
  obtain ⟨r, hr, hvals, -⟩ := hvec 5 twoPageRec (ofLanes [0, 1]) rfl rfl (by decide) hlanes
  rw [exec_loadDataArrival, execLoadDataArrival] at ht
  have hgot : twoPageVals t = some (7 :: 7 :: List.replicate 30 0) := Host.Outcome.next.inj ht ▸ twoPageVals_arrived
  have hwant : twoPageVals t = some (7 :: 0 :: List.replicate 30 0) := by
    rw [twoPageVals, hst, Option.bind_some, hq, Option.bind_some, hr, Option.map_some, hvals]
    decide +kernel
  exact absurd (hgot.symm.trans hwant) (by decide)

end Sys2Proof.Machine
end

section
/-! PROOF. Streaming operations (O20: R36, R124, R164 to R167). From the bottom up: what opening a window leaves; the trap with an address on
every lane; the segments of an operation, as its form says them; the clocks of a core in which they run. -/
namespace Sys2Proof.Machine

/-! ## Windows (R36) -/

theorem skipDone_windowOpen (n : Nat) (p : Path) (h : p.windowOpen = true) : (Path.skipDone n p).windowOpen = true := by
  induction n generalizing p with
  | zero => exact h
  | succ n ih =>
    unfold Path.skipDone
    split
    · exact h
    · next w hw =>
      have hc : w.complete = false := by simpa [Path.windowOpen, hw] using h
      split
      · exact ih _ (by simp [Path.windowOpen, hc])
      · exact h

/-- A path with an open window does not leave its block, and the window stays open. -/
theorem advance_windowOpen (s : State) (h : s.path.windowOpen = true) : s.advance.path.windowOpen = true := by
  have hp : (Path.skipDone 16 { s.path with pc := s.path.nextPc }).windowOpen = true := skipDone_windowOpen 16 _ h
  unfold State.advance
  dsimp only
  rw [hp, Bool.not_true, Bool.and_false, if_neg Bool.false_ne_true]
  exact hp

/-- A long-latency instruction issues, and changes of its path no name; where it is not complete at once, its window is open. -/
theorem openWindow_issued (s0 s : State) (la : Fin 16) (ns : List Name) (ws : List (Fin 8)) (dst : List Name) (flight : Nat)
    (complete : Bool) : ∃ p, s0.openWindow s la ns ws dst flight complete = { s.issued with path := p } ∧ s.path.SameNames p ∧
      (complete = false → p.windowOpen = true) := by
  unfold State.openWindow
  extract_lets done t w
  refine ⟨_, advance_eq _, ?_, fun hc => advance_windowOpen _ ?_⟩
  · have ht : s.path.SameNames t.path := issued_same s
    exact Path.SameNames.trans (ht.trans (by constructor <;> rfl)) (advance_same _)
  · simp [Path.windowOpen, hc, w]

/-! ## An address on every lane (R286, R339) -/

theorem tget_foldl_tset {α : Type} (ls : List Nat) (x : α) (t : Tbl α) {l : Nat} (h : l ∈ ls ∨ tget t l = some x) :
    tget (ls.foldl (fun t l => tset t l x) t) l = some x := by
  induction ls generalizing t with
  | nil => exact h.resolve_left List.not_mem_nil
  | cons k ks ih =>
    refine ih _ ?_
    by_cases hk : l = k
    · exact .inr (by rw [hk, tget_tset_same])
    · rw [List.mem_cons] at h
      rw [tget_tset_other _ _ hk]
      exact h.imp_left (·.resolve_left hk)

/-- A fault with one address traps the path at its instruction, with that address on each of the lanes, and changes nothing else. -/
theorem raiseAddr_raised (cause : Nat) (ls : List Nat) (x : Word) (s : State) (hw : s.path.windowOpen = false) :
    ∃ t tr, (raiseAddr cause (ls.map fun l => ⟨l, cause, x⟩) s : Ex State).out = .next t ∧ t = { s with path := t.path } ∧
      t.path.trap = some tr ∧ t.path.status = .trapped ∧ tr.cause = cause ∧ tr.fpc = s.path.pc ∧
      ∀ l ∈ ls, tget tr.faddr l = some x := by
  refine ⟨_, _, by rw [raiseAddr, if_neg (by rw [hw]; decide)]; rfl, rfl, rfl, rfl, rfl, rfl, fun l hl => ?_⟩
  show tget ((ls.map fun l => (⟨l, cause, x⟩ : LFault)).foldl (fun t f => tset t f.lane f.addr) []) l = some x
  rw [List.foldl_map]
  exact tget_foldl_tset ls x [] (.inl hl)

/-! ## Issue (R166, R167) -/

/-- Each streaming operation is `sxOp` of itself, with the sources and checks of its form. -/
theorem StreamIssue.exec_eq {i : Instr} {f : StreamForm} (h : StreamIssue i f) :
    ∃ la, ∀ s, exec i s = (sxOp la i f.srcs f.checks s).out := by
  cases h <;> exact ⟨_, fun _ => rfl⟩

/-- The streaming operation of the path in focus, as it issues. -/
def State.newStream (s : State) (i : Instr) (v : List Nat) : Stream :=
  ⟨s.slotNo, s.pathNo, s.strand.cohort, i, v, 0, s.clock, [], s.cohort.a⟩

/-- The state in which a streaming operation opens its window: its reads are taken, and it runs on the core where it has segments. -/
def State.startStream (s : State) (i : Instr) (reads : List (Src × Ty)) (v : List Nat) : State :=
  if sxCount i = 0 then s.afterReads reads
  else { s.afterReads reads with core := { s.core with stream := some (s.newStream i v) } }

theorem startStream_quiet (s : State) (i : Instr) (reads : List (Src × Ty)) (v : List Nat) : s.Quiet (s.startStream i reads v) := by
  unfold State.startStream
  split
  · exact afterReads_quiet s reads
  · constructor <;> rfl

theorem startStream_path (s : State) (i : Instr) (reads : List (Src × Ty)) (v : List Nat) :
    (s.startStream i reads v).path = (s.afterReads reads).path := by
  unfold State.startStream
  split <;> rfl

theorem startStream_stream (s : State) (i : Instr) (reads : List (Src × Ty)) (v : List Nat) (hfree : s.core.stream = none) :
    (s.startStream i reads v).core.stream = if sxCount i = 0 then none else some (s.newStream i v) := by
  unfold State.startStream
  split
  · exact hfree
  · rfl

section issue
variable {i : Instr} {f : StreamForm} {s : State} {v : List Nat}

/-- A streaming operation that does not wait and whose sources can be read runs, or traps on a misaligned operand (R166, R167). -/
theorem StreamIssue.exec_ready (h : StreamIssue i f) (hacq : s.strand.acquiring s.pathNo = false) (hfree : s.core.stream = none)
    (hr : s.CanRead f.reads s.path.lanes) (hv : ((s.vals f.reads).map fun x => (x.at 0).toNat) = v) :
    ∃ la, exec i s = Ex.out (match sxMisaligned (f.checks v) with
      | some a => raiseAddr cAlign ((lanesOf s.strand.width s.path.lanes).map fun l => ⟨l, cAlign, BitVec.ofNat 64 a⟩) s
      | none => .ok (s.openWindow (s.startStream i f.reads v) la (namesOf f.reads []) [] [] 0 (sxCount i = 0))) := by
  obtain ⟨la, hx⟩ := h.exec_eq
  refine ⟨la, ?_⟩
  rw [hx, sxOp]
  simp only [waitFor, hacq, hfree, Option.isNone_none, Bool.not_false, Bool.and_self, if_true, bind, Except.bind]
  rw [show (f.srcs.map fun x => (afSrc x, Ty.n64)) = f.reads from rfl]
  simp only [readSrcs_ok s _ _ hr, hv, splitLanes_nil]
  rfl

theorem StreamIssue.runs (h : StreamIssue i f) (hacq : s.strand.acquiring s.pathNo = false) (hfree : s.core.stream = none)
    (hr : s.CanRead f.reads s.path.lanes) (hv : ((s.vals f.reads).map fun x => (x.at 0).toNat) = v)
    (ha : sxMisaligned (f.checks v) = none) : ∃ t, exec i s = .next t ∧ t.strand = s.strand ∧ s.ActsOnCohort t f.reads id ∧
      (sxCount i ≠ 0 → t.path.windowOpen = true) ∧ t.core.stream = if sxCount i = 0 then none else some (s.newStream i v) := by
  obtain ⟨la, hx⟩ := h.exec_ready hacq hfree hr hv
  rw [ha] at hx
  let u := s.startStream i f.reads v
  obtain ⟨p, ht, hsame, hopen⟩ := openWindow_issued s u la (namesOf f.reads []) [] [] 0 (sxCount i = 0)
  have hquiet : s.Quiet u.issued := (startStream_quiet s i f.reads v).trans (issued_quiet u)
  have hpath : u.path = (s.afterReads f.reads).path := startStream_path s i f.reads v
  refine ⟨{ u.issued with path := p }, by rw [hx, ht, out_ok], hquiet.strand, ⟨fun n => ?_, ?_, ?_, hquiet.dev, hquiet.cohort,
    hquiet.queues, hquiet.strands, hquiet.clock, hquiet.focus⟩, fun h0 => hopen (decide_eq_false h0),
    startStream_stream s i f.reads v hfree⟩
  · rw [← hpath]; exact hsame.get n
  · exact hsame.masks.trans (hpath ▸ afterReads_masks s f.reads)
  · exact hsame.lanes.trans (hpath ▸ afterReads_lanes s f.reads)

theorem StreamIssue.raisesAlign (h : StreamIssue i f) (hacq : s.strand.acquiring s.pathNo = false) (hfree : s.core.stream = none)
    (hr : s.CanRead f.reads s.path.lanes) (hv : ((s.vals f.reads).map fun x => (x.at 0).toNat) = v) {a : Nat}
    (ha : sxMisaligned (f.checks v) = some a) (hw : s.path.windowOpen = false) :
    ∃ t tr, exec i s = .next t ∧ t.path.trap = some tr ∧ t.path.status = .trapped ∧ tr.cause = 0x07 ∧ tr.fpc = s.path.pc ∧
      (∀ l ∈ lanesOf s.strand.width s.path.lanes, tget tr.faddr l = some (BitVec.ofNat 64 a)) ∧ t.cohort = s.cohort ∧ t.dev = s.dev := by
  obtain ⟨la, hx⟩ := h.exec_ready hacq hfree hr hv
  rw [ha] at hx
  obtain ⟨t, tr, ht, heq, htrap, hstatus, hcause, hfpc, hfaddr⟩ :=
    raiseAddr_raised cAlign (lanesOf s.strand.width s.path.lanes) (BitVec.ofNat 64 a) s hw
  exact ⟨t, tr, hx.trans ht, htrap, hstatus, hcause, hfpc, hfaddr, by rw [heq]; rfl, by rw [heq]⟩

end issue

/-! ## Segments (R124, R164 to R167) -/

/-- The window and the sums after the first segments of an operation. -/
def sxRun (op : Instr) (v : List Nat) (size : Nat) (m : Memory) (k : Nat) : Memory × List Nat :=
  (List.range k).foldl (fun r seg => sxSegment op v seg r.2 r.1 size) (m, [])

theorem sxRun_succ (op : Instr) (v : List Nat) (size : Nat) (m : Memory) (k : Nat) :
    sxRun op v size m (k + 1) = sxSegment op v k (sxRun op v size m k).2 (sxRun op v size m k).1 size := by
  rw [sxRun, List.range_succ, List.foldl_append]
  rfl

/-- The segments of an operation that keeps no sums. -/
theorem sxRun_elements {op : Instr} {v : List Nat} {size : Nat} {g : Memory → Nat → Memory}
    (hg : ∀ seg acc m, sxSegment op v seg acc m size = (g m seg, acc)) (m : Memory) (k : Nat) :
    (sxRun op v size m k).1 = (List.range k).foldl g m := by
  induction k with
  | zero => rfl
  | succ k ih => rw [sxRun_succ, hg, ih, List.range_succ, List.foldl_append]; rfl

/-- The 32 elements of a segment of a sum, and the columns of its first segments added up. -/
def sumRow (o : SxSumOp) (v : List Nat) (size : Nat) (m : Memory) (seg : Nat) : List Nat :=
  (List.range 32).map fun j => sxGet m size o.ty (sxAddr o.ty (v.getD 1 0) o.sa seg j) j

def sumRows (o : SxSumOp) (v : List Nat) (size : Nat) (m : Memory) (k : Nat) : List Nat :=
  ((List.range k).drop 1).foldl (fun acc seg => List.zipWith (fAdd o.ty) acc (sumRow o v size m seg)) (sumRow o v size m 0)

theorem sumRows_succ (o : SxSumOp) (v : List Nat) (size : Nat) (m : Memory) (k : Nat) :
    sumRows o v size m (k + 2) = List.zipWith (fAdd o.ty) (sumRows o v size m (k + 1)) (sumRow o v size m (k + 1)) := by
  rw [sumRows, List.range_succ, List.drop_append_of_le_length (by simp), List.foldl_append]
  rfl

/-- A sum adds up its columns, and leaves the window alone until its last segment, which writes what their tree gives. -/
theorem sxRun_sum (o : SxSumOp) (v : List Nat) (size : Nat) (m : Memory) (k : Nat) (hk : k < o.n.toNat) :
    sxRun (.sxSum o) v size m (k + 1) =
      (if k + 1 = o.n.toNat then sxPut m size o.ty (v.getD 0 0 % 131072) 0 (sxTree o.ty (sumRows o v size m (k + 1))) else m,
        sumRows o v size m (k + 1)) := by
  induction k with
  | zero => rfl
  | succ k ih => rw [sxRun_succ, ih (by omega), if_neg (by omega), sumRows_succ]; rfl

theorem getD_take_lt (v : List Nat) {i n : Nat} (h : i < n) : (v.take n).getD i 0 = v.getD i 0 := by
  rw [List.getD_eq_getElem?_getD, List.getD_eq_getElem?_getD, List.getElem?_take_of_lt h]

theorem getD_take_self (v : List Nat) (n : Nat) : (v.take n).getD n 0 = 0 := by
  rw [List.getD_eq_getElem?_getD, List.getElem?_eq_none (List.length_take_le n v), Option.getD_none]

/-- The segments of a streaming operation leave the window that its form says. -/
theorem StreamIssue.run_eq {i : Instr} {f : StreamForm} (h : StreamIssue i f) (v : List Nat) (c : Cohort) (hn : sxCount i ≠ 0) :
    (sxRun i v c.asize c.a (sxCount i)).1 = f.run v c := by
  have h0 : (v.take 2).getD 0 0 = v.getD 0 0 := getD_take_lt v (by decide)
  have h1 : (v.take 2).getD 1 0 = v.getD 1 0 := getD_take_lt v (by decide)
  have h2 : (v.take 2).getD 2 0 = 0 := getD_take_self v 2
  cases h
  case sxCvt o | sxExp2 o =>
    dsimp only
    rw [streamRun, h0, h1, h2]
    exact sxRun_elements (fun _ _ _ => rfl) _ _
  case sxSum o =>
    obtain ⟨k, hk⟩ := Nat.exists_eq_succ_of_ne_zero hn
    have hk' : o.n.toNat = k + 1 := hk
    rw [hk, sxRun_sum o v c.asize c.a k (by omega), if_pos hk'.symm, ← hk']
    rfl
  all_goals exact sxRun_elements (fun _ _ _ => rfl) _ _

/-! ## The clocks of the core (R166) -/

/-- `d` is the core `c` after k segments of the streaming operation `x` on the cohort `h`: still running, with the window and the sums that
they leave. -/
structure Core.After (c d : Core) (x : Stream) (h : Cohort) (k : Nat) : Prop where
  stream : d.stream = some { x with seg := k, clk := x.clk + k * sxClocks x.op, acc := (sxRun x.op x.vals h.asize h.a k).2 }
  own : tget d.cohorts x.key = some { h with a := (sxRun x.op x.vals h.asize h.a k).1 }
  others : ∀ j, j ≠ x.key → tget d.cohorts j = tget c.cohorts j
  strands : d.strands = c.strands

section clocks
variable {c d : Core} {x : Stream} {h : Cohort} {k : Nat}

theorem Core.after_zero (hs : c.stream = some x) (h0 : x.seg = 0) (ha : x.acc = []) (hh : tget c.cohorts x.key = some h) :
    c.After c x h 0 := by
  refine ⟨?_, hh, fun _ _ => rfl, rfl⟩
  rw [hs, Nat.zero_mul, Nat.add_zero, show (sxRun x.op x.vals h.asize h.a 0).2 = x.acc from ha.symm, ← h0]

/-- One segment more, that is not the last. -/
theorem Core.After.step (ha : c.After d x h k) (hk : k + 1 < sxCount x.op) : c.After d.stepStream x h (k + 1) := by
  obtain ⟨hstream, hown, hothers, hstrands⟩ := ha
  unfold Core.stepStream
  rw [hstream]
  dsimp only
  rw [hown]
  dsimp only
  rw [if_pos hk]
  refine ⟨?_, ?_, fun j hj => (tget_tset_other _ _ hj).trans (hothers j hj), hstrands⟩
  · rw [sxRun_succ, Nat.add_mul, Nat.one_mul, ← Nat.add_assoc]
  · rw [sxRun_succ]; exact tget_tset_same ..

theorem Core.After.steps (ha : c.After c x h 0) (hk : k < sxCount x.op) :
    c.After ((List.range k).foldl (fun c _ => c.stepStream) c) x h k := by
  induction k with
  | zero => exact ha
  | succ k ih =>
    rw [List.range_succ, List.foldl_append]
    exact (ih (by omega)).step hk

/-- The last segment ends the operation (R36, R167). -/
theorem Core.After.last (ha : c.After d x h k) (hk : k + 1 = sxCount x.op) :
    d.stepStream.stream = none ∧
    tget d.stepStream.cohorts x.key = some { h with a := (sxRun x.op x.vals h.asize h.a (k + 1)).1 } ∧
    (∀ j, j ≠ x.key → tget d.stepStream.cohorts j = tget c.cohorts j) ∧
    d.stepStream.strands = tmod c.strands x.slot fun st => { st with paths := tmod st.paths x.path Path.completeWindow } := by
  obtain ⟨hstream, hown, hothers, hstrands⟩ := ha
  unfold Core.stepStream
  rw [hstream]
  dsimp only
  rw [hown]
  dsimp only
  rw [if_neg (by omega), sxRun_succ, ← hstrands]
  exact ⟨rfl, tget_tset_same .., fun j hj => (tget_tset_other _ _ hj).trans (hothers j hj), rfl⟩

theorem sxClocks_pos (i : Instr) : 0 < sxClocks i := by
  unfold sxClocks
  repeat' split
  all_goals decide

/-- With time for all of its segments, a core runs as many as the operation has. -/
theorem Core.runStream_all {till : Nat} (hs : c.stream = some x) (h0 : x.seg = 0) (ht : x.clk + sxCount x.op * sxClocks x.op ≤ till) :
    c.runStream till = (List.range (sxCount x.op)).foldl (fun c _ => c.stepStream) c := by
  have hpos := sxClocks_pos x.op
  have henough : sxCount x.op ≤ (till - x.clk + sxClocks x.op - 1) / sxClocks x.op := by
    rw [Nat.le_div_iff_mul_le hpos]
    omega
  rw [Core.runStream, hs]
  dsimp only
  rw [h0, Nat.sub_zero, Nat.min_eq_left henough]

end clocks

/-- Settles O20: a streaming operation issues or traps by its own operands, with the address of the first that is misaligned and also where
its count is 0 (log entries 39 and 122), and its segments are those of its form. -/
theorem streamCompletes : Obligations.StreamCompletes := by
  refine ⟨fun i f s h hacq hfree hr => ⟨h.runs hacq hfree hr rfl, fun a ha hw _ => h.raisesAlign hacq hfree hr rfl ha hw⟩, ?_⟩
  rintro i f x c h till hf rfl h0 hacc hs hh hn ht
  obtain ⟨k, hk⟩ := Nat.exists_eq_succ_of_ne_zero hn
  have hafter := ((Core.after_zero hs h0 hacc hh).steps (k := k) (by omega)).last hk.symm
  rw [Core.runStream_all hs h0 ht, hk, List.range_succ, List.foldl_append]
  rw [← hf.run_eq x.vals h hn, hk]
  exact hafter

end Sys2Proof.Machine
end

section
/-! PROOF. `rolesw` (O23: R30 to R33, R137, R177, R206, R295, R335). From the bottom up: how a path comes to a header that nothing keeps it from;
what of a state decides that; putting the focus back and taking it again; the element taken from a queue; the switch. -/
namespace Sys2Proof.Machine

/-! ## Coming to a header (R30 to R33) -/

theorem mem_of_mem_tset {α : Type} {t : Tbl α} {n : Nat} {x : α} {e : Nat × α} (h : e ∈ tset t n x) : e ∈ t ∨ e = (n, x) := by
  induction t with
  | nil => exact .inr (List.mem_singleton.mp h)
  | cons y r ih =>
    obtain ⟨k, z⟩ := y
    unfold tset at h
    split at h
    · exact (List.mem_cons.mp h).symm
    · split at h
      · exact (List.mem_cons.mp h).symm.imp_left (List.mem_cons_of_mem _)
      · rcases List.mem_cons.mp h with rfl | h
        · exact .inl List.mem_cons_self
        · exact (ih h).imp_left (List.mem_cons_of_mem _)

/-- A path stops at no header that is neither a rejoin point nor the join of one of its splits (R137, R335). -/
theorem State.Free.halt_none {s : State} {a : Word} (h : s.Free a) (fall : Bool) : s.halt a fall = none := by
  obtain ⟨-, hpaths, hpath, harms⟩ := h
  have hfrags : fragsAt s.paths s.pathNo a = false := by
    refine List.any_eq_false.mpr fun q hq => ?_
    have hne : q.2.rejoin ≠ some a := by
      rcases mem_of_mem_tset hq with hq | rfl
      · exact hpaths q hq
      · exact hpath
    simp [hne]
  unfold State.halt
  dsimp only
  rw [hfrags, harms]
  simp [hpath]

/-- A valid header whose check can be made lets the path into its block (R32). -/
theorem Path.enter_valid {p : Path} {b : Block} {fall : Bool} {o : Word} {u : Undo} (hv : b.valid = true) (hu : b.untested = false) :
    p.enter b fall o u = { p with status := .ready, blk := b, pc := b.base + 8, asked := none } := by
  unfold Block.valid at hv
  simp only [Bool.and_eq_true, decide_eq_true_eq, bne_iff_ne, Bool.not_eq_true'] at hv
  obtain ⟨⟨⟨hmarker, hlen⟩, hres⟩, hlast⟩ := hv
  have hill : b.illHeader = false := by
    unfold Block.illHeader
    unfold Block.untested at hu
    cases hb : hdrBterm b.hdr
    · simp [hlen, hres]
    · cases hl : lastInstr b.words <;> simp_all
  rw [Path.enter, if_neg (not_not_intro hmarker), hill, if_neg Bool.false_ne_true]

theorem goTo_unbuffered {s : State} {a o : Word} {u : Undo} (ha : a.toNat % 8 = 0) (hb : s.buffered a = none) :
    s.goTo a false o u = { s with path := { s.path with pc := a, status := .fetch a false o u } } := by
  rw [State.goTo, if_neg (not_not_intro ha), hb]
  rfl

theorem goTo_buffered {s : State} {a o : Word} {u : Undo} {b : Block} (hf : s.Free a) (hj : s.path.joinCheck = false)
    (hb : s.buffered a = some b) (hm : hdrMarker b.hdr = 0x3F) :
    s.goTo a false o u =
      { s with path := (if b.untested then { s.path with pc := a, status := .fetch a false o u } else s.path.enter b false o u) } := by
  have hs : ({ s with path := { s.path with joinCheck := false } } : State) = s := by rw [← hj]
  have hfails : s.path.joinFails b = false := by rw [Path.joinFails, hj]; rfl
  rw [State.goTo, if_neg (not_not_intro hf.1), hb]
  dsimp only
  rw [if_neg (by simp [hm]), hfails, if_neg Bool.false_ne_true, hs, State.comeTo, hf.halt_none]

theorem Block.valid_marker {b : Block} (h : b.valid = true) : hdrMarker b.hdr = 0x3F := by
  unfold Block.valid at h
  simp only [Bool.and_eq_true, decide_eq_true_eq] at h
  exact h.1.1.1

/-- A transfer brings the path to the header at its target with the names that it has. -/
theorem goTo_arrives (s : State) (a o : Word) : s.Arrives (s.goTo a false o .nothing) a false s.path.SameNames := by
  intro hf hj
  cases hb : s.buffered a with
  | none =>
    rw [goTo_unbuffered hf.1 hb]
    exact ⟨rfl, by constructor <;> rfl, _, _, rfl⟩
  | some b =>
    intro hv
    rw [goTo_buffered hf hj hb (Block.valid_marker hv)]
    split
    · exact ⟨rfl, by constructor <;> rfl, _, _, rfl⟩
    · next hu =>
      rw [Path.enter_valid hv (Bool.eq_false_iff.mpr hu)]
      exact ⟨rfl, rfl, rfl, by constructor <;> rfl⟩

/-- Arriving with some names is arriving with what follows of them. -/
theorem State.Arrives.mono {s t : State} {a : Word} {fall : Bool} {post post' : Path → Prop} (h : s.Arrives t a fall post)
    (hpost : ∀ q, post q → post' q) : s.Arrives t a fall post' := by
  intro hf hj
  have harr := h hf hj
  cases hb : s.buffered a with
  | none =>
    rw [hb] at harr
    exact harr.imp_right (.imp_left (hpost _))
  | some b =>
    rw [hb] at harr
    intro hv
    have harr := harr hv
    split
    · next hu =>
      rw [if_pos hu] at harr
      exact harr.imp_right (.imp_left (hpost _))
    · next hu =>
      rw [if_neg hu] at harr
      exact harr.imp_right (.imp_right (.imp_right (hpost _)))

/-! ## What decides how a path comes to a header -/

/-- The path in focus of `t` comes to headers as that of `s` does: same text, buffer and launch, same splits, rejoin points and marks. -/
structure State.ComesAs (s t : State) : Prop where
  rejoin : t.path.rejoin = s.path.rejoin
  arms : t.path.arms = s.path.arms
  joinCheck : t.path.joinCheck = s.path.joinCheck
  codeFrom : t.path.codeFrom = s.path.codeFrom
  codeOk : t.path.codeOk = s.path.codeOk
  paths : ∀ q ∈ t.strand.paths, q ∈ s.strand.paths ∨ q.2.rejoin = s.path.rejoin
  splits : t.strand.splits = s.strand.splits
  strandLaunch : t.strand.launch = s.strand.launch
  launches : t.dev.launches = s.dev.launches
  texts : t.dev.texts = s.dev.texts
  ibuf : t.core.ibuf = s.core.ibuf

section comesAs
variable {s t u : State}

theorem State.ComesAs.trans (h : s.ComesAs t) (k : t.ComesAs u) : s.ComesAs u where
  rejoin := k.rejoin.trans h.rejoin
  arms := k.arms.trans h.arms
  joinCheck := k.joinCheck.trans h.joinCheck
  codeFrom := k.codeFrom.trans h.codeFrom
  codeOk := k.codeOk.trans h.codeOk
  paths q hq := (k.paths q hq).elim (h.paths q) fun e => .inr (e.trans h.rejoin)
  splits := k.splits.trans h.splits
  strandLaunch := k.strandLaunch.trans h.strandLaunch
  launches := k.launches.trans h.launches
  texts := k.texts.trans h.texts
  ibuf := k.ibuf.trans h.ibuf

theorem State.ComesAs.launch (h : s.ComesAs t) : t.launch = s.launch := by
  simp only [State.launch, Device.launchAt, h.launches, h.strandLaunch]

theorem State.ComesAs.buffered (h : s.ComesAs t) (a : Word) : t.buffered a = s.buffered a := by
  unfold State.buffered Device.newText State.asid
  rw [h.launch, h.texts, h.ibuf, h.codeFrom, h.codeOk]

theorem State.ComesAs.free (h : s.ComesAs t) {a : Word} (hf : s.Free a) : t.Free a := by
  obtain ⟨halign, hpaths, hpath, harms⟩ := hf
  refine ⟨halign, fun q hq => ?_, h.rejoin ▸ hpath, h.splits ▸ h.arms ▸ harms⟩
  rcases h.paths q hq with hq | hq
  · exact hpaths q hq
  · exact hq ▸ hpath

/-- Where a path of `t` arrives, one of `s` does. -/
theorem State.ComesAs.arrives (h : s.ComesAs t) {a : Word} {fall : Bool} {post : Path → Prop} (k : t.Arrives u a fall post) :
    s.Arrives u a fall post := fun hf hj => h.buffered a ▸ k (h.free hf) (h.joinCheck.trans hj)

end comesAs

/-- Reads leave a path's way to a header alone. -/
theorem afterReads_comesAs (s : State) (srcs : List (Src × Ty)) : s.ComesAs (s.afterReads srcs) := by
  have hp : (s.afterReads srcs).path = (readVals s srcs s.path).2.takeReads (readNames srcs) := rfl
  have hv := readVals_path s srcs s.path
  exact {
    rejoin := by rw [hp, Path.takeReads_rejoin, hv]
    arms := by rw [hp, Path.takeReads_arms, hv]
    joinCheck := by rw [hp, Path.takeReads_joinCheck, hv]
    codeFrom := by rw [hp, Path.takeReads_codeFrom, hv]
    codeOk := by rw [hp, Path.takeReads_codeOk, hv]
    paths := fun _ => .inl
    splits := rfl, strandLaunch := rfl, launches := rfl, texts := rfl, ibuf := rfl }

theorem issued_comesAs (s : State) : s.ComesAs s.issued :=
  ⟨rfl, rfl, rfl, rfl, rfl, fun _ => .inl, rfl, rfl, rfl, rfl, rfl⟩

/-! ## The focus put back and taken again -/

/-- The state with the path in focus put back into its tables, and in focus still. -/
def State.refocused (s : State) (c sl p : Nat) : State :=
  let st := { s.strand with paths := tset s.strand.paths p s.path }
  let co := { s.core with strands := tset s.core.strands sl st }
  { s with dev := { s.dev with cores := tset s.dev.cores c co }, core := co, strand := st }

section focus
variable {s : State} {c sl p : Nat}

theorem refocused_comesAs (s : State) (c sl p : Nat) : s.ComesAs (s.refocused c sl p) :=
  ⟨rfl, rfl, rfl, rfl, rfl, fun q hq => (mem_of_mem_tset hq).imp_right fun (e : q = _) => by rw [e], rfl, rfl, rfl, rfl, rfl⟩

/-- An action on the package that leaves it alone puts the focus back and takes it again. -/
theorem onDev_refocused {f : State → State} (hf : s.focus = some (c, sl, p)) (h : f s.flush = s.flush) :
    s.onDev f = s.refocused c sl p := by
  unfold State.onDev
  rw [hf]
  dsimp only
  rw [h]
  unfold State.load State.flush
  rw [hf]
  dsimp only
  rw [Device.coreAt, tgetD, tget_tset_same, Option.getD_some]
  dsimp only
  rw [tget_tset_same]
  dsimp only
  rw [tget_tset_same, Option.getD_some, ← hf]
  rfl

theorem acquireAt_core (hf : s.focus = some (c, sl, p)) : s.acquireAt .core = s.refocused c sl p :=
  onDev_refocused hf rfl

theorem mem_of_mem_insertFlight {f g : Nat × Flight} {fs : List (Nat × Flight)} (h : f ∈ insertFlight g fs) : f = g ∨ f ∈ fs := by
  induction fs with
  | nil => exact .inl (List.mem_singleton.mp h)
  | cons x xs ih =>
    unfold insertFlight at h
    split at h
    · exact List.mem_cons.mp h
    · rcases List.mem_cons.mp h with rfl | h
      · exact .inr List.mem_cons_self
      · exact (ih h).imp_right (List.mem_cons_of_mem _)

theorem mem_of_mem_sortFlights {f : Nat × Flight} {fs : List (Nat × Flight)} (h : f ∈ sortFlights fs) : f ∈ fs := by
  induction fs with
  | nil => exact h
  | cons x xs ih =>
    rcases mem_of_mem_insertFlight h with rfl | h
    · exact List.mem_cons_self
    · exact List.mem_cons_of_mem _ (ih h)

/-- No load is bound of a strand that has none in flight of the kind asked for. -/
theorem bindWhere_none {st : Strand} {which : Flight → Bool} (hst : s.strandAt c sl = some st)
    (h : ∀ f ∈ st.flights, which f.2 = false) (sel : LaneAcc → Bool) : s.bindWhere c sl which sel = s := by
  have hnil : ((sortFlights st.flights).filter fun f => which f.2) = [] :=
    List.filter_eq_nil_iff.mpr fun f hf => by rw [h f (mem_of_mem_sortFlights hf)]; decide
  unfold State.bindWhere
  rw [hst]
  dsimp only
  rw [hnil, List.foldl_nil]

/-- A path without accesses in flight has all its loads bound (R206). -/
theorem bindAll_noFlights (hf : s.focus = some (c, sl, p)) (h : s.NoFlights) : s.bindAll = s.refocused c sl p := by
  refine onDev_refocused hf ?_
  have hst : s.flush.strandAt c sl = some { s.strand with paths := tset s.strand.paths p s.path } := by
    unfold State.flush
    rw [hf]
    dsimp only
    rw [State.strandAt, Device.coreAt, tgetD, tget_tset_same, Option.getD_some, tget_tset_same]
  rw [show s.coreNo = c by rw [State.coreNo, hf], show s.slotNo = sl by rw [State.slotNo, hf], State.bindPath]
  exact bindWhere_none hst (fun f hm => by rw [h f hm, Bool.false_and]) _

theorem allBound_noFlights (h : s.NoFlights) : s.allBound = true :=
  List.all_eq_true.mpr fun f hm => by dsimp only; rw [h f hm]; rfl

end focus

/-! ## An element of a local queue (R295, R305) -/

theorem tget_queue {s : State} {q : Fin 16} {x : Queue} (h : s.queue q = some x) : tget s.core.queues q.val = some x := by
  unfold State.queue at h
  split at h
  · obtain ⟨y, hy, hx⟩ := Option.bind_eq_some_iff.mp h
    split at hx
    · rw [hy, hx]
    · cases hx
  · cases h

/-- From a ring with no reserved element a take gives the element at its head, and leaves one less. -/
theorem take_fits {s : State} {q : Nat} {x : Queue} (h : x.occ ≤ x.cap) :
    (s.take q x).1 = s.cohort.ringGet (x.base + 4 * x.head) ∧ ∃ y, (s.take q x).2 = s.setQueue q y ∧ y.occ = x.occ - 1 := by
  unfold State.take
  dsimp only
  rw [if_neg (by omega)]
  exact ⟨rfl, _, rfl, rfl⟩

/-- An instruction that has issued leaves its queue as it was. -/
theorem tget_queue_issued {s : State} {q : Fin 16} {x : Queue} (srcs : List (Src × Ty)) (h : s.queue q = some x) :
    tget (s.afterReads srcs).issued.core.queues q.val = some x := by
  rw [(issued_quiet _).queues]
  exact tget_queue h

theorem setQueue_comesAs (s : State) (q : Nat) (x : Queue) : s.ComesAs (s.setQueue q x) :=
  ⟨rfl, rfl, rfl, rfl, rfl, fun _ => .inl, rfl, rfl, rfl, rfl, rfl⟩

/-! ## The switch (R177) -/

/-- The names with which a path enters a role without live-ins: none, but for the element of a named queue in s0, to be read once. -/
structure Path.EntersRole (p : Path) (got : Option Word) : Prop where
  v : p.v = []
  masks : p.masks = []
  walkers : p.walkers = []
  none : got = none → p.sc = []
  some : ∀ w, got = some w → ∃ e, p.get (.scl 0) = some e ∧ e.count = some 1 ∧ e.vals = [w]

theorem Path.EntersRole.of_sameNames {p q : Path} {got : Option Word} (h : p.EntersRole got) (k : p.SameNames q) : q.EntersRole got where
  v := k.v.trans h.v
  masks := k.masks.trans h.masks
  walkers := k.walkers.trans h.walkers
  none hg := k.sc.trans (h.none hg)
  some w hw := (h.some w hw).imp fun _ he => ⟨(k.get _).trans he.1, he.2⟩

/-- A switch to a role without live-ins clears the path's names and transfers it to the role's entry. -/
theorem toRole_goTo {s : State} {n : Nat} {r : Role} {a : Word} (got : Option Word) (hr : s.launch.kernel.roles[n]? = some r)
    (he : r.entry = some a) (ha : r.argw = []) :
    ∃ t, s.toRole n got = t.goTo a false s.path.pc .nothing ∧ s.ComesAs t ∧ t.strand.role = some n ∧ t.core.queues = s.core.queues ∧
      t.path.EntersRole got := by
  unfold State.toRole
  extract_lets pc p₀ p p₁ c₀ st₀ s₁ s₂
  have hlive : s₂ = s₁ := by
    show s₁.liveIns ((s.launch.kernel.roles[n]?.map (·.argw)).getD []) _ = s₁
    rw [hr, Option.map_some, Option.getD_some, ha]
    rfl
  have hentry : (s₂.launch.kernel.roles[n]?.bind (·.entry)) = some a := by
    rw [hlive, show s₁.launch = s.launch from rfl, hr, Option.bind_some, he]
  rw [hentry, hlive]
  dsimp only
  obtain ⟨buf, htrace⟩ := trace_eq s₁ 1 0x32 0 pc [] (leBytes 8 a.toNat)
  rw [htrace]
  refine ⟨_, rfl, ?_, rfl, rfl, ?_⟩
  · cases got <;> exact ⟨rfl, rfl, rfl, rfl, rfl, fun _ => .inl, rfl, rfl, rfl, rfl, rfl⟩
  · cases got with
    | none => exact ⟨rfl, rfl, rfl, fun _ => rfl, nofun⟩
    | some w =>
      refine ⟨rfl, rfl, rfl, nofun, fun w' hw => ?_⟩
      cases hw
      exact ⟨newRec s false 1 [w] pc, Path.get_put_same p (.scl 0) _, rfl, rfl⟩

/-- What a switch to a role arrives with. -/
theorem toRole_arrives {s u : State} {n : Nat} {r : Role} {a : Word} (got : Option Word) (h : s.ComesAs u)
    (hr : s.launch.kernel.roles[n]? = some r) (he : r.entry = some a) (ha : r.argw = []) :
    (u.toRole n got).strand.role = some n ∧ (u.toRole n got).core.queues = u.core.queues ∧
      s.Arrives (u.toRole n got) a false (·.EntersRole got) := by
  obtain ⟨t, ht, hcomes, hrole, hqueues, hnames⟩ := toRole_goTo got (h.launch ▸ hr) he ha
  rw [ht]
  refine ⟨?_, ?_, (h.trans hcomes).arrives ((goTo_arrives t a _).mono fun q hq => hnames.of_sameNames hq)⟩
  · rw [goTo_eq]; exact hrole
  · rw [goTo_eq]; exact hqueues

/-- The strand has issued its `rolesw`, its records are freed, and it waits for an element of the queue. -/
def State.atRole (s : State) (n q : Nat) : State := { s with path := { s.path.cleared with status := .roleWait n q } }

section take
variable {s : State} {n q c sl p : Nat} {x : Queue}

theorem roleTake_empty (hq : tget s.core.queues q = some x) (hk : x.kind = 0) (h0 : x.occ = 0) :
    (s.atRole n q).roleTake = s.atRole n q := by
  unfold State.roleTake
  rw [show (s.atRole n q).path.status = .roleWait n q from rfl]
  dsimp only
  rw [show (s.atRole n q).core.queues = s.core.queues from rfl, hq]
  dsimp only
  rw [if_neg (by omega), if_pos (by simp [h0])]

/-- A path without accesses in flight takes the element at its turn, with the acquire, and switches. -/
theorem roleTake_local (hf : s.focus = some (c, sl, p)) (hno : s.NoFlights) (hq : tget s.core.queues q = some x) (hk : x.kind = 0)
    (h0 : x.occ ≠ 0) (hturn : outOfTurn x.acted s.clock s.slotNo = false) :
    (s.atRole n q).roleTake =
      ((((s.atRole n q).refocused c sl p).take q x).2.acquireAt .core).toRole n (some (((s.atRole n q).refocused c sl p).take q x).1) := by
  have hbound : ((s.atRole n q).refocused c sl p).allBound = true := allBound_noFlights hno
  unfold State.roleTake
  rw [show (s.atRole n q).path.status = .roleWait n q from rfl]
  dsimp only
  rw [show (s.atRole n q).core.queues = s.core.queues from rfl, hq]
  dsimp only
  rw [if_neg (by omega), bindAll_noFlights (s := s.atRole n q) hf hno, hbound,
    show outOfTurn x.acted (s.atRole n q).clock (s.atRole n q).slotNo = false from hturn, if_neg (by simp [h0])]

end take

section rolesw
variable {x : SC} {s : State}

/-- A `rolesw` that does not wait, and whose operand can be read. -/
theorem rolesw_ready (hidle : s.strand.idle = true) (hr : s.CanRead (scSrcs x) s.path.lanes) (hw : s.path.windowOpen = false)
    (q : Option (Fin 16)) : exec (.rolesw x q) s = Ex.out (if !s.sole || 3 < s.scVal x then raise cIllop s else match q with
      | none => .ok ((s.afterReads (scSrcs x)).issued.toRole (s.scVal x) none)
      | some q => match s.queue q with
        | none => raise cQueueerr s
        | some y => if y.kind = 2 || (y.kind = 1 && !s.receives y) then raise cQueueerr s
          else .ok ((s.afterReads (scSrcs x)).issued.atRole (s.scVal x) q.val).roleTake) := by
  have hr' : readSrcs [(scSrc x, .n32)] [] s.path.lanes s = .ok (s.vals (scSrcs x), [], s.afterReads (scSrcs x)) := readSrcs_ok s _ _ hr
  show (roleswOp x q s).out = _
  unfold roleswOp
  simp only [waitFor, hidle, hw, Bool.not_false, Bool.and_self, if_true, hr', bind, Except.bind, splitLanes_nil]
  rfl

/-- A role beyond 3, or a strand of more than one path, raises ILLOP. -/
theorem rolesw_illop (hidle : s.strand.idle = true) (hr : s.CanRead (scSrcs x) s.path.lanes) (hw : s.path.windowOpen = false)
    (h : s.sole = false ∨ 3 < s.scVal x) (q : Option (Fin 16)) : ∃ t, exec (.rolesw x q) s = .next t ∧ s.Raised t 0x01 0 := by
  rw [rolesw_ready hidle hr hw, if_pos (by simpa using h)]
  exact raise_raised cIllop s hw

theorem rolesw_noQueue (hidle : s.strand.idle = true) (hr : s.CanRead (scSrcs x) s.path.lanes) (hw : s.path.windowOpen = false)
    (hs : s.sole = true) (hn : s.scVal x ≤ 3) :
    exec (.rolesw x none) s = .next ((s.afterReads (scSrcs x)).issued.toRole (s.scVal x) none) := by
  rw [rolesw_ready hidle hr hw, if_neg (by simp [hs, hn]), out_ok]

theorem rolesw_localQueue (hidle : s.strand.idle = true) (hr : s.CanRead (scSrcs x) s.path.lanes) (hw : s.path.windowOpen = false)
    (hs : s.sole = true) (hn : s.scVal x ≤ 3) {q : Fin 16} {y : Queue} (hq : s.LocalQueue q y) :
    exec (.rolesw x (some q)) s = .next ((s.afterReads (scSrcs x)).issued.atRole (s.scVal x) q.val).roleTake := by
  obtain ⟨hy, hk⟩ := hq
  rw [rolesw_ready hidle hr hw, if_neg (by simp [hs, hn])]
  dsimp only
  rw [hy]
  dsimp only
  rw [if_neg (by simp [hk]), out_ok]

end rolesw

/-- The strand that has issued a `rolesw` comes to headers as before. -/
theorem rolesw_comesAs (s : State) (x : SC) : s.ComesAs (s.afterReads (scSrcs x)).issued :=
  (afterReads_comesAs s _).trans (issued_comesAs _)

theorem atRole_comesAs (s : State) (n q : Nat) : s.ComesAs (s.atRole n q) :=
  ⟨rfl, rfl, rfl, rfl, rfl, fun _ => .inl, rfl, rfl, rfl, rfl, rfl⟩

/-- Settles O23: `rolesw` raises ILLOP, or switches, or frees its records and waits; a switch transfers a path without names to the entry of its
role, and the element of a queue, taken with an acquire that waits for no load, comes into s0. -/
theorem roleSwitchCompletes : Obligations.RoleSwitchCompletes := by
  rintro x s ⟨c, sl, p⟩ hf hidle hno hr hw
  refine ⟨fun r a hs hn hrole hentry hargw => ⟨?_, fun q qu hq h0 hcap hturn => ?_, fun q qu hq h0 => ?_⟩,
    fun h q => rolesw_illop hidle hr hw h q⟩
  · obtain ⟨hswitched, -, harr⟩ := toRole_arrives none (rolesw_comesAs s x) hrole hentry hargw
    exact ⟨_, rolesw_noQueue hidle hr hw hs hn, hswitched, harr.mono fun p hp => ⟨hp.v, hp.none rfl, hp.masks, hp.walkers⟩⟩
  · let u := (s.afterReads (scSrcs x)).issued
    let w := (u.atRole (s.scVal x) q.val).refocused c sl p
    have hquiet : s.Quiet u := (afterReads_quiet s _).trans (issued_quiet _)
    have hget : tget u.core.queues q.val = some qu := tget_queue_issued _ hq.1
    obtain ⟨hval, y, htake, hocc⟩ := take_fits (s := w) (q := q.val) hcap
    have hring : w.cohort.ringGet (qu.base + 4 * qu.head) = s.cohort.ringGet (qu.base + 4 * qu.head) := by
      rw [show w.cohort = u.cohort from rfl, hquiet.cohort]; rfl
    have hcomes : s.ComesAs ((w.setQueue q.val y).refocused c sl p) :=
      ((((rolesw_comesAs s x).trans (atRole_comesAs ..)).trans (refocused_comesAs ..)).trans (setQueue_comesAs ..)).trans
        (refocused_comesAs ..)
    obtain ⟨hswitched, hqueues, harr⟩ := toRole_arrives (some (s.cohort.ringGet (qu.base + 4 * qu.head))) hcomes hrole hentry hargw
    refine ⟨_, y, ?_, hswitched, ?_, hocc, harr.mono fun p hp => ⟨hp.v, hp.masks, hp.walkers, hp.some _ rfl⟩⟩
    · rw [rolesw_localQueue hidle hr hw hs hn hq, roleTake_local (s := u) hf hno hget hq.2 h0 hturn, htake, hval, hring,
        acquireAt_core (s := w.setQueue q.val y) hf]
    · rw [hqueues]; exact tget_tset_same ..
  · let u := (s.afterReads (scSrcs x)).issued
    have hquiet : s.Quiet u := (afterReads_quiet s _).trans (issued_quiet _)
    have hget : tget u.core.queues q.val = some qu := tget_queue_issued _ hq.1
    exact ⟨u.atRole (s.scVal x) q.val, by rw [rolesw_localQueue hidle hr hw hs hn hq, roleTake_empty hget hq.2 h0],
      rfl, rfl, rfl, rfl, rfl, hquiet.queues⟩

end Sys2Proof.Machine
end
